-- ==== Sys2Proof/Word.lean ====
section
/-!
DEFINITION. The word types of the machine. Only types stand here: every operation on them stands in
Decode.lean or in a file of Machine/.
-/
namespace Sys2Proof

/-- A 64-bit register or address (R38). -/
abbrev Word := BitVec 64

/-- A byte of memory (R12: bytes within larger units are little-endian). -/
abbrev Byte := BitVec 8

/-- A 512-bit vector register (R38). -/
abbrev Vec := BitVec 512

/-- A domain number (R347). -/
abbrev Dom := BitVec 12

/-- A w-register number, as the M forms and the 16-bit forms hold it (R63, R68). -/
abbrev WReg := BitVec 5

/-- A v-register number (R68). -/
abbrev VReg := BitVec 4

/-- An m-register number (R68). -/
abbrev MReg := BitVec 3

/-- A tile slot number (R53). -/
abbrev Slot := BitVec 5

end Sys2Proof
end

