-- ==== Sys2Proof/Config.lean ====
section
/-!
DEFINITION. What an implementation fixes (the fuses of this part, R497; the sizes of R1), the free values, and the
functions that the model does not compute (cryptography). A free value is an opaque constant applied to a counter of
the state or to operands: nothing in Lean can evaluate it.
-/
namespace Sys2Proof.Config

/-- Octets of each enabled flight (R497). DESIGN CHOICE (log 8): a full part. -/
def octetsPerFlight : Nat := 4

/-- The enable word that boot reads from the fuses (R497): version 1, 24 ports, 64 flights on each die. -/
def enableWord : Word := 0x001FFFFFF8102040

/-- Bytes of DRAM of one die (R1): 96 GiB. -/
def dramPerDie : Nat := 96 * 2 ^ 30

/-- The number of packages of the system (R1, R267). DESIGN CHOICE (log 8): the largest system. -/
def packages : Nat := 262144

/-- Whether a page that a walk or POTW names exists (R440). DESIGN CHOICE (log 7): bits 45:44 of a local physical
address name the die, bits 43:0 the byte of its DRAM. -/
def dramExists (pa : Nat) : Bool := pa % 2 ^ 44 < dramPerDie && pa < 2 ^ 46

/-- The die that is the home of a local physical address (log 7). -/
def dieOf (pa : Nat) : Nat := pa / 2 ^ 44 % 4

/-- The ring of a die's log writer, its checkpoint area and its consumer index (R382). DESIGN CHOICE (log 8): the top
2 GiB of the die's DRAM, owned by 0xFFF from boot. -/
def logBase (die : Nat) : Nat := die * 2 ^ 44 + dramPerDie - 2 ^ 31
def logArea (die : Nat) : Nat := logBase die + 2 ^ 30 + 2 ^ 12
def logConsumer (die : Nat) : Nat := logBase die + 2 ^ 30

/-- The ownership entry of a page from boot on (R349, R496): valid, partition 0, owner 0x000, or 0xFFF for the log. -/
def bootPot (page : Nat) : Word :=
  let pa := page * 2 ^ 19 % 2 ^ 46
  if !dramExists pa then 0 else if dramPerDie - 2 ^ 31 ≤ pa % 2 ^ 44 then 0x8FFF else 0x8000

/-- The ownership entry of a page of another chip, as that chip's table holds it at a cycle, and whether a domain's key is
active on another chip then (R495; log 32): by page or chip, domain, cycle. -/
opaque remotePot : Nat → Nat → Word
opaque keyElsewhere : Nat → Nat → Nat → Bool

/-- Of a page of another chip (log 32): what the shared list that its entry names says of a domain, by page, domain and cycle
(R351), and the seal of a line that nobody here has written, by line and cycle (R495, R501). -/
opaque remoteShared : Nat → Nat → Nat → Option Bool
opaque remoteSeal : Nat → Nat → Nat

/-- Whether a wake for a task of a launch is under way from another chip (R289, R478), by launch and cycle. -/
opaque wakeUnderWay : Nat → Nat → Bool

/-- The PASID that a partition's configuration gives a domain (R479), by the counter of free values when the host wrote it. -/
opaque pasid : Nat → Nat → BitVec 20

/-- A register whose value at task start the spec leaves open (R37), by the counter of free values: whether the
register keeps what an earlier task of the domain left there. -/
opaque keepsOld : Nat → Bool

/-- Which of the values that a halfword has had since a task's dispatch a fetch returns (R300), by context, cycle and place. -/
opaque fetchChoice : Nat → Nat → Nat → Nat

/-- Which instance of an inner level's scope, and which run in it, the front end takes for the units of a unit (R269), by the
counter of free values and the unit's indices. -/
opaque instanceChoice : Nat → List Nat → Nat

/-- The cycles that the handler of a request takes, as fair queuing counts them (R487), by the request's order of arrival. -/
opaque handlerCycles : Nat → Nat

/-- The page of host memory that a physical page names for a PASID, through the host's IOMMU (R479). DESIGN CHOICE (log 58): the
spec does not say how a leaf names host memory; a leaf does so whose physical page is none of the chip's DRAM. -/
opaque hostPage : BitVec 20 → Nat → Option Nat

/-- A byte of an image of a core or a flight (R469, R472, R473), by the counter of free values when the image was written,
and the place. -/
opaque imageByte : Nat → Nat → Byte

/-- A word whose value the spec leaves open, by the counter of free values. -/
opaque freeWord : Nat → Word

/-- SHA-512 of a list of bytes (R376, R385). -/
opaque sha512 : List Byte → BitVec 512

/-- RSA-OAEP decryption under the chip's sealing key (R375): the 184 plaintext bytes, or none. -/
opaque oaepOpen : List Byte → Option (List Byte)

/-- RSASSA-PSS signature under the identity key (R377, R385): 512 bytes. -/
opaque sign : List Byte → Nat → Byte

/-- The XTS and GMAC keys that firmware activates at boot for a domain (R369, R496). -/
opaque bootKey : Dom → BitVec 768

/-- The measurement of the firmware that boots (R377, R496), by version. -/
opaque firmwareMeasurement : Nat → BitVec 512

/-- The chip serial (R375, R377). -/
opaque chipSerial : BitVec 128

end Sys2Proof.Config
end

