-- ==== Sys2Proof/Syntax.lean ====
section
/-!
DEFINITION. The instruction set: one constructor of `Instr` for each row of spec/opcode_table.json.
The rows from SUBMISSION_DOORBELL on (but ILL) have no encoding: they are the events of the part that
spec/95 lists as its steps (host accesses, unit steps, expiries, link and power events); they are
constructors of `Instr` as every other row, with the operands the event carries.
-/
namespace Sys2Proof

/-- A 6-bit operand specifier (R66). The five kinds take all 64 codes: 0wwwww, 100ooo, 1010ll, 1011qq, 11iiii. -/
inductive Opnd where
  | w (n : BitVec 5)
  | o (n : BitVec 3)
  | l (n : BitVec 2)
  | q (n : BitVec 2)
  | imm (i : BitVec 4)
  deriving DecidableEq, Repr

/-- The element types of the V and VX forms: the sz codes 000 to 111 (R70). -/
inductive Sz where
  | int8 | int16 | int32 | int64 | bf16 | fp16 | fp32 | fp64
  deriving DecidableEq, Repr

/-- The two-bit rounding select: 00 dynamic, 01 RNE, 10 RTZ, 11 SR (R70). -/
inductive RSel where
  | dyn | rne | rtz | sr
  deriving DecidableEq, Repr

/-- The from and to formats of FCVT, codes 0 to 7 (R158). -/
inductive Cvt where
  | i64 | u64 | i32 | u32 | f64 | f32 | bf16 | f16
  deriving DecidableEq, Repr

/-- Who acknowledges an invalidation (R441, R442): a core, a flight's second level, an engine context
(by the core it serves), a gondola core. -/
inductive InvAgent where
  | core (n : Nat)
  | flight (n : Nat)
  | engine (core : Nat)
  | gondola (n : Nat)
  deriving DecidableEq, Repr

/-- What a host agent (R481) or another chip (R495) does at an address: read n bytes, or write bytes. -/
inductive HostAccess where
  | read (n : Nat)
  | write (data : List Byte)
  deriving DecidableEq, Repr

/-- The AtomicOps of the aperture (R479, R481). -/
inductive HostAtomic where
  | fetchAdd (v : Word)
  | swap (v : Word)
  | cas (expected v : Word)
  deriving DecidableEq, Repr

/-- The remote atomics that arrive over Hexry Link (R289, R495): a timeline signal, or a read-modify-write, of a doubleword or a
word, with the scope of its release if it is one (R306). -/
inductive RemoteOp where
  | tlsig
  /-- a TLWAIT that is held at the timeline here -/
  | tlwait
  | amo (op : BitVec 4) (word : Bool) (rel : Option (BitVec 3))
  | cas (expected : Word) (word : Bool) (rel : Option (BitVec 3))
  deriving DecidableEq, Repr

/-- The reads and writes that arrive over Hexry Link (R495); a write that is a release, with its scope (R306). -/
inductive RemoteAcc where
  | read (n : Nat)
  | write (data : List Byte) (rel : Option (BitVec 3))
  deriving DecidableEq, Repr

/-- The widths a retrain can find passing (R494). -/
inductive LaneWidth where
  | lanes8 | lanes4 | lanes2 | none
  deriving DecidableEq, Repr

/-- A flit as a port receives it (R492): whether its CRC is right, and the fields of its trailer and its payload. -/
structure Flit where
  crcOk : Bool
  seq : BitVec 12
  ack : BitVec 12
  kind : BitVec 4
  vc : BitVec 2
  dest : BitVec 18
  payload : List Byte
  /-- the model's own: the launch for which it has been sent, 0 for none (R478) -/
  launch : Nat := 0
  deriving DecidableEq, Repr

/-- What the security block finds at power-on (R496): the firmware's signature and version, the boot configuration, and what the
fuses enable (R8, R497): the enable word, and the octets less one of each flight that has fewer than 4. -/
structure BootInput where
  signatureOk : Bool
  version : Nat
  trained : Bool
  selfHosted : Bool
  serviceMasks : List (Nat × BitVec 32)
  ptpSource : Option (BitVec 5)
  logK : Nat
  potBase : List Nat
  listBase : List Nat
  spaceBase : List Nat
  handlerBase : List Nat
  mailbox : Nat
  enableWord : Word := 0x001FFFFFF8102040
  coreCounts : List (Nat × Nat) := []
  /-- whether steps 2 and 5 succeed -/
  measured : Bool := true
  started : Bool := true
  deriving DecidableEq, Repr

/-- One constructor per row of spec/opcode_table.json. -/
inductive Instr where
  /-- ILLH (R64): 16-bit illegal halfword; always raises UND. -/
  | illh (x : BitVec 10)
  /-- MOV_16 (R64): 16-bit move: d := s, as OR d, s, w0. -/
  | mov16 (d : WReg) (s : WReg)
  /-- ADD_16 (R64): 16-bit ADD d, d, s. -/
  | add16 (d : WReg) (s : WReg)
  /-- ADDI_16 (R64): 16-bit ADDI d, d, imm5. -/
  | addi16 (d : WReg) (i : BitVec 5)
  /-- SUB_16 (R64): 16-bit SUB d, d, s. -/
  | sub16 (d : WReg) (s : WReg)
  /-- AND_16 (R64): 16-bit AND d, d, s. -/
  | and16 (d : WReg) (s : WReg)
  /-- OR_16 (R64): 16-bit OR d, d, s. -/
  | or16 (d : WReg) (s : WReg)
  /-- XOR_16 (R64): 16-bit XOR d, d, s. -/
  | xor16 (d : WReg) (s : WReg)
  /-- SHLI_16 (R64): 16-bit shift left immediate by 0-15. -/
  | shli16 (d : WReg) (n : BitVec 4)
  /-- SHRI_16 (R64): 16-bit logical shift right immediate by 0-15. -/
  | shri16 (d : WReg) (n : BitVec 4)
  /-- SRAI_16 (R64): 16-bit arithmetic shift right immediate by 0-15. -/
  | srai16 (d : WReg) (n : BitVec 4)
  /-- LI_16 (R64): 16-bit load of a signed 5-bit immediate. -/
  | li16 (d : WReg) (i : BitVec 5)
  /-- LD_16 (R64): 16-bit LD.D from w29 plus 8 x field. -/
  | ld16 (d : WReg) (o : BitVec 5)
  /-- ST_16 (R64): 16-bit ST.D of an even register to w29 plus 8 x field. -/
  | st16 (s : WReg) (o : BitVec 5)
  /-- LDS_16 (R64): 16-bit LD.D from w30 plus 8 x field. -/
  | lds16 (d : WReg) (o : BitVec 5)
  /-- STS_16 (R64): 16-bit ST.D of an odd register or w0 to w30 plus 8 x field. -/
  | sts16 (s : WReg) (o : BitVec 5)
  /-- BEQZ (R64): 16-bit branch if register is zero. -/
  | beqz (a : WReg) (o : BitVec 5)
  /-- BNEZ (R64): 16-bit branch if register is nonzero. -/
  | bnez (a : WReg) (o : BitVec 5)
  /-- J (R64): 16-bit PC-relative jump. -/
  | j (o : BitVec 10)
  /-- JR_16 (R64): 16-bit jump to register without link (RET for w31). -/
  | jr16 (a : WReg)
  /-- END_16 (R148): 16-bit END of the task. -/
  | end16
  /-- PAUSE_16 (R323): 16-bit PAUSE 0: gives up the next issue slot. -/
  | pause16
  /-- NOP (R64): 16-bit no-operation that retires and counts but pushes nothing. -/
  | nop
  /-- BREAK_16 (R461): 16-bit BREAK with a 10-bit code. -/
  | break16 (c : BitVec 10)
  /-- ADD (R125): d := A + B. -/
  | add (d : Opnd) (a : Opnd) (b : Opnd)
  /-- SUB (R125): d := A - B. -/
  | sub (d : Opnd) (a : Opnd) (b : Opnd)
  /-- AND (R125): d := A and B. -/
  | andI (d : Opnd) (a : Opnd) (b : Opnd)
  /-- OR (R125): d := A or B. -/
  | orI (d : Opnd) (a : Opnd) (b : Opnd)
  /-- XOR (R125): d := A xor B. -/
  | xorI (d : Opnd) (a : Opnd) (b : Opnd)
  /-- ANDN (R125): d := A and not B. -/
  | andn (d : Opnd) (a : Opnd) (b : Opnd)
  /-- SHL (R125): Shift left by B mod 64. -/
  | shl (d : Opnd) (a : Opnd) (b : Opnd)
  /-- SHR (R125): Logical shift right by B mod 64. -/
  | shr (d : Opnd) (a : Opnd) (b : Opnd)
  /-- SRA (R125): Arithmetic shift right by B mod 64. -/
  | sra (d : Opnd) (a : Opnd) (b : Opnd)
  /-- ROL (R125): Rotate left by B mod 64. -/
  | rol (d : Opnd) (a : Opnd) (b : Opnd)
  /-- ROR (R125): Rotate right by B mod 64. -/
  | ror (d : Opnd) (a : Opnd) (b : Opnd)
  /-- SLT (R125): Signed set-less-than. -/
  | slt (d : Opnd) (a : Opnd) (b : Opnd)
  /-- SLTU (R125): Unsigned set-less-than. -/
  | sltu (d : Opnd) (a : Opnd) (b : Opnd)
  /-- MIN (R125): Signed minimum. -/
  | minI (d : Opnd) (a : Opnd) (b : Opnd)
  /-- MAX (R125): Signed maximum. -/
  | maxI (d : Opnd) (a : Opnd) (b : Opnd)
  /-- MINU (R125): Unsigned minimum. -/
  | minu (d : Opnd) (a : Opnd) (b : Opnd)
  /-- MAXU (R125): Unsigned maximum. -/
  | maxu (d : Opnd) (a : Opnd) (b : Opnd)
  /-- MUL (R125): Low 64 bits of the product. -/
  | mul (d : Opnd) (a : Opnd) (b : Opnd)
  /-- MULH (R125): High 64 bits of the signed product. -/
  | mulh (d : Opnd) (a : Opnd) (b : Opnd)
  /-- MULHU (R125): High 64 bits of the unsigned product. -/
  | mulhu (d : Opnd) (a : Opnd) (b : Opnd)
  /-- DIV (R127): Signed quotient with defined edge cases. -/
  | divI (d : Opnd) (a : Opnd) (b : Opnd)
  /-- DIVU (R127): Unsigned quotient with defined edge cases. -/
  | divu (d : Opnd) (a : Opnd) (b : Opnd)
  /-- REM (R127): Signed remainder with defined edge cases. -/
  | remI (d : Opnd) (a : Opnd) (b : Opnd)
  /-- REMU (R127): Unsigned remainder with defined edge cases. -/
  | remu (d : Opnd) (a : Opnd) (b : Opnd)
  /-- SEL (R126): d := old d nonzero ? A : B. -/
  | sel (d : Opnd) (a : Opnd) (b : Opnd)
  /-- ADD_W (R125): 32-bit add, sign-extended. -/
  | addW (d : Opnd) (a : Opnd) (b : Opnd)
  /-- SUB_W (R125): 32-bit subtract, sign-extended. -/
  | subW (d : Opnd) (a : Opnd) (b : Opnd)
  /-- SHL_W (R125): 32-bit shift left, sign-extended. -/
  | shlW (d : Opnd) (a : Opnd) (b : Opnd)
  /-- SHR_W (R125): 32-bit logical shift right, sign-extended. -/
  | shrW (d : Opnd) (a : Opnd) (b : Opnd)
  /-- SRA_W (R125): 32-bit arithmetic shift right, sign-extended. -/
  | sraW (d : Opnd) (a : Opnd) (b : Opnd)
  /-- MUL_W (R125): 32-bit multiply, sign-extended. -/
  | mulW (d : Opnd) (a : Opnd) (b : Opnd)
  /-- CLZ (R128): Count leading zeros. -/
  | clz (d : Opnd) (a : Opnd)
  /-- CTZ (R128): Count trailing zeros. -/
  | ctz (d : Opnd) (a : Opnd)
  /-- POPC (R128): Population count. -/
  | popc (d : Opnd) (a : Opnd)
  /-- SEXT_B (R128): Sign-extend byte. -/
  | sextB (d : Opnd) (a : Opnd)
  /-- SEXT_H (R128): Sign-extend halfword. -/
  | sextH (d : Opnd) (a : Opnd)
  /-- SEXT_W (R128): Sign-extend word. -/
  | sextW (d : Opnd) (a : Opnd)
  /-- ZEXT_B (R128): Zero-extend byte. -/
  | zextB (d : Opnd) (a : Opnd)
  /-- ZEXT_H (R128): Zero-extend halfword. -/
  | zextH (d : Opnd) (a : Opnd)
  /-- ZEXT_W (R128): Zero-extend word. -/
  | zextW (d : Opnd) (a : Opnd)
  /-- BREV (R128): Bit reverse. -/
  | brev (d : Opnd) (a : Opnd)
  /-- BSWAP (R128): Byte swap. -/
  | bswap (d : Opnd) (a : Opnd)
  /-- BEXT (R129): Extract a bit field zero-extended. -/
  | bext (d : Opnd) (a : Opnd) (l : BitVec 6) (p : BitVec 6)
  /-- BINS (R129): Insert a bit field into d. -/
  | bins (d : Opnd) (a : Opnd) (l : BitVec 6) (p : BitVec 6)
  /-- ADDI (R130): Add signed 12-bit immediate. -/
  | addi (d : Opnd) (a : Opnd) (i : BitVec 12)
  /-- ANDI (R130): AND with immediate. -/
  | andImm (d : Opnd) (a : Opnd) (i : BitVec 12)
  /-- ORI (R130): OR with immediate. -/
  | orImm (d : Opnd) (a : Opnd) (i : BitVec 12)
  /-- XORI (R130): XOR with immediate. -/
  | xorImm (d : Opnd) (a : Opnd) (i : BitVec 12)
  /-- SLTI (R130): Signed set-less-than immediate. -/
  | slti (d : Opnd) (a : Opnd) (i : BitVec 12)
  /-- SLTIU (R130): Unsigned set-less-than immediate. -/
  | sltiu (d : Opnd) (a : Opnd) (i : BitVec 12)
  /-- SHLI (R131): Shift left by immediate 0-63. -/
  | shli (d : Opnd) (a : Opnd) (n : BitVec 6)
  /-- SHRI (R131): Logical shift right by immediate. -/
  | shri (d : Opnd) (a : Opnd) (n : BitVec 6)
  /-- SRAI (R131): Arithmetic shift right by immediate. -/
  | srai (d : Opnd) (a : Opnd) (n : BitVec 6)
  /-- RORI (R131): Rotate right by immediate. -/
  | rori (d : Opnd) (a : Opnd) (n : BitVec 6)
  /-- ADDI_W (R132): 32-bit add immediate, sign-extended. -/
  | addiW (d : Opnd) (a : Opnd) (i : BitVec 12)
  /-- LI (R133): Load sign-extended 18-bit immediate. -/
  | li (d : Opnd) (i : BitVec 18)
  /-- LIS (R133): d := (d << 18) + imm18. -/
  | lis (d : Opnd) (i : BitVec 18)
  /-- LPC (R133): PC-relative address load. -/
  | lpc (d : Opnd) (i : BitVec 18)
  /-- JMP (R134): PC-relative jump. -/
  | jmp (o : BitVec 24)
  /-- CALL (R134): PC-relative call linking w31. -/
  | call (o : BitVec 24)
  /-- JR (R135): Jump to register plus offset with optional link. -/
  | jr (d : Opnd) (a : Opnd) (i : BitVec 12)
  /-- B_EQ (R136): Branch if equal. -/
  | bEq (a : Opnd) (b : Opnd) (o : BitVec 12)
  /-- B_NE (R136): Branch if not equal. -/
  | bNe (a : Opnd) (b : Opnd) (o : BitVec 12)
  /-- B_LT (R136): Branch if signed less. -/
  | bLt (a : Opnd) (b : Opnd) (o : BitVec 12)
  /-- B_GE (R136): Branch if signed greater or equal. -/
  | bGe (a : Opnd) (b : Opnd) (o : BitVec 12)
  /-- B_LTU (R136): Branch if unsigned less. -/
  | bLtu (a : Opnd) (b : Opnd) (o : BitVec 12)
  /-- B_GEU (R136): Branch if unsigned greater or equal. -/
  | bGeu (a : Opnd) (b : Opnd) (o : BitVec 12)
  /-- B_BS (R136): Branch if bit set. -/
  | bBs (a : Opnd) (b : Opnd) (o : BitVec 12)
  /-- B_BC (R136): Branch if bit clear. -/
  | bBc (a : Opnd) (b : Opnd) (o : BitVec 12)
  /-- LD_B (R139): Load signed byte. -/
  | ldB (d : Opnd) (b : Opnd) (i : BitVec 12)
  /-- LD_H (R139): Load signed halfword. -/
  | ldH (d : Opnd) (b : Opnd) (i : BitVec 12)
  /-- LD_W (R139): Load signed word. -/
  | ldW (d : Opnd) (b : Opnd) (i : BitVec 12)
  /-- LD_D (R139): Load doubleword. -/
  | ldD (d : Opnd) (b : Opnd) (i : BitVec 12)
  /-- LD_BU (R139): Load unsigned byte. -/
  | ldBu (d : Opnd) (b : Opnd) (i : BitVec 12)
  /-- LD_HU (R139): Load unsigned halfword. -/
  | ldHu (d : Opnd) (b : Opnd) (i : BitVec 12)
  /-- LD_WU (R139): Load unsigned word. -/
  | ldWu (d : Opnd) (b : Opnd) (i : BitVec 12)
  /-- ST_B (R139): Store byte; parks on translation failure. -/
  | stB (d : Opnd) (b : Opnd) (i : BitVec 12)
  /-- ST_H (R139): Store halfword. -/
  | stH (d : Opnd) (b : Opnd) (i : BitVec 12)
  /-- ST_W (R139): Store word. -/
  | stW (d : Opnd) (b : Opnd) (i : BitVec 12)
  /-- ST_D (R139): Store doubleword. -/
  | stD (d : Opnd) (b : Opnd) (i : BitVec 12)
  /-- LDX (R142): Indexed sign-extending load. -/
  | ldx (d : Opnd) (a : Opnd) (b : Opnd) (z : BitVec 2) (s : BitVec 2)
  /-- LDXU (R142): Indexed zero-extending load. -/
  | ldxu (d : Opnd) (a : Opnd) (b : Opnd) (z : BitVec 2) (s : BitVec 2)
  /-- STX (R142): Indexed store. -/
  | stx (d : Opnd) (a : Opnd) (b : Opnd) (z : BitVec 2) (s : BitVec 2)
  /-- LDAQ (R317): Acquire load at a scope. -/
  | ldaq (d : WReg) (a : WReg) (z : BitVec 2) (s : BitVec 3)
  /-- STRL (R317): Release store at a scope; waits for the replay queue. -/
  | strl (d : WReg) (a : WReg) (z : BitVec 2) (s : BitVec 3)
  /-- AMO_ADD (R318): Atomic 64-bit add. -/
  | amoAdd (d : WReg) (a : WReg) (b : WReg) (o : BitVec 2) (s : BitVec 3)
  /-- AMO_AND (R318): Atomic 64-bit AND. -/
  | amoAnd (d : WReg) (a : WReg) (b : WReg) (o : BitVec 2) (s : BitVec 3)
  /-- AMO_OR (R318): Atomic 64-bit OR. -/
  | amoOr (d : WReg) (a : WReg) (b : WReg) (o : BitVec 2) (s : BitVec 3)
  /-- AMO_XOR (R318): Atomic 64-bit XOR. -/
  | amoXor (d : WReg) (a : WReg) (b : WReg) (o : BitVec 2) (s : BitVec 3)
  /-- AMO_MIN (R318): Atomic 64-bit signed minimum. -/
  | amoMin (d : WReg) (a : WReg) (b : WReg) (o : BitVec 2) (s : BitVec 3)
  /-- AMO_MAX (R318): Atomic 64-bit signed maximum. -/
  | amoMax (d : WReg) (a : WReg) (b : WReg) (o : BitVec 2) (s : BitVec 3)
  /-- AMO_MINU (R318): Atomic 64-bit unsigned minimum. -/
  | amoMinu (d : WReg) (a : WReg) (b : WReg) (o : BitVec 2) (s : BitVec 3)
  /-- AMO_MAXU (R318): Atomic 64-bit unsigned maximum. -/
  | amoMaxu (d : WReg) (a : WReg) (b : WReg) (o : BitVec 2) (s : BitVec 3)
  /-- AMO_SWAP (R318): Atomic 64-bit swap. -/
  | amoSwap (d : WReg) (a : WReg) (b : WReg) (o : BitVec 2) (s : BitVec 3)
  /-- AMO_FADD (R319): Atomic FP64 add, RNE. -/
  | amoFadd (d : WReg) (a : WReg) (b : WReg) (o : BitVec 2) (s : BitVec 3)
  /-- AMO_FMAX (R319): Atomic FP64 maximum. -/
  | amoFmax (d : WReg) (a : WReg) (b : WReg) (o : BitVec 2) (s : BitVec 3)
  /-- AMO_FMIN (R319): Atomic FP64 minimum. -/
  | amoFmin (d : WReg) (a : WReg) (b : WReg) (o : BitVec 2) (s : BitVec 3)
  /-- AMO_FAMAX (R319): Atomic FP64 maximum magnitude. -/
  | amoFamax (d : WReg) (a : WReg) (b : WReg) (o : BitVec 2) (s : BitVec 3)
  /-- AMO_W_ADD (R318): Atomic 32-bit add. -/
  | amoWAdd (d : WReg) (a : WReg) (b : WReg) (o : BitVec 2) (s : BitVec 3)
  /-- AMO_W_AND (R318): Atomic 32-bit AND. -/
  | amoWAnd (d : WReg) (a : WReg) (b : WReg) (o : BitVec 2) (s : BitVec 3)
  /-- AMO_W_OR (R318): Atomic 32-bit OR. -/
  | amoWOr (d : WReg) (a : WReg) (b : WReg) (o : BitVec 2) (s : BitVec 3)
  /-- AMO_W_XOR (R318): Atomic 32-bit XOR. -/
  | amoWXor (d : WReg) (a : WReg) (b : WReg) (o : BitVec 2) (s : BitVec 3)
  /-- AMO_W_MIN (R318): Atomic 32-bit signed minimum. -/
  | amoWMin (d : WReg) (a : WReg) (b : WReg) (o : BitVec 2) (s : BitVec 3)
  /-- AMO_W_MAX (R318): Atomic 32-bit signed maximum. -/
  | amoWMax (d : WReg) (a : WReg) (b : WReg) (o : BitVec 2) (s : BitVec 3)
  /-- AMO_W_MINU (R318): Atomic 32-bit unsigned minimum. -/
  | amoWMinu (d : WReg) (a : WReg) (b : WReg) (o : BitVec 2) (s : BitVec 3)
  /-- AMO_W_MAXU (R318): Atomic 32-bit unsigned maximum. -/
  | amoWMaxu (d : WReg) (a : WReg) (b : WReg) (o : BitVec 2) (s : BitVec 3)
  /-- AMO_W_SWAP (R318): Atomic 32-bit swap. -/
  | amoWSwap (d : WReg) (a : WReg) (b : WReg) (o : BitVec 2) (s : BitVec 3)
  /-- AMO_W_FADD (R319): Atomic FP32 add, RNE. -/
  | amoWFadd (d : WReg) (a : WReg) (b : WReg) (o : BitVec 2) (s : BitVec 3)
  /-- AMO_W_FMAX (R319): Atomic FP32 maximum. -/
  | amoWFmax (d : WReg) (a : WReg) (b : WReg) (o : BitVec 2) (s : BitVec 3)
  /-- AMO_W_FMIN (R319): Atomic FP32 minimum. -/
  | amoWFmin (d : WReg) (a : WReg) (b : WReg) (o : BitVec 2) (s : BitVec 3)
  /-- AMO_W_FAMAX (R319): Atomic FP32 maximum magnitude. -/
  | amoWFamax (d : WReg) (a : WReg) (b : WReg) (o : BitVec 2) (s : BitVec 3)
  /-- CAS (R320): 64-bit compare-and-swap. -/
  | cas (d : WReg) (a : WReg) (b : WReg) (o : BitVec 2) (s : BitVec 3)
  /-- CAS_W (R320): 32-bit compare-and-swap. -/
  | casW (d : WReg) (a : WReg) (b : WReg) (o : BitVec 2) (s : BitVec 3)
  /-- FENCE (R321): Orders named access kinds at a scope; .eng and .xlt add engine or translation ordering. -/
  | fence (f : BitVec 4) (k : BitVec 2) (s : BitVec 3)
  /-- WAITM (R322): Spins reading a word until a condition against B holds. -/
  | waitm (d : WReg) (a : WReg) (b : WReg) (c : BitVec 4) (o : BitVec 2) (s : BitVec 3)
  /-- PAUSE (R323): Gives up issue slots for n cycles. -/
  | pause (n : BitVec 12)
  /-- FADD_D (R154): FP64 add. -/
  | faddD (d : Opnd) (a : Opnd) (b : Opnd) (r : RSel)
  /-- FSUB_D (R154): FP64 subtract. -/
  | fsubD (d : Opnd) (a : Opnd) (b : Opnd) (r : RSel)
  /-- FMUL_D (R154): FP64 multiply. -/
  | fmulD (d : Opnd) (a : Opnd) (b : Opnd) (r : RSel)
  /-- FMIN_D (R155): FP64 minimum. -/
  | fminD (d : Opnd) (a : Opnd) (b : Opnd)
  /-- FMAX_D (R155): FP64 maximum. -/
  | fmaxD (d : Opnd) (a : Opnd) (b : Opnd)
  /-- FCMPEQ_D (R155): FP64 compare equal. -/
  | fcmpeqD (d : Opnd) (a : Opnd) (b : Opnd)
  /-- FCMPLT_D (R155): FP64 compare less. -/
  | fcmpltD (d : Opnd) (a : Opnd) (b : Opnd)
  /-- FCMPLE_D (R155): FP64 compare less or equal. -/
  | fcmpleD (d : Opnd) (a : Opnd) (b : Opnd)
  /-- FSGNJ_D (R154): FP64 sign inject. -/
  | fsgnjD (d : Opnd) (a : Opnd) (b : Opnd)
  /-- FSGNJN_D (R154): FP64 negated sign inject. -/
  | fsgnjnD (d : Opnd) (a : Opnd) (b : Opnd)
  /-- FSGNJX_D (R154): FP64 xor sign inject. -/
  | fsgnjxD (d : Opnd) (a : Opnd) (b : Opnd)
  /-- FCLASS_D (R154): FP64 one-hot classification. -/
  | fclassD (d : Opnd) (a : Opnd)
  /-- FRCP_D (R156): FP64 correctly rounded reciprocal. -/
  | frcpD (d : Opnd) (a : Opnd) (r : RSel)
  /-- FRSQ_D (R156): FP64 correctly rounded reciprocal square root. -/
  | frsqD (d : Opnd) (a : Opnd) (r : RSel)
  /-- FADD_S (R154): FP32 add. -/
  | faddS (d : Opnd) (a : Opnd) (b : Opnd) (r : RSel)
  /-- FSUB_S (R154): FP32 subtract. -/
  | fsubS (d : Opnd) (a : Opnd) (b : Opnd) (r : RSel)
  /-- FMUL_S (R154): FP32 multiply. -/
  | fmulS (d : Opnd) (a : Opnd) (b : Opnd) (r : RSel)
  /-- FMIN_S (R155): FP32 minimum. -/
  | fminS (d : Opnd) (a : Opnd) (b : Opnd)
  /-- FMAX_S (R155): FP32 maximum. -/
  | fmaxS (d : Opnd) (a : Opnd) (b : Opnd)
  /-- FCMPEQ_S (R155): FP32 compare equal. -/
  | fcmpeqS (d : Opnd) (a : Opnd) (b : Opnd)
  /-- FCMPLT_S (R155): FP32 compare less. -/
  | fcmpltS (d : Opnd) (a : Opnd) (b : Opnd)
  /-- FCMPLE_S (R155): FP32 compare less or equal. -/
  | fcmpleS (d : Opnd) (a : Opnd) (b : Opnd)
  /-- FSGNJ_S (R154): FP32 sign inject. -/
  | fsgnjS (d : Opnd) (a : Opnd) (b : Opnd)
  /-- FSGNJN_S (R154): FP32 negated sign inject. -/
  | fsgnjnS (d : Opnd) (a : Opnd) (b : Opnd)
  /-- FSGNJX_S (R154): FP32 xor sign inject. -/
  | fsgnjxS (d : Opnd) (a : Opnd) (b : Opnd)
  /-- FCLASS_S (R154): FP32 one-hot classification. -/
  | fclassS (d : Opnd) (a : Opnd)
  /-- FRCP_S (R156): FP32 correctly rounded reciprocal. -/
  | frcpS (d : Opnd) (a : Opnd) (r : RSel)
  /-- FRSQ_S (R156): FP32 correctly rounded reciprocal square root. -/
  | frsqS (d : Opnd) (a : Opnd) (r : RSel)
  /-- FMA_D (R157): FP64 fused A x B + d. -/
  | fmaD (d : Opnd) (a : Opnd) (b : Opnd) (r : RSel)
  /-- FMS_D (R157): FP64 fused A x B - d. -/
  | fmsD (d : Opnd) (a : Opnd) (b : Opnd) (r : RSel)
  /-- FNMA_D (R157): FP64 fused -(A x B) - d. -/
  | fnmaD (d : Opnd) (a : Opnd) (b : Opnd) (r : RSel)
  /-- FNMS_D (R157): FP64 fused -(A x B) + d. -/
  | fnmsD (d : Opnd) (a : Opnd) (b : Opnd) (r : RSel)
  /-- FMA_S (R157): FP32 fused A x B + d. -/
  | fmaS (d : Opnd) (a : Opnd) (b : Opnd) (r : RSel)
  /-- FMS_S (R157): FP32 fused A x B - d. -/
  | fmsS (d : Opnd) (a : Opnd) (b : Opnd) (r : RSel)
  /-- FNMA_S (R157): FP32 fused -(A x B) - d. -/
  | fnmaS (d : Opnd) (a : Opnd) (b : Opnd) (r : RSel)
  /-- FNMS_S (R157): FP32 fused -(A x B) + d. -/
  | fnmsS (d : Opnd) (a : Opnd) (b : Opnd) (r : RSel)
  /-- FCVT (R158): Scalar conversion between integer and floating formats with one rounding. -/
  | fcvt (d : Opnd) (a : Opnd) (r : RSel) (f : Cvt) (t : Cvt)
  /-- FMT (R238): Prefix setting formats, rounding, saturation, scale and codebook of the next instruction. -/
  | fmt (a : BitVec 4) (b : BitVec 4) (c : BitVec 4) (r : BitVec 3) (t : Bool) (s : BitVec 3) (n : BitVec 2)
  /-- CBLD (R215): Loads 32 bytes into a codebook register. -/
  | cbld (n : BitVec 2) (b : Opnd) (i : BitVec 12)
  /-- SCSET (R222): Sets a scale register from a source. -/
  | scset (n : BitVec 3) (a : Opnd)
  /-- SCGET (R245): Reads a scale register. -/
  | scget (d : Opnd) (n : BitVec 3)
  /-- VADD (R164): Vector add. -/
  | vadd (d : VReg) (a : VReg) (b : VReg) (m : MReg) (s : Sz)
  /-- VSUB (R164): Vector subtract. -/
  | vsub (d : VReg) (a : VReg) (b : VReg) (m : MReg) (s : Sz)
  /-- VMUL (R164): Vector multiply. -/
  | vmul (d : VReg) (a : VReg) (b : VReg) (m : MReg) (s : Sz)
  /-- VMIN (R164): Vector minimum. -/
  | vmin (d : VReg) (a : VReg) (b : VReg) (m : MReg) (s : Sz)
  /-- VMAX (R164): Vector maximum. -/
  | vmax (d : VReg) (a : VReg) (b : VReg) (m : MReg) (s : Sz)
  /-- VAND (R164): Vector AND. -/
  | vand (d : VReg) (a : VReg) (b : VReg) (m : MReg) (s : Sz)
  /-- VOR (R164): Vector OR. -/
  | vor (d : VReg) (a : VReg) (b : VReg) (m : MReg) (s : Sz)
  /-- VXOR (R164): Vector XOR. -/
  | vxor (d : VReg) (a : VReg) (b : VReg) (m : MReg) (s : Sz)
  /-- VANDN (R164): Vector AND-NOT. -/
  | vandn (d : VReg) (a : VReg) (b : VReg) (m : MReg) (s : Sz)
  /-- VSHL (R164): Vector shift left. -/
  | vshl (d : VReg) (a : VReg) (b : VReg) (m : MReg) (s : Sz)
  /-- VSHR (R164): Vector logical shift right. -/
  | vshr (d : VReg) (a : VReg) (b : VReg) (m : MReg) (s : Sz)
  /-- VSRA (R164): Vector arithmetic shift right. -/
  | vsra (d : VReg) (a : VReg) (b : VReg) (m : MReg) (s : Sz)
  /-- VABS (R164): Vector absolute value. -/
  | vabs (d : VReg) (a : VReg) (m : MReg) (s : Sz)
  /-- VNEG (R164): Vector negate. -/
  | vneg (d : VReg) (a : VReg) (m : MReg) (s : Sz)
  /-- VSEL (R164): Vector select by mask, writing every element. -/
  | vsel (d : VReg) (a : VReg) (b : VReg) (m : MReg) (s : Sz)
  /-- VMOV (R164): Vector move. -/
  | vmov (d : VReg) (a : VReg) (m : MReg) (s : Sz)
  /-- VMULH (R164): Vector high signed product. -/
  | vmulh (d : VReg) (a : VReg) (b : VReg) (m : MReg) (s : Sz)
  /-- VADDS (R164): Vector saturating add. -/
  | vadds (d : VReg) (a : VReg) (b : VReg) (m : MReg) (s : Sz)
  /-- VSUBS (R164): Vector saturating subtract. -/
  | vsubs (d : VReg) (a : VReg) (b : VReg) (m : MReg) (s : Sz)
  /-- VFMA (R165): Vector fused multiply-add. -/
  | vfma (d : VReg) (a : VReg) (b : VReg) (m : MReg) (s : Sz) (r : RSel)
  /-- VFMS (R165): Vector fused multiply-subtract. -/
  | vfms (d : VReg) (a : VReg) (b : VReg) (m : MReg) (s : Sz) (r : RSel)
  /-- VFNMA (R165): Vector negated fused multiply-add. -/
  | vfnma (d : VReg) (a : VReg) (b : VReg) (m : MReg) (s : Sz) (r : RSel)
  /-- VFNMS (R165): Vector negated fused multiply-subtract. -/
  | vfnms (d : VReg) (a : VReg) (b : VReg) (m : MReg) (s : Sz) (r : RSel)
  /-- VCMP (R166): Vector compare writing a mask register. -/
  | vcmp (n : MReg) (a : VReg) (b : VReg) (m : MReg) (s : Sz) (c : BitVec 6)
  /-- VREDADD (R167): Fixed-tree reduction sum into element 0. -/
  | vredadd (d : VReg) (a : VReg) (m : MReg) (s : Sz)
  /-- VREDMIN (R167): Reduction minimum. -/
  | vredmin (d : VReg) (a : VReg) (m : MReg) (s : Sz)
  /-- VREDMAX (R167): Reduction maximum. -/
  | vredmax (d : VReg) (a : VReg) (m : MReg) (s : Sz)
  /-- VREDAMAX (R167): Reduction maximum magnitude. -/
  | vredamax (d : VReg) (a : VReg) (m : MReg) (s : Sz)
  /-- VREDOR (R167): Reduction OR. -/
  | vredor (d : VReg) (a : VReg) (m : MReg) (s : Sz)
  /-- VREDAND (R167): Reduction AND. -/
  | vredand (d : VReg) (a : VReg) (m : MReg) (s : Sz)
  /-- VBCAST (R168): Broadcasts a scalar into every element. -/
  | vbcast (d : VReg) (s : Opnd) (z : Sz)
  /-- VINS (R168): Inserts a scalar into one element. -/
  | vins (d : VReg) (s : Opnd) (i : Opnd) (z : Sz)
  /-- VEXTR (R168): Pushes one element into q2 or q3. -/
  | vextr (d : VReg) (s : Opnd) (i : Opnd) (z : Sz)
  /-- VPERM (R169): Permutes elements by index vector. -/
  | vperm (d : VReg) (a : VReg) (b : VReg) (s : Sz)
  /-- VSLIDEUP (R169): Slides elements up by k. -/
  | vslideup (d : VReg) (a : VReg) (b : VReg) (s : Sz)
  /-- VSLIDEDN (R169): Slides elements down by k. -/
  | vslidedn (d : VReg) (a : VReg) (b : VReg) (s : Sz)
  /-- VZIP (R169): Interleaves two vectors. -/
  | vzip (d : VReg) (a : VReg) (b : VReg) (s : Sz)
  /-- VUNZIP (R169): De-interleaves two vectors. -/
  | vunzip (d : VReg) (a : VReg) (b : VReg) (s : Sz)
  /-- VIOTA (R169): Writes element indices. -/
  | viota (d : VReg) (s : Sz)
  /-- VCVT (R170): Same-width vector format conversion. -/
  | vcvt (d : VReg) (a : VReg) (u : Sz) (t : Sz)
  /-- VCVT_LO (R170): Widening conversion of the low half. -/
  | vcvtLo (d : VReg) (a : VReg) (u : Sz) (t : Sz)
  /-- VCVT_HI (R170): Widening conversion of the high half. -/
  | vcvtHi (d : VReg) (a : VReg) (u : Sz) (t : Sz)
  /-- VCVT_NARROW (R170): Narrowing conversion of two sources into one register. -/
  | vcvtNarrow (d : VReg) (a : VReg) (b : VReg) (u : Sz) (t : Sz)
  /-- VPACK (R247): Packs byte codes into dense 4- or 6-bit layout. -/
  | vpack (d : VReg) (a : VReg) (p : BitVec 3)
  /-- VUNPK_LO (R248): Unpacks low dense elements to bytes. -/
  | vunpkLo (d : VReg) (a : VReg)
  /-- VUNPK_HI (R248): Unpacks high dense elements to bytes. -/
  | vunpkHi (d : VReg) (a : VReg)
  /-- VDEQ (R249): Decodes narrow or C4 elements to a wide float with scale. -/
  | vdeq (d : VReg) (a : VReg) (p : BitVec 3)
  /-- VSCALE (R250): Multiplies every element by a scale register. -/
  | vscale (d : VReg) (a : VReg)
  /-- VQNT (R223): Quantises two wide sources into a narrow format under scale. -/
  | vqnt (d : VReg) (a : VReg) (b : VReg) (p : BitVec 3)
  /-- VRCP (R171): Vector reciprocal. -/
  | vrcp (d : VReg) (a : VReg) (m : MReg) (s : Sz)
  /-- VRSQ (R171): Vector reciprocal square root. -/
  | vrsq (d : VReg) (a : VReg) (m : MReg) (s : Sz)
  /-- VEXP2 (R171): Vector power of two. -/
  | vexp2 (d : VReg) (a : VReg) (m : MReg) (s : Sz)
  /-- VLOG2 (R171): Vector base-2 logarithm. -/
  | vlog2 (d : VReg) (a : VReg) (m : MReg) (s : Sz)
  /-- VLD (R173): 64-byte aligned masked vector load. -/
  | vld (d : VReg) (s : Opnd) (o : BitVec 11) (m : MReg)
  /-- VST (R173): 64-byte aligned masked vector store. -/
  | vst (d : VReg) (s : Opnd) (o : BitVec 11) (m : MReg)
  /-- VLDS (R174): Strided vector load. -/
  | vlds (d : VReg) (s : Opnd) (i : Opnd) (z : Sz) (m : MReg)
  /-- VSTS (R174): Strided vector store. -/
  | vsts (d : VReg) (s : Opnd) (i : Opnd) (z : Sz) (m : MReg)
  /-- VGATH (R175): Indexed vector gather. -/
  | vgath (d : VReg) (s : Opnd) (x : VReg) (z : Sz) (m : MReg)
  /-- VSCAT (R175): Indexed vector scatter in ascending element order. -/
  | vscat (d : VReg) (s : Opnd) (x : VReg) (z : Sz) (m : MReg)
  /-- VLDT (R176): Loads a 64-byte block of a READY slot row, acquiring the engine writes. -/
  | vldt (d : VReg) (t : Slot) (r : BitVec 6) (c : BitVec 6)
  /-- VSTT (R176): Stores a 64-byte block into a READY slot row. -/
  | vstt (d : VReg) (t : Slot) (r : BitVec 6) (c : BitVec 6)
  /-- REP (R180): Replays the next n instructions count times with rotating fields. -/
  | rep (n : BitVec 4) (c : Opnd) (s : BitVec 5) (f : BitVec 5)
  /-- TSET (R188): Binds a slot to a base and shape, leaving it READY. -/
  | tset (t : Slot) (a : Opnd) (b : Opnd)
  /-- TSTATE (R189): Reads a slot's shape or state word. -/
  | tstate (d : Opnd) (t : Slot) (s : Bool)
  /-- TDRAIN (R192): Removes an unstarted slot command or waits for a started one. -/
  | tdrain (d : Opnd) (t : Slot)
  /-- TFREE (R191): Waits as TWAIT then returns a READY slot to EMPTY. -/
  | tfree (t : Slot)
  /-- TWAIT (R190): Blocks until the slot is READY or EMPTY. -/
  | twait (t : Slot)
  /-- RGET (R205): Kicks an engine copy of memory rows into a slot, making it FILLING. -/
  | rget (t : Slot) (a : Opnd) (b : Opnd)
  /-- RPUT (R205): Kicks an engine copy of slot rows to memory, making it DRAINING. -/
  | rput (t : Slot) (a : Opnd) (b : Opnd)
  /-- RCOPY (R207): Kicks a descriptor-driven memory copy. -/
  | rcopy (d : Opnd) (a : Opnd)
  /-- RRED (R208): Kicks a descriptor-driven atomic element-wise reduction. -/
  | rred (d : Opnd) (a : Opnd)
  /-- RGATH (R206): Kicks a table-driven gather of rows into a slot. -/
  | rgath (t : Slot) (a : Opnd) (b : Opnd)
  /-- RSCAT (R206): Kicks a table-driven scatter of slot rows to memory. -/
  | rscat (t : Slot) (a : Opnd) (b : Opnd)
  /-- RMCAST (R209): Kicks a multicast copy to up to four replicas. -/
  | rmcast (d : Opnd) (a : Opnd)
  /-- RSTAT (R204): Reads the engine context status word, acquiring completions. -/
  | rstat (d : Opnd)
  /-- RCTX (R210): Supervisor sets an engine context's weight. -/
  | rctx (d : Opnd) (a : Opnd) (b : Opnd)
  /-- LBLD (R240): Enters a bank-load command into the loft queue. -/
  | lbld (s : Slot) (t : Bool)
  /-- LSWAP (R241): Enters a bank-role exchange command into the loft queue. -/
  | lswap
  /-- LMM (R219): Enters a matrix-multiply command bound to the active bank. -/
  | lmm (r : BitVec 4) (e : BitVec 2) (s : Slot) (c : Bool)
  /-- LZERO (R242): Enters a command zeroing accumulator rows. -/
  | lzero (r : BitVec 4) (m : BitVec 4)
  /-- LDRN (R221): Enters a drain of accumulator rows into a slot, making it FILLING. -/
  | ldrn (r : BitVec 4) (s : Slot)
  /-- LPRI (R218): Stamps priority and weight on later loft commands. -/
  | lpri (p : BitVec 2) (w : BitVec 4)
  /-- LSTAT (R243): Enters a loft status query command. -/
  | lstat (d : Opnd)
  /-- LFENCE (R217): Completes when the task's earlier loft commands complete. -/
  | lfence
  /-- START (R145): Starts a helper task in a free helper context. -/
  | start (d : WReg) (a : WReg)
  /-- HWAIT (R147): Waits until the named helpers have ended. -/
  | hwait (a : WReg)
  /-- END (R148): Ends the task after its stores drain. -/
  | endTask
  /-- SLEEP (R149): Blocks until a wake event or a cycle limit. -/
  | sleep (d : WReg) (a : WReg)
  /-- SELF (R150): Writes the task's identity word. -/
  | selfId (d : WReg)
  /-- SEND (R324): Sends an active message to a core by number. -/
  | sendMsg (d : WReg) (a : WReg) (b : WReg)
  /-- SENDA (R256): Sends an active message to the member owning a data address. -/
  | senda (a : WReg) (b : WReg)
  /-- FORK (R327): Increments a join count and pushes a stealable task. -/
  | forkT (a : WReg) (b : WReg)
  /-- JOIN (R327): Registers a continuation on a join record and ends the task. -/
  | joinT (a : WReg) (b : WReg)
  /-- DONE (R328): Arrives at a barrier, releasing and decrementing its counter. -/
  | doneB (a : WReg)
  /-- LAUNCH (R329): Enqueues a child launch record and returns a status. -/
  | launchI (d : WReg) (a : WReg)
  /-- TLWAIT (R331): Waits until a timeline reaches a threshold or is aborted. -/
  | tlwait (d : WReg) (a : WReg) (b : WReg) (s : BitVec 3)
  /-- TLSIG (R330): Adds to a timeline value with release. -/
  | tlsig (a : WReg) (b : WReg) (s : BitVec 3)
  /-- MIGRATE (R333): Moves the task between a small core and a gondola thread. -/
  | migrate (d : WReg)
  /-- GCALL (R337): Calls a gate, pushing a domain-stack frame and switching domain. -/
  | gcall (d : WReg) (a : WReg) (b : WReg)
  /-- GRET (R338): Returns from a gate, copying the window back and restoring the caller. -/
  | gret (a : WReg)
  /-- GPUB (R392): Publishes a gate descriptor into the gate table. -/
  | gpub (d : WReg) (a : WReg)
  /-- GREVOKE (R341): Supervisor revokes a domain, withdrawing gates and unwinding frames. -/
  | grevoke (d : WReg) (a : WReg)
  /-- GREVOKE_KILL (R393): Three-operand GREVOKE that revokes or kills a domain by kill word. -/
  | grevokeKill (d : WReg) (a : WReg) (b : WReg)
  /-- GINFO (R395): Reads gate or domain information by selector. -/
  | ginfo (d : WReg) (a : WReg) (b : WReg)
  /-- DOMID (R396): Reads the identity of a domain on the task's stack. -/
  | domid (d : WReg) (a : WReg)
  /-- KACT (R397): Activates a domain key from a sealed blob. -/
  | kact (d : WReg) (a : WReg)
  /-- KDEACT (R398): Deactivates a domain key. -/
  | kdeact (d : WReg) (a : WReg)
  /-- SCRUB (R399): Scrubs named classes of a domain's derived state. -/
  | scrub (d : WReg) (a : WReg) (b : WReg)
  /-- EGSET (R400): Sets a domain's egress bucket. -/
  | egset (d : WReg) (a : WReg) (b : WReg)
  /-- COMPOSE (R430): Binds an aligned group of cores into a box. -/
  | compose (d : WReg) (a : WReg)
  /-- DECOMP (R409): Decomposes a box back to the lead core. -/
  | decomp (d : WReg)
  /-- TIME (R432): Reads die time or lock status. -/
  | timeI (d : WReg) (a : WReg)
  /-- DLREAD (R433): Reads deadline, diversion PC, wrap-up budget or slack. -/
  | dlread (d : WReg) (a : WReg)
  /-- PVALID (R408): Atomically ORs validity bits into the result record with release. -/
  | pvalid (a : WReg) (b : WReg)
  /-- WRAPDONE (R410): Ends the task and counts its wrap-up as ended. -/
  | wrapdone
  /-- TRAP (R461): Raises the TRAP cause with a code. -/
  | trapI (c : BitVec 12)
  /-- BREAK (R461): Raises the BREAK cause with a code. -/
  | breakI (c : BitVec 12)
  /-- ERET (R438): Handler disposes of its trap by resuming or ending the task, then ends. -/
  | eret (a : Opnd)
  /-- CSRR (R462): Reads a control register. -/
  | csrr (d : Opnd) (n : BitVec 12)
  /-- CSRW (R462): Writes a control register. -/
  | csrw (s : Opnd) (n : BitVec 12)
  /-- CSRS (R462): Sets bits of a control register. -/
  | csrs (s : Opnd) (n : BitVec 12)
  /-- CSRC (R462): Clears bits of a control register. -/
  | csrc (s : Opnd) (n : BitVec 12)
  /-- TLBINV (R441): Posts a translation invalidation by range and ASID. -/
  | tlbinv (a : Opnd) (b : Opnd)
  /-- TLBSYNC (R442): Waits for acknowledgement of the task's earlier invalidations. -/
  | tlbsync
  /-- WFI (R464): Waits for the wake latch or a supervisor request. -/
  | wfi
  /-- POTW (R440): Writes a page ownership table entry. -/
  | potw (d : Opnd) (a : Opnd) (b : Opnd)
  /-- CTXSAVE (R474): Saves a core's state to an image and leaves it awaiting load. -/
  | ctxsave (d : Opnd) (a : Opnd) (b : Opnd)
  /-- CTXLOAD (R475): Loads a core image onto a destination core. -/
  | ctxload (d : Opnd) (a : Opnd) (b : Opnd)
  /-- FDIV_D (R159): FP64 divide on a gondola core. -/
  | fdivD (d : Opnd) (a : Opnd) (b : Opnd)
  /-- FSQRT_D (R159): FP64 square root on a gondola core. -/
  | fsqrtD (d : Opnd) (a : Opnd)
  /-- FDIV_S (R159): FP32 divide on a gondola core. -/
  | fdivS (d : Opnd) (a : Opnd) (b : Opnd)
  /-- FSQRT_S (R159): FP32 square root on a gondola core. -/
  | fsqrtS (d : Opnd) (a : Opnd)
  /-- MUL128 (R159): Exact 128-bit unsigned product. -/
  | mul128 (d : Opnd) (a : Opnd) (b : Opnd)
  /-- CLMUL (R159): Carry-less product. -/
  | clmul (d : Opnd) (a : Opnd) (b : Opnd)
  /-- SUBMISSION_DOORBELL (R482): Host writes a queue's tail index, releasing its entries to the front end. -/
  | submissionDoorbell (fn q : Nat) (tail : BitVec 16)
  /-- LAUNCH_ADMISSION (R265): Front end reads and checks a launch record, refusing it with BADREC or admitting it. -/
  | launchAdmission (die : Nat)
  /-- LEAF_START (R270): Front end places and starts a leaf task, retagging user granules. -/
  | leafStart (launch leaf : Nat)
  /-- TASK_DISPATCH (R275): A FREE context takes a run-queue entry by priority, slack and arrival. -/
  | taskDispatch (core : Nat)
  /-- MESSAGE_ARRIVAL (R279): A message reaches its target core's run queue, or is discarded with MSGDONE. -/
  | messageArrival (index : Nat)
  /-- BARRIER_PHASE_RELEASE (R259): Barrier counter reaches zero: phase advanced, marks cleared, completion message sent. -/
  | barrierPhaseRelease (flight ctr : Nat)
  /-- LAUNCH_END (R273): A launch ends: status and increment written, slots freed, loft scrubbed, MSI-X sent. -/
  | launchEnd (launch : Nat)
  /-- ENGINE_BEAT (R198): An engine grants beats to a context by weighted round robin and moves 64 bytes. -/
  | engineBeat (flight engine : Nat)
  /-- ENGINE_COMMAND_COMPLETION (R197): An engine command completes with a release updating its serial, slot or mailbox. -/
  | engineCommandCompletion (core : Nat)
  /-- K_STEP_BOUNDARY (R232): At a k-step boundary the loft array chooses the next LMM pass and computes it. -/
  | kStepBoundary (octet : Nat)
  /-- LBLD_START (R231): An LBLD starts filling the idle bank, claiming a foreign bank by zeroing it. -/
  | lbldStart (core : Nat)
  /-- LBLD_COMPLETION (R240): An LBLD completes, leaving the idle bank FILLED and tagged. -/
  | lbldCompletion (core : Nat)
  /-- LDRN_COMPLETION (R221): An LDRN completes its drain with a release returning the slot to READY. -/
  | ldrnCompletion (core : Nat)
  /-- LDRN_START (R231): An LDRN starts after every earlier LMM of its queue has completed. -/
  | ldrnStart (core : Nat)
  /-- LZERO_START (R242): An LZERO starts and zeroes its accumulator rows. -/
  | lzeroStart (core : Nat)
  /-- LSWAP_EXCHANGE (R241): An eligible LSWAP exchanges the roles of the two banks. -/
  | lswapExchange (core : Nat)
  /-- LSTAT_START (R243): An LSTAT starts and pushes the loft status word. -/
  | lstatStart (core : Nat)
  /-- DEADLINE_EXPIRY (R422): A launch's deadline expires and its result words are released. -/
  | deadlineExpiry (launch : Nat)
  /-- WRAP_UP_BUDGET_OVERRUN (R425): A task's wrap-up budget runs out, ending it with DEADLINE_HARD. -/
  | wrapUpBudgetOverrun (ctx : Nat)
  /-- GATE_BUDGET_OVERRUN (R361): A frame's per-call budget reaches zero and its stack is unwound with GATE_BUDGET. -/
  | gateBudgetOverrun (ctx depth : Nat)
  /-- CLEANUP_BUDGET_OVERRUN (R343): A cleanup overruns its budget and its frame is discarded. -/
  | cleanupBudgetOverrun (ctx : Nat)
  /-- GATE_WRAP_UP_OVERRUN (R364): A gate wrap-up overruns its budget and is discarded. -/
  | gateWrapUpOverrun (ctx : Nat)
  /-- WATCHDOG_EXPIRY (R468): A task not suspended within the watchdog limit raises WDOG. -/
  | watchdogExpiry (ctx : Nat)
  /-- ALLASLEEP_TRAP (R477): A sweep finds every context of a launch asleep with no packet in flight. -/
  | allasleepTrap (launch : Nat)
  /-- SLEEP_TIME_LIMIT (R149): A SLEEP's cycle limit passes and it returns 0. -/
  | sleepTimeLimit (ctx : Nat)
  /-- PAUSE_EXPIRY (R323): A PAUSE's cycle count runs out and the context resumes issue. -/
  | pauseExpiry (ctx : Nat)
  /-- HANDLER_START (R437): A service core starts a handler task in context 10 for a queued trap request. -/
  | handlerStart (flight : Nat)
  /-- IMPRECISE_FAULT_STOP (R457): A context stops after an imprecise fatal cause and its launch ends FAULT. -/
  | impreciseFaultStop (ctx : Nat)
  /-- TASK_SUSPENSION (R467): A task is suspended at its handler boundary. -/
  | taskSuspension (ctx : Nat)
  /-- COLOUR_CUT_CLOSE (R471): The reduction tree closes the colour cut. -/
  | colourCutClose (part : Nat)
  /-- FLIGHT_SAVE_COMPLETE (R466): The context-save engine finishes copying a flight, which is scrubbed and SAVED. -/
  | flightSaveComplete (flight : Nat)
  /-- FLIGHT_RESTORE_COMPLETE (R470): Restore finishes; the flight runs and any pending expiry is applied. -/
  | flightRestoreComplete (flight : Nat)
  /-- TIME_SLICE_START (R485): A partition's slice begins. -/
  | timeSliceStart (part : Nat)
  /-- TIME_SLICE_END (R485): A partition's slice ends. -/
  | timeSliceEnd (part : Nat)
  /-- AWAIT_LOAD_TIMEOUT (R474): A saved core is not loaded within 2^26 cycles and MIGR_FAIL is raised. -/
  | awaitLoadTimeout (core : Nat)
  /-- SEND_FORWARDING_EXPIRY (R476): The 2^20-cycle forwarding of SENDs from a moved source core ends. -/
  | sendForwardingExpiry (core : Nat)
  /-- INVALIDATION_ACKNOWLEDGE (R442): An agent acknowledges an invalidation after draining its translated accesses. -/
  | invalidationAcknowledge (agent : InvAgent)
  /-- ATS_INVALIDATION_COMPLETION (R442): The host completes an ATS invalidation request. -/
  | atsInvalidationCompletion
  /-- TIMELINE_WAKE (R289): A remote timeline's home chip wakes a TLWAIT waiter. -/
  | timelineWake (ctx : Nat) (value status : Word)
  /-- REMOTE_ATOMIC (R289): A remote atomic arrives over Hexry Link and is performed at the home chip. -/
  | remoteAtomic (chip : BitVec 18) (addr : Nat) (op : RemoteOp) (value : Word)
  /-- APERTURE_ACCESS (R481): A host read or write through the aperture as the aperture domain. -/
  | apertureAccess (fn : Nat) (addr : Word) (acc : HostAccess)
  /-- APERTURE_ATOMICOP (R481): A host AtomicOp in the aperture performed as a relaxed system-scope AMO. -/
  | apertureAtomicop (fn : Nat) (addr : Word) (op : HostAtomic)
  /-- APERTURE_DOMAIN_WRITE (R481): Host writes the aperture-domain register, ignored unless the domain is the partition's. -/
  | apertureDomainWrite (fn : Nat) (value : Word)
  /-- PARTITION_ENABLE (R486): Host sets a partition entry's enable bit; the entry is checked or refused. -/
  | partitionEnable (part : Nat)
  /-- PARTITION_DISABLE (R486): Host clears enable, pre-empting the partition on all its flights. -/
  | partitionDisable (part : Nat)
  /-- MOVE_OFFER (R488): Physical function offers a 2 GiB block move, entering OFFERED or REFUSED. -/
  | moveOffer (block pair : Word)
  /-- MOVE_CANCEL (R488): Physical function cancels a move in OFFERED. -/
  | moveCancel
  /-- REMOVAL_ACKNOWLEDGE (R489): Giver acknowledges removal; the block is frozen and scrubbing begins. -/
  | removalAcknowledge (fn : Nat)
  /-- SCRUBBING_COMPLETE (R488): Block scrub completes; ownership passes to the receiver and ADDED is signalled. -/
  | scrubbingComplete
  /-- REGISTER_WRITE (R480): Host write to a BAR 0 register with no behaviour of its own. -/
  | registerWrite (fn offset : Nat) (value : Word)
  /-- HOT_RESET (R491): Self-hosted hot reset: link retrained, queues disconnected, host writes failed. -/
  | hotReset
  /-- PACKAGE_RESET (R490): A host-managed hot or conventional reset resets the whole package. -/
  | packageReset
  /-- POWER_ON_BOOT (R496): Security block verifies firmware, trains, activates keys and starts the supervisor. -/
  | powerOnBoot (boot : BootInput)
  /-- FIRMWARE_UPDATE (R498): A firmware update is verified and accepted for the next reset, or refused. -/
  | firmwareUpdate (version : Nat) (verified : Bool)
  /-- THERMAL_TRIP (R499): Junction reaches 105 C; the package stops and the host link goes down. -/
  | thermalTrip
  /-- THROTTLE_STEP (R500): Clock steps down or up by a sixteenth on power or temperature limits. -/
  | throttleStep (up : Bool)
  /-- PTP_SYNCHRONISATION (R421): A synchronisation interval slews die time, locking or steping once at first lock. -/
  | ptpSynchronisation (die : Nat) (time : Nat) (offset : Int)
  /-- HOLDOVER (R421): Loss of synchronisation puts the die time in holdover. -/
  | holdover (die : Nat)
  /-- FLIT_RECEIVE (R493): A port receives a flit, accepting it or discarding it with a negative acknowledgement. -/
  | flitReceive (port : Nat) (flit : Flit) (room : Bool)
  /-- NEGATIVE_ACKNOWLEDGE (R493): Sender receives a negative acknowledgement and resends from the expected number. -/
  | negativeAcknowledge (port : Nat) (expected : BitVec 12)
  /-- PORT_RETRAIN (R494): A port retrains at the widest passing width or goes down and reroutes. -/
  | portRetrain (port : Nat) (passing : LaneWidth)
  /-- ATTESTATION_REQUEST (R377): Supervisor requests a signed attestation report through the security mailbox. -/
  | attestationRequest (dom : Dom) (nonce : Vec)
  /-- ILL (R74): A fetched word with an unassigned major opcode, sub-function or 16-bit op5 raises UND. -/
  | ill (bits : BitVec 32)
  /-- EGRESS_BUCKET_REFILL (R379): A metered bucket refills with die time, and a core access stalled on it resumes once its
  level rises above 0. -/
  | egressBucketRefill (dom : Dom) (cls : BitVec 2) (micros : Nat)
  /-- QUEUE_ENABLE (R482): The host writes enable in a submission queue's configuration, which clears disconnected and lets
  the front end read the ring again. -/
  | queueEnable (fn q : Nat)
  /-- DEBUG_ATTACH (R384): A debug port attaches to a domain, and its reads are logged and charged as port class 3 egress. -/
  | debugAttach (port : Nat) (target : Dom)
  /-- LOG_CHECKPOINT_REQUEST (R385): A supervisor request makes the log writer add a signed checkpoint to the ring's
  checkpoint area. -/
  | logCheckpointRequest (die : Nat)
  /-- REMOTE_ACCESS (R495): A remote read or write arrives over Hexry Link, is performed at its chip's home, and its response
  returns to the issuer. -/
  | remoteAccess (chip : BitVec 18) (addr : Nat) (acc : RemoteAcc)
  deriving DecidableEq, Repr

end Sys2Proof
end

