-- ==== Sys2Proof/Machine/State.lean ====
section
/-!
DEFINITION. The state of a package as plain data, its reset value, and the ways a step can stop. One field per
piece of state the spec names; INVENTORY.md lists them with their rules. Sparse tables are lists of (key, value)
pairs; an absent key means the table's default entry.

The context that issues stands in `State.me` under the key `State.cur`; every other context stands in `State.ctxs`.
Keys: context x of small core c is 16 c + x; thread t of gondola core g is 2^17 + 4 g + t. Keys of memory cells:
a byte of DRAM at local physical address pa of chip n is 2^46 n + pa; byte x of the scratchpad of small core c is
2^64 + 2^18 c + x.
-/
namespace Sys2Proof.Machine

/-- The causes of R59. -/
inductive Cause where
  | und | enc | priv | align | xltFetch | xltLoad | xltStore | pot | trap | brk | gate | tile | loft
  | msgdone | wdog | macFail | eccUe | deadlineHard | allasleep | migrFail | engine | link
  deriving DecidableEq, Repr

/-- What a WAITING context is blocked on (R27, R292). -/
inductive Wait where
  /-- an empty or full queue register, or the vector stream 64 instructions behind (R41, R46) -/
  | queue
  /-- a tile slot (R184, R233) -/
  | slot
  /-- a full loft queue (R213), or loft commands that must complete (R31, R47, R217, R338) -/
  | loft
  /-- a full engine queue, or engine commands that must complete (R196, R201, R310) -/
  | engine
  /-- HWAIT (R147) -/
  | hwait
  /-- SLEEP; the limit is the cycle at which it returns 0 (R149) -/
  | sleep (limit : Option Nat)
  /-- TLWAIT on a timeline of this package (R331) -/
  | tlwait
  /-- TLWAIT held at the timeline's home chip (R289) -/
  | tlwaitRemote
  /-- WAITM (R322) -/
  | waitm
  /-- PAUSE: until a cycle, or for the next slot alone (R323) -/
  | pause (til : Option Nat)
  /-- SEND or SENDA to a full queue (R276) -/
  | send
  /-- DONE with no free counter (R282) -/
  | done
  /-- DONE on a counter whose phase release is under way (R259) -/
  | phase
  /-- GCALL with no free frame (R360) -/
  | frame
  /-- a frame's unwind waits for the callee's commands (R338) -/
  | unwind
  /-- an empty egress bucket in stall mode (R380) -/
  | egress
  /-- a full log ring (R382) -/
  | log
  /-- the replay queue must hold no store of the task, or is full (R308) -/
  | replay
  /-- MIGRATE or GMATH without a free thread or context (R333, R77) -/
  | migrate
  /-- TLBSYNC (R442) -/
  | tlbsync
  /-- WFI (R464) -/
  | wfi
  /-- an imprecise fatal cause has reached the context and its stop is due (R457) -/
  | fatal
  /-- suspended for pre-emption or CTXSAVE (R467, R474) -/
  | suspended
  deriving DecidableEq, Repr

/-- The register files of a context (R38), with the scale and codebook registers (R75). -/
structure Regs where
  w : Vector Word 32
  v : Vector Vec 16
  m : Vector Word 8
  l : Vector Word 4
  o : Vector Word 8
  q0 : List Word
  q1 : List Word
  q2 : List Word
  q3 : List Word
  /-- sc1 to sc7 at 1 to 7; entry 0 is not used -/
  sc : Vector (BitVec 32) 8
  cb : Vector (BitVec 256) 4
  deriving DecidableEq, Repr

/-- The control registers of a context that are stored (R55); the others are computed from the state. -/
structure Csr where
  /-- R56 -/
  psw : BitVec 19
  wp : Word
  cause : Word
  xpc : Word
  xpsw : Word
  tval : Word
  dom : Dom
  asid : BitVec 16
  ttb : Word
  /-- the core's task serial number, c.tid 63:4 -/
  serial : Nat
  lrec : Word
  cyc : Word
  ret : Word
  swin : Word
  seed : Word
  /-- stochastic-rounding state (R114) -/
  sr : Word
  deriving DecidableEq, Repr

/-- A REP in progress (R177 to R181): the body's address, its length, the passes, the stride, the flags, and
the pass and the instruction that issue next. -/
structure Rep where
  body : Word
  n : Nat
  count : Nat
  stride : BitVec 5
  flags : BitVec 5
  pass : Nat
  index : Nat
  deriving DecidableEq, Repr

/-- The commands of a loft (R213, R231). -/
inductive LoftOp where
  | lbld (t : Bool)
  | lswap
  | lmm (row : Nat) (sr : BitVec 2) (acc : Bool)
  | lzero (row m : Nat)
  | ldrn (row : Nat)
  | lstat (q3 : Bool)
  deriving DecidableEq, Repr

/-- The types of an accumulator row (R228). -/
inductive RowType where
  | zero | fp64 | int64
  deriving DecidableEq, Repr

/-- A command of a loft queue: what was fixed when it entered (R75, R115, R213, R239), the declared types of the rows
it drains or writes, and its progress. -/
structure LoftCmd where
  /-- order of entry (R231) -/
  id : Nat
  op : LoftOp
  slot : Slot
  fa : BitVec 4
  fb : BitVec 4
  fc : BitVec 4
  rm : BitVec 3
  sat : Bool
  scale : Option (BitVec 32)
  cb : BitVec 256
  types : List RowType
  dom : Dom
  launch : Nat
  ctx : Nat
  task : Nat
  /-- gate depth of its issue (R366) -/
  depth : Nat
  bank : Bool
  rows : Nat
  prio : BitVec 2
  weight : BitVec 4
  started : Bool
  /-- stops at the end of its pass (R236) -/
  stop : Bool
  passes : Nat
  /-- the cycle since which it has waited as a head LMM (R232) -/
  since : Option Nat
  /-- the cycle at which a started command completes (R227) -/
  doneAt : Nat
  /-- an LDRN's rows, as it writes them into the slot one after another (R221, R227, R235) -/
  out : List Nat
  /-- the generator's state from which its draws are taken, and the flags raised so far -/
  sr : Word
  fl : BitVec 5
  deriving DecidableEq, Repr

/-- What a WAITING context is blocked on, and the states of a context (R27). -/
inductive Status where
  | free
  | ready
  | waiting (w : Wait)
  | held
  deriving DecidableEq, Repr

/-- A vector-stream instruction that has not been executed (R41, R46): the instruction with its fields as REP has rotated them,
what it was last found waiting on, and what the scalar stream held at its place in program order. -/
structure Later where
  ins : Instr
  st : Status
  pc : Word
  r : Regs
  psw : BitVec 19
  sr : Word
  fmt : BitVec 32
  rep : Option Rep
  ret : Word
  deriving DecidableEq, Repr

/-- A vector-stream instruction that is not complete (R41, R46): an older one is not, its push waits for room in q2 (false) or
q3 (true), its loft command waits for room in the loft queue (R213), or it has not been executed. With it: the entries of q0
and q1 that its pop leaves occupied until then, and the instructions issued from it on. -/
structure Behind where
  push : Option (Bool × Word)
  cmd : Option LoftCmd
  later : Option Later
  pop0 : Nat
  pop1 : Nat
  age : Nat
  deriving DecidableEq, Repr

/-- How a task came to be (R29, R144, R437). -/
inductive TaskKind where
  | leaf | helper | message | forked | continuation | completion | supervisor
  deriving DecidableEq, Repr

/-- The trap a handler task is linked to (R454): a HELD context, or an entry of a core's replay queue; `no` tells the
traps of one context, or one entry, apart. -/
inductive TrapRef where
  | ctx (key serial no : Nat)
  | replay (core entry no : Nat)
  deriving DecidableEq, Repr

/-- What hardware keeps of a live task beside its registers. -/
structure Task where
  /-- launch number, 0 for a task of no launch (R502) -/
  launch : Nat
  kind : TaskKind
  /-- leaf number of a leaf task; group (R271) -/
  leaf : Nat
  group : Nat
  /-- serial of the task that started a helper (R145) -/
  starter : Nat
  /-- join record of a forked task (R257) -/
  join : Option Word
  /-- the trap that started a handler task (R454) -/
  trap : Option TrapRef
  /-- diversion PC (R403) -/
  divPc : Word
  /-- remaining wrap-up budget, once armed (R425) -/
  wrapLeft : Option Nat
  /-- a diversion that waits for an unwind or for ERET (R365, R424) -/
  divPending : Bool
  /-- the deadline has diverted the task (R404, R424) -/
  diverted : Bool
  /-- LPRI's stamp (R218) -/
  prio : BitVec 2
  weight : BitVec 4
  /-- passes completed by the most recent LMM, and its domain (R243) -/
  passes : Nat
  passDom : Dom
  /-- home context of a task that migrated to a gondola thread (R333) -/
  home : Option Nat
  /-- cycles left until the watchdog expires, once a stop has been requested (R468) -/
  watch : Option Nat
  /-- the number of stores to DRAM before its dispatch, or its latest FENCE.xlt (R300, R321) -/
  seen : Nat
  deriving DecidableEq, Repr

/-- A frame of the domain stack (R357, R358). -/
structure Frame where
  retPc : Word
  callerWp : Word
  window : Word
  words : Nat
  callerDom : Dom
  callee : Dom
  gate : BitVec 12
  discard : Bool
  cleanup : Bool
  wrapup : Bool
  psw : BitVec 19
  sr : Word
  sc : Vector (BitVec 32) 8
  cb : Vector (BitVec 256) 4
  budget : Nat
  /-- the gate's per-call budget -/
  per : Nat
  /-- budget of the frame's cleanup (R343) or wrap-up (R364) while it runs -/
  endLeft : Nat
  status : Word
  /-- the granule of the frame and the d field of the GCALL -/
  granule : Nat
  d : WReg
  wrapEntry : Word
  cleanEntry : Word
  /-- words of the window that GRET has copied back, and the lowest address refused (R362) -/
  back : Nat
  refused : Option Word
  deriving DecidableEq, Repr

/-- An unwind under way (R363): it runs inward frames until the trigger depth; what the trigger frame gets. -/
inductive UnwindWhy where
  | revoke (d : Dom)
  | kill (d : Dom)
  | ends
  | budget
  | deadline
  deriving DecidableEq, Repr

structure Unwind where
  why : UnwindWhy
  depth : Nat
  deriving DecidableEq, Repr

/-- A context (R27) or a gondola thread (R334). -/
structure Ctx where
  st : Status
  pc : Word
  r : Regs
  c : Csr
  /-- pending FMT prefix word (R238) -/
  fmt : BitVec 32
  rep : Option Rep
  /-- the vector stream's incomplete instructions, oldest first -/
  vs : List Behind
  t : Task
  /-- wake latch (R149) -/
  wake : Bool
  /-- domain of the last task that ran in the context (R37) -/
  last : Dom
  /-- the domain stack, innermost frame first (R357) -/
  frames : List Frame
  /-- the unwinds under way, innermost first: one of the frames that a running cleanup or wrap-up has called stands before the
  one that runs it (R363, R365) -/
  unwind : List Unwind
  /-- words of a discarded call's window still to be zeroed, as stores of the caller's domain (R342, R362) -/
  zeroing : List (Word × Dom)
  /-- a kill under way: the domain, the frames unwound and the launches ended (R393) -/
  kill : Option (Dom × Nat × Nat)
  /-- the resume PC that hardware wrote at its latest trap (R452, R456) -/
  resume : Word
  /-- the number of its latest trap, and an imprecise cause that has reached the context (R457) -/
  trapNo : Nat
  imp : Option Cause
  /-- the result with which the wait of a TLWAIT at another chip ends (R289) -/
  wokeBy : Option (Word × Word)
  /-- entered a wait at this cycle (R149, R323) -/
  since : Nat
  deriving DecidableEq, Repr

/-- A tile slot (R53, R54). -/
inductive SlotState where
  | empty | filling | ready | draining
  deriving DecidableEq, Repr

structure TileSlot where
  shape : Word
  st : SlotState
  dom : Dom
  base : BitVec 18
  launch : Nat
  deriving DecidableEq, Repr

/-- An entry of a run queue, a deque or a message on its way: the header flit of R277, with what hardware keeps
beside it. -/
structure Entry where
  entry : Word
  p0 : Word
  p1 : Word
  p2 : Word
  p3 : Word
  senderChip : BitVec 18
  targetChip : BitVec 18
  kind : TaskKind
  sender : Nat
  target : Nat
  group : Nat
  colour : Bool
  dom : Dom
  launch : Nat
  /-- the sending context and its task serial (R279) -/
  fromCtx : Nat
  fromSerial : Nat
  /-- join record of a forked task -/
  join : Option Word
  leaf : Nat
  /-- the task starts diverted (R424) -/
  wu : Bool
  /-- the box size of a box-kind leaf, 0 for none (R270) -/
  box : Nat
  /-- order of arrival -/
  seq : Nat
  deriving DecidableEq, Repr

/-- An entry of a core's replay queue (R307): the elements of the access (one for a scalar store), each its address and its
bytes with their offsets; the address that failed, whose they are and how to translate them. -/
structure Parked where
  id : Nat
  no : Nat
  /-- place in program order among the stores of its task (R309) -/
  ord : Nat
  ctx : Nat
  serial : Nat
  fail : Word
  parts : List (Word × List (Nat × Byte))
  /-- a vector store, whose failing address is an element's (R172) -/
  vec : Bool
  dom : Dom
  s : Bool
  asid : BitVec 16
  ttb : Word
  xpc : Word
  psw : BitVec 19
  bits : BitVec 32
  cause : Cause
  /-- a replay has been asked for and waits for an egress bucket or the log; the stall has been logged (R380, R382) -/
  go : Bool
  stalled : Bool
  /-- the callee whose GRET made it, as a word of the window (R362, R378) -/
  payer : Option Dom
  deriving DecidableEq, Repr

/-- The commands of a reel engine (R203). -/
inductive EngOp where
  | rget | rput | rcopy | rred | rgath | rscat | rmcast
  deriving DecidableEq, Repr

/-- What the ownership check of one 512 KiB unit of a translation recorded (R351, R352): the unit's address, where it stands, X, W
and R in bits 2 to 0, the owner, and whether the page is metered. -/
structure TlbUnit where
  vbase : Nat
  pbase : Nat
  own : BitVec 3
  owner : Dom
  metered : Bool
  deriving DecidableEq, Repr

/-- A translation (R352, R445, R449): the page of a leaf, of any size, the physical address that the leaf names, and X, W, R
of the leaf in bits 2 to 0 (R447). With it, what was recorded of each of its units that has been used (log 16). -/
structure TlbEntry where
  asid : BitVec 16
  dom : Dom
  page : Nat
  pageSize : Nat
  frame : Nat
  leaf : BitVec 3
  units : List TlbUnit
  deriving DecidableEq, Repr

/-- An engine command (R196, R202, R205): the operands and what was captured of the issuing task. `pos` is the
beat position; `row` holds row i's memory address once it is fixed (R442); `desc` the eight words of the descriptor. -/
structure EngCmd where
  op : EngOp
  slot : Slot
  a : Word
  b : Word
  dom : Dom
  asid : BitVec 16
  ttb : Word
  s : Bool
  launch : Nat
  ctx : Nat
  task : Nat
  depth : Nat
  serial : BitVec 16
  started : Bool
  /-- its serial has been released, and its mailbox has not (R197) -/
  released : Bool
  pos : Nat
  desc : List Word
  row : Option Word
  /-- the translations of the accesses whose addresses are fixed (R442) -/
  held : List TlbEntry
  /-- those of the row whose table entry has been read (R442) -/
  rowHeld : List TlbEntry
  deriving DecidableEq, Repr

/-- The translations that a command holds. -/
def EngCmd.holding (c : EngCmd) : List TlbEntry := c.rowHeld ++ c.held

/-- The engine context that serves a core (R194, R204). -/
structure Eng where
  queue : List EngCmd
  doneSerial : BitVec 16
  lastSerial : BitVec 16
  /-- serials that completed out of order, removed by TDRAIN (R204) -/
  skipped : List (BitVec 16)
  parked : Bool
  weight : Nat
  /-- the last error, and the domain whose command it was -/
  error : BitVec 8
  errDom : Dom
  deriving DecidableEq, Repr

/-- A row of a core's accumulator region (R228): declared type and tag, the type and tag that the last completed
command left (R236), and the launch and task whose command wrote it last (R225, R235). -/
structure Row where
  ty : RowType
  tag : Option Dom
  doneTy : RowType
  doneTag : Option Dom
  launch : Nat
  ctx : Nat
  task : Nat
  depth : Nat
  deriving DecidableEq, Repr

/-- A granule of a scratchpad (R50); the pool's workspaces carry a tag each (R35). -/
structure Tag where
  valid : Bool
  dom : Dom
  deriving DecidableEq, Repr

/-- A child in a core's launch queue (R285). -/
structure Child where
  record : Word
  dom : Dom
  asid : BitVec 16
  ttb : Word
  parent : Nat
  /-- the parent's depth, domain, process and partition, which outlive it (R285, R286) -/
  depth : Nat
  parentDom : Dom
  process : Nat
  part : Nat
  seq : Nat
  deriving DecidableEq, Repr

/-- What a core is doing beside running tasks (R414, R474 to R476). -/
inductive CoreMode where
  | serving
  /-- CTXSAVE is waiting for the core's tasks, under the watchdog limit of its request (R468, R474) -/
  | saving (image by_ serial since limit : Nat)
  /-- saved and awaiting load since a cycle (R474) -/
  | awaiting (image : Nat) (since : Nat)
  deriving DecidableEq, Repr

/-- A small core (R3, R27, R53, R274, R280). -/
structure Core where
  tags : List (Nat × Tag)
  pool : List (Nat × Tag)
  /-- pool workspaces in use (R35) -/
  used : List Nat
  slots : List (Nat × TileSlot)
  runq : List Entry
  /-- entries of the overflow area configured by the supervisor (R274) -/
  overflow : Nat
  deque : List Entry
  launchq : List Child
  replay : List Parked
  eng : Eng
  loftq : List LoftCmd
  rows : List (Nat × Row)
  /-- the 128 accumulators of each row (R228); a row that is not listed holds zeros -/
  acc : List (Nat × List Word)
  /-- whether the core has flipped its colour in the cut under way (R471) -/
  flipped : Bool
  sent0 : Nat
  sent1 : Nat
  recv0 : Nat
  recv1 : Nat
  /-- lead core and size of the box the core is a member of (R414) -/
  box : Option (Nat × Nat)
  mode : CoreMode
  /-- the core serves again, with another core's image, while its own, saved since a cycle, still awaits load (R474, R475) -/
  awaits : Option (Nat × Nat)
  /-- destination and end cycle of the forwarding of R476 -/
  forward : Option (Nat × Nat)
  tlb : List TlbEntry
  serial : Nat
  /-- the context whose turn is next (R28) -/
  turn : Nat
  deriving DecidableEq, Repr

/-- The image whose load a core awaits, and since when (R474). -/
def Core.awaitsLoad (x : Core) : Option (Nat × Nat) :=
  match x.mode with
  | .awaiting b since => some (b, since)
  | _ => x.awaits

/-- A gondola core: its TLB, its launch queue, and the thread whose turn is next (R334, R449, R285). -/
structure GCore where
  tlb : List TlbEntry
  launchq : List Child
  turn : Nat
  deriving DecidableEq, Repr

/-- A counter of a barrier unit that is bound (R258, R282). -/
structure Barrier where
  record : Word
  launch : Nat
  dom : Dom
  asid : BitVec 16
  ttb : Word
  scope : BitVec 3
  arrivals : Nat
  count : Nat
  handler : Word
  target : Nat
  group : Nat
  marks : List Nat
  deriving DecidableEq, Repr

/-- A request in a supervisor queue (R454, R487); `fin` is its virtual finish time, fixed as it enters the queue. -/
structure Request where
  trap : TrapRef
  core : Nat
  ctx : Nat
  cause : Cause
  tval : Word
  code : BitVec 12
  dom : Dom
  die : Nat
  flight : Nat
  seq : Nat
  fin : Nat
  deriving DecidableEq, Repr

/-- The states of a flight (R466). -/
inductive FlightState where
  | running | stopping | saving | saved | restoring
  deriving DecidableEq, Repr

/-- A flight (R3, R198, R282, R449, R454, R466). -/
structure Flight where
  st : FlightState
  part : Option Nat
  barriers : List (Nat × Barrier)
  supq : List Request
  /-- requests that wait at their source (R454, R487) -/
  supWait : List Request
  /-- virtual time of the queue and finish time of each domain (R487) -/
  vtime : Nat
  finish : List (Nat × Nat)
  tlb : List TlbEntry
  /-- for each of the two engines, the context whose turn it is and the beats left of its grant (R198) -/
  turn0 : Nat
  left0 : Nat
  turn1 : Nat
  left1 : Nat
  /-- entries held at the ingress (R466) -/
  ingress : List Entry
  /-- a cut is under way on the flight; another must follow it, since the request to stop came meanwhile; the cut of the
  request to stop has closed (R466, R471) -/
  cutting : Bool
  recut : Bool
  cutClosed : Bool
  /-- the cycle of the request to stop, and the watchdog limit then (R468) -/
  asked : Nat
  limit : Nat
  deriving DecidableEq, Repr

/-- A bank of a loft (R226): the 64 × 128 cells, row by row; an EMPTY bank's are all zero and not listed. With it, the
launch and the task whose LBLD filled it (R225, R235). -/
structure Bank where
  filled : Bool
  fmt : BitVec 4
  dom : Dom
  launch : Nat
  ctx : Nat
  task : Nat
  depth : Nat
  cells : List Word
  deriving DecidableEq, Repr

/-- A loft (R214, R220, R232): the banks, which of them is active, the queue (by octet position) that holds the array,
the credits, the queue whose LMM runs, and the cycle at which the pass in flight ends. -/
structure Loft where
  bank0 : Bank
  bank1 : Bank
  active : Bool
  holder : Nat
  credit : List (Nat × Nat)
  run : Option Nat
  passEnd : Option Nat
  deriving DecidableEq, Repr

/-- A record of the access log before the writer gives it its number, time and digest (R383). -/
structure LogRec where
  who : Nat
  gond : Bool
  code : Nat
  acting : Dom
  other : Dom
  a0 : Word
  a1 : Word
  a2 : Word
  deriving DecidableEq, Repr

/-- A log writer (R382, R385). -/
structure Log where
  /-- ring size exponent, ring base, checkpoint area base, address of the consumer index -/
  k : Nat
  base : Nat
  area : Nat
  consumer : Nat
  seq : Nat
  chain : BitVec 512
  points : Nat
  /-- records of hardware's own events that wait for room in the ring, the oldest first (R382) -/
  waiting : List LogRec
  deriving DecidableEq, Repr

/-- A die: its time (R421) in nanoseconds and a fraction in 1/15135120 ns, its log, its table bases. -/
structure Die where
  time : Nat
  frac : Nat
  everLocked : Bool
  locked : Bool
  inRange : Nat
  /-- the correction that the last disciplined rate makes in each 5250 cycles, in nanoseconds: it goes on in holdover (R421) -/
  rate : Int
  holdover : Bool
  /-- correction still to be slewed, in nanoseconds (R421) -/
  slew : Int
  /-- the last measured offset in nanoseconds (R432) -/
  offset : Int
  log : Log
  potBase : Nat
  listBase : Nat
  deriving DecidableEq, Repr

/-- A level entry (R266). -/
structure Level where
  count : Nat
  kind : Nat
  scope : Nat
  place : Nat
  box : Nat
  deriving DecidableEq, Repr

/-- A leaf that the front end holds (R269, R270, R272). -/
structure Leaf where
  num : Nat
  chip : Nat
  core : Nat
  /-- the context of a unit of kind context -/
  ctx : Option Nat
  p0 : Word
  p1 : Word
  p2 : Word
  p3 : Word
  box : Nat
  deriving DecidableEq, Repr

/-- The end status of a launch (R273). -/
inductive EndStatus where
  | complete | wrapped | fault | fetchOob | badrec | killed
  deriving DecidableEq, Repr

/-- A launch (R264 to R273, R402 to R404, R422). -/
structure Launch where
  record : Word
  dom : Dom
  entry : Word
  wrapEntry : Word
  mode : Nat
  deadline : Nat
  est : Nat
  slackClass : Nat
  prio : BitVec 2
  timeline : Word
  increment : Word
  wrapBudget : Nat
  depth : Nat
  levels : List Level
  quota : Nat
  parent : Nat
  /-- the process that submitted it (R482, R484) -/
  process : Nat
  result : Word
  home : Nat
  part : Nat
  admitted : Nat
  /-- leaves not started yet, and how many leaves stand on other chips -/
  pending : List Leaf
  away : Nat
  /-- core of each leaf (R271, R476) -/
  members : List (Nat × Nat)
  counter : Nat
  expired : Bool
  diverted : Nat
  discarded : Nat
  anyDiverted : Bool
  /-- children enqueued or running (R285) -/
  children : Nat
  /-- the abnormal end under way: status, and cause code of FAULT (R273) -/
  ending : Option (EndStatus × Nat)
  /-- submission queue (function, queue, ring index) and MSI-X vector (R482) -/
  source : Option (Nat × Nat × Nat)
  vector : Option Nat
  asid : BitVec 16
  ttb : Word
  /-- the effective slack that the latest arbiter decision computed (R433) -/
  slackSeen : Int
  /-- a kill waits for a cut of the launch's partition: for one to begin (false), or to close (true) (R471; log 37) -/
  cut : Option Bool
  /-- the cores from which CTXLOAD has moved leaves of the launch, each with the core they are on now (R476) -/
  moved : List (Nat × Nat)
  /-- flights on which a context of the launch left an asleep wait since the last sweep (R477) -/
  woke : List Nat
  seq : Nat
  deriving DecidableEq, Repr

/-- A published gate (R355, R356): the partition of its publisher and the descriptor's eight words. -/
structure Gate where
  part : Nat
  words : List Word
  deriving DecidableEq, Repr

/-- A key slot (R368): the key by its number in the key book, the measurement, the images of R376. -/
structure KeySlot where
  dom : Dom
  key : Nat
  measurement : BitVec 512
  measured : Bool
  images : List (List Word)
  deriving DecidableEq, Repr

/-- An egress bucket (R379). -/
structure Bucket where
  rate : Nat
  capacity : Nat
  fault : Bool
  enable : Bool
  level : Int
  deriving DecidableEq, Repr

/-- An invalidation posted by TLBINV (R441, R442). -/
structure Inval where
  id : Nat
  ctx : Nat
  serial : Nat
  asid : BitVec 16
  lo : Nat
  hi : Nat
  agents : List InvAgent
  ats : Bool
  deriving DecidableEq, Repr

/-- A partition's entry in the partition table (R486), and its watchdog limit (R55). -/
structure Part where
  enable : Bool
  running : Bool
  refused : Bool
  period : Nat
  slice : Nat
  offset : Nat
  saveTable : Word
  flights : BitVec 256
  weights : BitVec 512
  domWeights : Word
  domSet : Word
  /-- the domain set read when enable was set -/
  doms : BitVec 4096
  wdog : Nat
  /-- the fields, by offset, that were last written with a reserved bit set -/
  reserved : List Nat
  /-- enable has been set since reset, so that the part is partitioned (R485) -/
  used : Bool
  /-- base of the partition's address-space and handler tables (R448, R453) -/
  spaceBase : Nat
  handlerBase : Nat
  /-- admitted estimated cycles of each process (R484) -/
  admitted : List (Nat × Nat)
  /-- the colour bit of the partition's cores before the cut under way (R471) -/
  colour : Bool
  /-- which free values stand for the PASIDs that the host has written for its domains (R479); no rule gives the place at which it
  writes them (log 58) -/
  pasids : Nat
  deriving DecidableEq, Repr

/-- A submission queue (R482). -/
structure SubQ where
  base : Word
  logn : Nat
  prio : Nat
  process : Nat
  enable : Bool
  disconnected : Bool
  head : Nat
  tail : BitVec 16
  lost : BitVec 32
  lostIdx : BitVec 16
  /-- order of arrival of the entries covered by a doorbell: (ring index, arrival) -/
  arrivals : List (Nat × Nat)
  deriving DecidableEq, Repr

/-- The move registers and state of a capacity move (R488, R489). -/
inductive MoveState where
  | idle | offered | removed | scrubbing | added | refused
  deriving DecidableEq, Repr

structure Move where
  /-- the registers as the physical function has written them -/
  block : Word
  pair : Word
  /-- those of the latest offer -/
  ofBlock : Word
  ofPair : Word
  st : MoveState
  refusal : Nat
  deriving DecidableEq, Repr

/-- The local physical address of the block: the die in bits 45:44 (log 7). -/
def Move.base (m : Move) : Nat :=
  m.ofBlock.toNat / 2 ^ 46 % 4 * 2 ^ 44 + m.ofBlock.toNat % 2 ^ 44 / 2 ^ 31 * 2 ^ 31

/-- A Hexry Link port (R492 to R494). -/
structure Port where
  lanes : Nat
  up : Bool
  txSeq : BitVec 12
  rxSeq : BitVec 12
  unacked : List Flit
  /-- flits handed to the transaction layer, latest first -/
  received : List Flit
  /-- answers owed to the sender: negative acknowledgements naming a number -/
  nacks : List (BitVec 12)
  /-- flits that have left the port, sent again ones among them, the latest first -/
  sent : List Flit
  refused : Nat
  deriving DecidableEq, Repr

/-- What an access of the host completes with (R481): Completer Abort, or success with what was read. -/
structure Reply where
  abort : Bool
  data : List Byte
  deriving DecidableEq, Repr

/-- An entry of an MSI-X table: address, data, and whether it is masked (R479). -/
structure MsixEntry where
  addr : Word
  data : BitVec 32
  masked : Bool
  deriving DecidableEq, Repr

/-- The host's side of the link and the registers of BAR 0 (R480, R489, R491, R497). -/
structure HostIf where
  up : Bool
  enableWord : Word
  coreCounts : List (Nat × Nat)
  resets : BitVec 32
  failedStep : BitVec 8
  queues : List (Nat × SubQ)
  apDom : List (Nat × Dom)
  msix : List (Nat × Nat)
  move : Move
  /-- host memory, as the device reads and writes it (R479) -/
  mem : List Host.Cell
  /-- the MSI-X tables, by function × 2048 + vector (R479, R491); no rule gives their place (log 58) -/
  vectors : List (Nat × MsixEntry)
  /-- base addresses of the functions' BARs, and the other fields of configuration space (R479, R480, R491) -/
  bars : List (Nat × Word)
  config : List (Nat × Word)
  /-- completions sent for accesses of the host to the aperture and to BAR 0, the latest first (R480, R481) -/
  replies : List Reply
  deriving DecidableEq, Repr

/-- The security block and the boot configuration (R374 to R377, R496, R498). -/
structure Sec where
  booted : Bool
  selfHosted : Bool
  fuse : Nat
  running : Nat
  pendingFw : Option Nat
  /-- the version that an accepted update has left in the flash (R498) -/
  flash : Option Nat
  /-- the supervisor micro-kernel has been started on the small cores (R496) -/
  kernel : Bool
  /-- keys of the IDE streams (R479); no rule says how they come there (log 58) -/
  ideKeys : List (Nat × BitVec 256)
  measurement : BitVec 512
  mailbox : Nat
  serviceMasks : List (Nat × BitVec 32)
  ptpSource : Option (BitVec 5)
  deriving DecidableEq, Repr

/-- Why the package has stopped. -/
inductive Stop where
  | thermal
  | boot (step : Nat)
  deriving DecidableEq, Repr

/-- A release that an acquire may read (R306): the agent and the scope; used for psw.XS. In a scratchpad it keeps the byte that
it has left, which a write to the register that stands there replaces (R34). -/
structure Rel where
  agent : Nat
  /-- the task that released, and whether it was a box (R296) -/
  task : Nat
  box : Bool
  scope : BitVec 3
  byte : Option Byte := none
  deriving DecidableEq, Repr

/-- A TLWAIT of another chip, held at its timeline here (R289): the chip, the timeline's local physical address, the threshold. -/
structure RemoteWait where
  chip : BitVec 18
  addr : Nat
  threshold : Word
  deriving DecidableEq, Repr

/-- Who registered on a join record (R257, R271): the launch, group and domain of the JOIN's issuer. -/
structure Joiner where
  launch : Nat
  group : Nat
  dom : Dom
  deriving DecidableEq, Repr

/-- An image of a core (R472) or of a flight (R469) in memory: the address it is named by, where its pages stand (offset
in the image, key, length), what it was made from, and what it holds. Its bytes are free values by `nonce`, but for
those overwritten since; `bad` lists the domains whose part has been overwritten (R473, R475). -/
structure Image where
  addr : Nat
  segs : List (Nat × Nat × Nat)
  nonce : Nat
  lost : List Nat
  flight : Bool
  source : Nat
  cores : List (Nat × Core)
  ctxs : List (Nat × Ctx)
  lofts : List (Nat × Loft)
  barriers : List (Nat × Barrier)
  spad : List Host.Cell
  /-- by byte of the scratchpads: the releases that an acquire reads (R306) -/
  rels : List (Nat × List Rel)
  bad : List Dom
  /-- the keys under which its domains' parts are enciphered (R473) -/
  keys : List (Nat × Nat)
  /-- partition of a flight's image; whether the image has been loaded or given up -/
  part : Nat
  spent : Bool
  deriving DecidableEq, Repr

/-- The package. -/
structure State where
  me : Ctx
  cur : Nat
  ctxs : List (Nat × Ctx)
  cores : List (Nat × Core)
  gcores : List (Nat × GCore)
  flights : List (Nat × Flight)
  lofts : List (Nat × Loft)
  dies : List (Nat × Die)
  /-- DRAM of every chip and the scratchpads: canonical, see Memory.wf; an unlisted byte reads 0 (R50, R501) -/
  mem : List Host.Cell
  launches : List (Nat × Launch)
  nextLaunch : Nat
  msgs : List Entry
  /-- by the key of a join record's first byte: who registered on it -/
  joins : List (Nat × Joiner)
  gates : List (Nat × Gate)
  keys : List (Nat × KeySlot)
  /-- every key that was ever active, by its 768 bits (R501); a key's number is its place -/
  keyBook : List (BitVec 768)
  /-- the key of each page at its last assignment, and of each line written since, with the owner that the tag names (R370,
  R501) -/
  pageKey : List (Nat × Nat)
  lineKey : List (Nat × Nat)
  /-- lines with an uncorrectable error (R371) -/
  eccLines : List Nat
  /-- ownership entries by page number (R349); the default is the boot entry -/
  pot : List (Nat × Word)
  egress : List (Nat × Bucket)
  egressBytes : List (Nat × Nat)
  perf : List (Nat × Nat)
  /-- the error log: the line of each MAC_FAIL and ECC_UE, and the cause (R387; log 59) -/
  errLog : List (Nat × Cause)
  parts : List (Nat × Part)
  invals : List Inval
  /-- what every store so far has replaced in DRAM, latest first: the key, the cycle and the byte (R300) -/
  past : List (Nat × Nat × Byte)
  /-- by byte: the releases that an acquire of it reads, through a chain of read-modify-writes (R306) -/
  rels : List (Nat × List Rel)
  images : List Image
  host : HostIf
  ports : List (Nat × Port)
  /-- the supervisor's route table: for a chip the ports that carry what goes there, in order (R494; log 32) -/
  routes : List (Nat × List Nat)
  remoteWaits : List RemoteWait
  /-- transfers of the host and of other chips whose stall has been logged (R380) -/
  stalls : List Instr
  sec : Sec
  chip : BitVec 18
  /-- the clock of the small cores, in sixteenths of 1.05 GHz (R500) -/
  clock : Nat
  cycle : Nat
  /-- order of arrivals -/
  seq : Nat
  /-- the model's own: counter of the free values taken so far -/
  freeCount : Nat
  /-- the model's own: external events and interleaving still to come, the next one first -/
  agenda : List Instr
  /-- the model's own: what the world outside does, with the cycle at which it comes -/
  inputs : List (Nat × Instr)
  /-- the model's own: how far the round of the cores' turns has come in this cycle -/
  rot : Nat
  stopped : Option Stop
  deriving DecidableEq, Repr

/-- How a step can stop with a fault. Each is raised by `step` or by an event and is safe: the part itself has
stopped, so no further state exists. -/
inductive Fault where
  /-- raised by step once the package has stopped: thermal trip (R499), or a boot step that failed (R496) -/
  | packageStopped
  deriving DecidableEq, Repr

/-- How a step can be refused. -/
inductive Refusal where
  /-- raised by exec for an instruction that has no meaning yet; safe -/
  | notModelled (mnemonic : String)
  deriving DecidableEq, Repr

/-! ### Default entries and reset -/

def Regs.zero : Regs :=
  { w := .replicate 32 0, v := .replicate 16 0, m := .replicate 8 0, l := .replicate 4 0, o := .replicate 8 0,
    q0 := [], q1 := [], q2 := [], q3 := [], sc := .replicate 8 0, cb := .replicate 4 0 }

def Csr.zero : Csr :=
  { psw := 0, wp := 0, cause := 0, xpc := 0, xpsw := 0, tval := 0, dom := 0, asid := 0, ttb := 0, serial := 0,
    lrec := 0, cyc := 0, ret := 0, swin := 0, seed := 0, sr := 0 }

def Task.none : Task :=
  { launch := 0, kind := .supervisor, leaf := 0, group := 0, starter := 0, join := .none, trap := .none, divPc := 0,
    wrapLeft := .none, divPending := false, diverted := false, prio := 0, weight := 1, passes := 0, passDom := 0, home := .none,
    watch := .none, seen := 0 }

/-- A context that holds no task (R27); its registers at the values of log 1. -/
def Ctx.idle : Ctx :=
  { st := .free, pc := 0, r := .zero, c := .zero, fmt := 0, rep := .none, vs := [], t := .none, wake := false,
    last := 0, frames := [], unwind := [], zeroing := [], kill := .none, resume := 0,
    trapNo := 0, imp := .none, wokeBy := .none, since := 0 }

def TileSlot.empty : TileSlot := { shape := 0, st := .empty, dom := 0, base := 0, launch := 0 }

/-- Every context's weight is 16 at reset (R198). -/
def Eng.idle : Eng :=
  { queue := [], doneSerial := 0, lastSerial := 0, skipped := [], parked := false, weight := 16, error := 0, errDom := 0 }

def Row.zero : Row :=
  { ty := .zero, tag := .none, doneTy := .zero, doneTag := .none, launch := 0, ctx := 0, task := 0,
    depth := 0 }

/-- A core that holds nothing; the overflow area has 256 entries by default (R274). -/
def Core.idle : Core :=
  { tags := [], pool := [], used := [], slots := [], runq := [], overflow := 256, deque := [], launchq := [],
    replay := [], eng := .idle, loftq := [], rows := [], acc := [], flipped := false,
    sent0 := 0, sent1 := 0, recv0 := 0, recv1 := 0, box := .none, mode := .serving, awaits := .none, forward := .none, tlb := [],
    serial := 0, turn := 0 }

def GCore.idle : GCore := { tlb := [], launchq := [], turn := 0 }

def Flight.idle : Flight :=
  { st := .running, part := .none, barriers := [], supq := [], supWait := [], vtime := 0, finish := [], tlb := [],
    turn0 := 0, left0 := 0, turn1 := 0, left1 := 0, ingress := [], cutting := false, recut := false, cutClosed := false, asked := 0, limit := 0 }

def Bank.empty : Bank :=
  { filled := false, fmt := 0, dom := 0, launch := 0, ctx := 0, task := 0, depth := 0, cells := [] }

/-- At reset both banks are EMPTY and bank 0 is active (R226). -/
def Loft.idle : Loft :=
  { bank0 := .empty, bank1 := .empty, active := false, holder := 0, credit := [], run := .none, passEnd := .none }

def Log.idle : Log := { k := 12, base := 0, area := 0, consumer := 0, seq := 0, chain := 0, points := 0, waiting := [] }

/-- The time is 0 at reset (R421). -/
def Die.idle : Die :=
  { time := 0, frac := 0, everLocked := false, locked := false, inRange := 0, rate := 0, holdover := false, slew := 0, offset := 0,
    log := .idle, potBase := 0, listBase := 0 }

/-- The watchdog limit is 2^22 by default (R55). -/
def Part.idle : Part :=
  { enable := false, running := false, refused := false, period := 0, slice := 0, offset := 0, saveTable := 0,
    flights := 0, weights := 0, domWeights := 0, domSet := 0, doms := 0, wdog := 4194304, reserved := [], used := false,
    spaceBase := 0, handlerBase := 0, admitted := [], colour := false, pasids := 0 }

def SubQ.idle : SubQ :=
  { base := 0, logn := 4, prio := 0, process := 0, enable := false, disconnected := false, head := 0, tail := 0,
    lost := 0, lostIdx := 0, arrivals := [] }

def Move.idle : Move := { block := 0, pair := 0, ofBlock := 0, ofPair := 0, st := .idle, refusal := 0 }

def Port.idle : Port :=
  { lanes := 8, up := false, txSeq := 0, rxSeq := 0, unacked := [], received := [], nacks := [], sent := [],
    refused := 0 }

def HostIf.idle : HostIf :=
  { up := false, enableWord := 0, coreCounts := [], resets := 0, failedStep := 0, queues := [], apDom := [],
    msix := [], move := .idle, mem := [], vectors := [], bars := [], config := [], replies := [] }

def Sec.idle : Sec :=
  { booted := false, selfHosted := false, fuse := 0, running := 0, pendingFw := .none, flash := .none, kernel := false, ideKeys := [], measurement := 0, mailbox := 0, serviceMasks := [], ptpSource := .none }

def Bucket.idle : Bucket := { rate := 0, capacity := 0, fault := false, enable := false, level := 0 }

/-- The package right after reset, before the power-on boot (R496). -/
def State.reset : State :=
  { me := .idle, cur := 0, ctxs := [], cores := [], gcores := [], flights := [], lofts := [], dies := [], mem := [],
    launches := [], nextLaunch := 1, msgs := [], joins := [],
    gates := [], keys := [], keyBook := [], pageKey := [], lineKey := [],
    eccLines := [], pot := [], egress := [], egressBytes := [], perf := [], errLog := [], parts := [], invals := [], past := [], rels := [],
    images := [], host := .idle, ports := [], routes := [], remoteWaits := [], stalls := [], sec := .idle, chip := 0, clock := 16, cycle := 0, seq := 0,
    freeCount := 0, agenda := [], inputs := [], rot := 0, stopped := .none }

end Sys2Proof.Machine
end

