-- ==== Sys2Proof/Machine/Maps.lean ====
section
/-!
DEFINITION. Tables as lists of (key, value) pairs with rising keys, an absent key meaning the table's default, and
memory as such a list with the default byte 0 in canonical form: addresses strictly rising, no entry equal to 0.
-/
namespace Sys2Proof.Machine

/-- The entry at key k, or d. -/
def find {α : Type} (l : List (Nat × α)) (k : Nat) (d : α) : α :=
  match l with
  | [] => d
  | (j, x) :: r => if j == k then x else find r k d

/-- The entry at key k, if there is one. -/
def find? {α : Type} (l : List (Nat × α)) (k : Nat) : Option α :=
  match l with
  | [] => none
  | (j, x) :: r => if j == k then some x else find? r k

/-- Sets the entry at key k, keeping the keys in rising order. -/
def put {α : Type} (l : List (Nat × α)) (k : Nat) (x : α) : List (Nat × α) :=
  match l with
  | [] => [(k, x)]
  | (j, y) :: r => if j == k then (k, x) :: r else if k < j then (k, x) :: (j, y) :: r else (j, y) :: put r k x

/-- Removes the entry at key k. -/
def drop {α : Type} (l : List (Nat × α)) (k : Nat) : List (Nat × α) := l.filter fun p => p.1 != k

/-- Applies f to the entry at key k, or to d. -/
def upd {α : Type} (l : List (Nat × α)) (k : Nat) (d : α) (f : α → α) : List (Nat × α) := put l k (f (find l k d))

/-- A byte of memory; an unlisted byte reads 0 (R50, R501). -/
def Memory.get (m : List Host.Cell) (a : Nat) : Byte := find m a 0

/-- Inserts a byte that is not 0 in rising order, or removes the entry when the byte is 0. -/
def Memory.set (m : List Host.Cell) (a : Nat) (b : Byte) : List Host.Cell :=
  match m with
  | [] => if b == 0 then [] else [(a, b)]
  | (j, y) :: r =>
    if j == a then (if b == 0 then r else (a, b) :: r)
    else if a < j then (if b == 0 then (j, y) :: r else (a, b) :: (j, y) :: r)
    else (j, y) :: Memory.set r a b

/-- Every address of the list is above a. -/
def Memory.above (a : Nat) (m : List Host.Cell) : Bool :=
  match m with
  | [] => true
  | (j, _) :: _ => a < j

/-- The canonical form: addresses strictly rising, no entry 0. -/
def Memory.wf : List Host.Cell → Bool
  | [] => true
  | (j, y) :: r => y != 0 && Memory.above j r && Memory.wf r

/-- n bytes from address a, lowest first. -/
def Memory.bytes (m : List Host.Cell) (a n : Nat) : List Byte :=
  match n with
  | 0 => []
  | k + 1 => Memory.get m a :: Memory.bytes m (a + 1) k

/-- Writes a list of bytes from address a on. -/
def Memory.setBytes (m : List Host.Cell) (a : Nat) : List Byte → List Host.Cell
  | [] => m
  | b :: r => Memory.setBytes (Memory.set m a b) (a + 1) r

/-- Removes every cell of a range of addresses, which then reads 0. -/
def Memory.clear (m : List Host.Cell) (lo n : Nat) : List Host.Cell :=
  m.filter fun p => p.1 < lo || lo + n ≤ p.1

/-- A list of bytes as a number, little-endian (R12). -/
def leNat : List Byte → Nat
  | [] => 0
  | b :: r => b.toNat + 256 * leNat r

/-- The low n bytes of a number, little-endian (R12). -/
def natLe (n : Nat) (x : Nat) : List Byte :=
  match n with
  | 0 => []
  | k + 1 => .ofNat 8 x :: natLe k (x / 256)

/-- A 64-bit word in memory. -/
def Memory.word (m : List Host.Cell) (a : Nat) : Word := .ofNat 64 (leNat (Memory.bytes m a 8))

/-- Stores a 64-bit word. -/
def Memory.setWord (m : List Host.Cell) (a : Nat) (w : Word) : List Host.Cell :=
  Memory.setBytes m a (natLe 8 w.toNat)

end Sys2Proof.Machine
end

