-- ==== Sys2Proof/Machine/Places.lean ====
section
/-!
DEFINITION. The places of the part: numbers of cores, flights, octets and contexts (R3, R4), access to the entry of
each in the state, the fields of the psw (R56), and the workspace as bytes (R32).
-/
namespace Sys2Proof.Machine

/-! ### Contexts -/

/-- The key of a gondola thread. -/
def gkey (g t : Nat) : Nat := 2 ^ 17 + 4 * g + t

/-- Whether a context key names a gondola thread. -/
def isG (k : Nat) : Bool := 2 ^ 17 ≤ k

/-- Package core number of a small-core context key, gondola number of a thread's. -/
def coreOf (k : Nat) : Nat := if isG k then (k - 2 ^ 17) / 4 else k / 16

/-- Context or thread number (c.tid 3:0). -/
def numOf (k : Nat) : Nat := if isG k then k % 4 else k % 16

/-- The package-wide flight number of a small core: die × 64 + flight (R4). -/
def flightOf (core : Nat) : Nat := core / 32

/-- The flight that R296 gives gondola core g: flight 4 × (g mod 16) of die g / 16. -/
def gFlight (g : Nat) : Nat := g / 16 * 64 + 4 * (g % 16)

/-- The flight of a context. -/
def ctxFlight (k : Nat) : Nat := if isG k then gFlight (coreOf k) else flightOf (coreOf k)

/-- The die of a context. -/
def ctxDie (k : Nat) : Nat := if isG k then coreOf k / 16 else coreOf k / 2048

/-- The octet of a core, over the package (R3). -/
def octetOf (core : Nat) : Nat := core / 8

/-- The context under a key; a context that never held a task is idle. -/
def State.ctx (s : State) (k : Nat) : Ctx := if k == s.cur then s.me else find s.ctxs k .idle

/-- Replaces the context under a key. -/
def State.setCtx (s : State) (k : Nat) (c : Ctx) : State :=
  if k == s.cur then { s with me := c } else { s with ctxs := put s.ctxs k c }

/-- Makes the context under key k the issuing one. -/
def State.focus (s : State) (k : Nat) : State :=
  if k == s.cur then s
  else { s with me := find s.ctxs k .idle, cur := k, ctxs := put (drop s.ctxs k) s.cur s.me }

/-- Every context that is listed, with its key, the issuing one first. -/
def State.allCtxs (s : State) : List (Nat × Ctx) := (s.cur, s.me) :: s.ctxs

/-- Whether a context holds a task (R27). -/
def Ctx.live (c : Ctx) : Bool :=
  match c.st with
  | .free => false
  | _ => true

/-! ### Cores, flights, lofts, dies -/

def State.core (s : State) (c : Nat) : Core := find s.cores c .idle
def State.setCore (s : State) (c : Nat) (x : Core) : State := { s with cores := put s.cores c x }
def State.onCore (s : State) (c : Nat) (f : Core → Core) : State := s.setCore c (f (s.core c))
def State.flight (s : State) (f : Nat) : Flight := find s.flights f .idle
def State.setFlight (s : State) (f : Nat) (x : Flight) : State := { s with flights := put s.flights f x }
def State.onFlight (s : State) (f : Nat) (g : Flight → Flight) : State := s.setFlight f (g (s.flight f))
def State.loft (s : State) (o : Nat) : Loft := find s.lofts o .idle
def State.setLoft (s : State) (o : Nat) (x : Loft) : State := { s with lofts := put s.lofts o x }
def State.die (s : State) (d : Nat) : Die := find s.dies d .idle
def State.setDie (s : State) (d : Nat) (x : Die) : State := { s with dies := put s.dies d x }
def State.launch? (s : State) (n : Nat) : Option Launch := find? s.launches n
def State.setLaunch (s : State) (n : Nat) (x : Launch) : State := { s with launches := put s.launches n x }
def State.onLaunch (s : State) (n : Nat) (f : Launch → Launch) : State :=
  match s.launch? n with
  | none => s
  | some x => s.setLaunch n (f x)
def State.part (s : State) (p : Nat) : Part := find s.parts p .idle
def State.setPart (s : State) (p : Nat) (x : Part) : State := { s with parts := put s.parts p x }
def State.gcore (s : State) (g : Nat) : GCore := find s.gcores g .idle
def State.setGcore (s : State) (g : Nat) (x : GCore) : State := { s with gcores := put s.gcores g x }

/-- The issuing core's number. -/
def State.myCore (s : State) : Nat := coreOf s.cur

/-- The core whose scratchpad, slots, deque and engine context the issuing task uses: its own, or the home core of a
task on a gondola thread (R333). -/
def State.homeCore (s : State) : Nat :=
  if isG s.cur then
    match s.me.t.home with
    | some k => coreOf k
    | none => coreOf s.cur
  else coreOf s.cur

/-! ### Which units exist (R8, R9, R497) -/

/-- Enabled flights of a die, from the enable word. -/
def State.flightsOn (s : State) (die : Nat) : Nat := (s.host.enableWord.toNat / 2 ^ (7 * die)) % 128

/-- Enabled cores of a flight, from the flight core-count table. -/
def State.coresOn (s : State) (f : Nat) : Nat :=
  if f % 64 < s.flightsOn (f / 64) then 8 * (find s.host.coreCounts f (Config.octetsPerFlight - 1) + 1) else 0

/-- Whether a small core is enabled. -/
def State.coreEnabled (s : State) (c : Nat) : Bool := c < 8192 && c % 32 < s.coresOn (flightOf c)

/-- The service-core mask of a flight; one that names no enabled core is replaced by the default of R9. -/
def State.serviceMask (s : State) (f : Nat) : Nat :=
  let n := s.coresOn f
  let m := (find s.sec.serviceMasks f 0).toNat % 2 ^ n
  if m == 0 then (if n == 0 then 0 else 2 ^ (n - 1)) else m

/-- Whether a core is a service core (R6). -/
def State.isService (s : State) (c : Nat) : Bool := s.coreEnabled c && (s.serviceMask (flightOf c)).testBit (c % 32)

/-- The service core of a flight in the sense of R437: the highest-numbered enabled core the mask names. -/
def State.serviceCore (s : State) (f : Nat) : Nat := 32 * f + (s.serviceMask f).log2

/-- Helper contexts that START and dispatch may take (R29). -/
def State.userCtxs (s : State) (c : Nat) : Nat := if s.isService c then 10 else 11

/-- The partition of a flight, 0 when the flight is assigned to none. -/
def State.flightPart (s : State) (f : Nat) : Nat := ((s.flight f).part).getD 0

/-- The flight whose service core, queue and partition serve a context: its own, or R296's for a gondola thread. DESIGN CHOICE
(log 64): where that flight is not enabled, on a degraded die, the die's highest-numbered enabled one (R9). -/
def State.servedBy (s : State) (k : Nat) : Nat :=
  if isG k then min (gFlight (coreOf k)) (64 * (coreOf k / 16) + (s.flightsOn (coreOf k / 16) - 1)) else flightOf (coreOf k)

/-- The partition in which the issuing context acts (R347). -/
def State.myPart (s : State) : Nat := s.flightPart (s.servedBy s.cur)

/-- The partition of a tenant domain: the enabled entry that names it (R347, R486). -/
def partOfDom (l : List (Nat × Part)) (d : Dom) : Option Nat :=
  match l with
  | [] => none
  | (p, x) :: r => if x.enable && x.doms.getLsbD d.toNat then some p else partOfDom r d

/-- Whether domain d belongs to partition p: 0x000 and 0xFFF exist in every one (R347). -/
def State.domIn (s : State) (d : Dom) (p : Nat) : Bool :=
  d == 0 || d == 0xFFF || partOfDom s.parts d == some p

/-! ### The psw (R56) -/

def Csr.s (c : Csr) : Bool := c.psw.getLsbD 0
def Csr.pp (c : Csr) : Bool := c.psw.getLsbD 1
def Csr.xs (c : Csr) : Bool := c.psw.getLsbD 2
def Csr.rm (c : Csr) : BitVec 3 := c.psw.extractLsb' 3 3
def Csr.wu (c : Csr) : Bool := c.psw.getLsbD 11
def Csr.bx (c : Csr) : Bool := c.psw.getLsbD 12
def Csr.gd (c : Csr) : Nat := (c.psw.extractLsb' 13 4).toNat
def Csr.ie (c : Csr) : Bool := c.psw.getLsbD 17
def Csr.tr (c : Csr) : Bool := c.psw.getLsbD 18

/-- psw with bit i set to b. -/
def setBit {n : Nat} (x : BitVec n) (i : Nat) (b : Bool) : BitVec n :=
  if b then x ||| BitVec.twoPow n i else x &&& ~~~ BitVec.twoPow n i

def Csr.setPp (c : Csr) (b : Bool) : Csr := { c with psw := setBit c.psw 1 b }
def Csr.setXs (c : Csr) : Csr := { c with psw := setBit c.psw 2 true }
def Csr.setWu (c : Csr) : Csr := { c with psw := setBit c.psw 11 true }
def Csr.setBx (c : Csr) (b : Bool) : Csr := { c with psw := setBit c.psw 12 b }
def Csr.setGd (c : Csr) (n : Nat) : Csr :=
  { c with psw := (c.psw &&& ~~~ (0xF#19 <<< 13)) ||| ((BitVec.ofNat 19 (n % 16)) <<< 13) }

/-- Accrues flags NX, UF, OF, DZ, NV, given in bits 0 to 4 (R56, R118). -/
def Csr.accrue (c : Csr) (f : BitVec 5) : Csr := { c with psw := c.psw ||| (f.setWidth 19 <<< 6) }

/-- The issuing context with its control registers changed. -/
def State.onCsr (s : State) (f : Csr → Csr) : State := { s with me := { s.me with c := f s.me.c } }
def State.onRegs (s : State) (f : Regs → Regs) : State := { s with me := { s.me with r := f s.me.r } }
def State.onTask (s : State) (f : Task → Task) : State := { s with me := { s.me with t := f s.me.t } }

/-! ### Registers -/

/-- w(n); w0 reads zero (R66). -/
def Regs.getW (r : Regs) (n : WReg) : Word := if n == 0 then 0 else r.w[n.toFin]

/-- Writes w(n); a write to w0 is discarded (R66). -/
def Regs.setW (r : Regs) (n : WReg) (x : Word) : Regs := if n == 0 then r else { r with w := r.w.set n.toFin x }
def Regs.getV (r : Regs) (n : VReg) : Vec := r.v[n.toFin]
def Regs.setV (r : Regs) (n : VReg) (x : Vec) : Regs := { r with v := r.v.set n.toFin x }
def Regs.getM (r : Regs) (n : MReg) : Word := r.m[n.toFin]
def Regs.setM (r : Regs) (n : MReg) (x : Word) : Regs := { r with m := r.m.set n.toFin x }
def Regs.getO (r : Regs) (n : BitVec 3) : Word := r.o[n.toFin]
def Regs.setO (r : Regs) (n : BitVec 3) (x : Word) : Regs := { r with o := r.o.set n.toFin x }
def Regs.getL (r : Regs) (n : BitVec 2) : Word := r.l[n.toFin]
def Regs.getQ (r : Regs) (n : BitVec 2) : List Word :=
  match n.toNat with
  | 0 => r.q0
  | 1 => r.q1
  | 2 => r.q2
  | _ => r.q3
def Regs.setQ (r : Regs) (n : BitVec 2) (l : List Word) : Regs :=
  match n.toNat with
  | 0 => { r with q0 := l }
  | 1 => { r with q1 := l }
  | 2 => { r with q2 := l }
  | _ => { r with q3 := l }

/-- The push into the last-result file (R39). -/
def Regs.pushL (r : Regs) (x : Word) : Regs :=
  { r with l := #v[x, r.l[0], r.l[1], r.l[2]] }

/-! ### The workspace as bytes (R32, R34) -/

/-- Byte i of a word. -/
def byteOf {n : Nat} (x : BitVec n) (i : Nat) : Byte := x.extractLsb' (8 * i) 8

/-- x with byte i replaced. -/
def setByteOf {n : Nat} (x : BitVec n) (i : Nat) (b : Byte) : BitVec n :=
  (x &&& ~~~ ((0xFF#8).setWidth n <<< (8 * i))) ||| (b.setWidth n <<< (8 * i))

/-- The byte of the registers at offset off of a workspace, if a register stands there; the w0 slot is memory. -/
def Regs.wsByte (r : Regs) (off : Nat) : Option Byte :=
  if 8 ≤ off && off < 0x100 then some (byteOf (r.getW (.ofNat 5 (off / 8))) (off % 8))
  else if 0x100 ≤ off && off < 0x500 then some (byteOf (r.getV (.ofNat 4 ((off - 0x100) / 64))) (off % 64))
  else if 0x500 ≤ off && off < 0x540 then some (byteOf (r.getM (.ofNat 3 ((off - 0x500) / 8))) (off % 8))
  else none

/-- Stores a byte into the register at offset off of a workspace. -/
def Regs.setWsByte (r : Regs) (off : Nat) (b : Byte) : Regs :=
  if 8 ≤ off && off < 0x100 then
    let n : WReg := .ofNat 5 (off / 8)
    r.setW n (setByteOf (r.getW n) (off % 8) b)
  else if 0x100 ≤ off && off < 0x500 then
    let n : VReg := .ofNat 4 ((off - 0x100) / 64)
    r.setV n (setByteOf (r.getV n) (off % 64) b)
  else if 0x500 ≤ off && off < 0x540 then
    let n : MReg := .ofNat 3 ((off - 0x500) / 8)
    r.setM n (setByteOf (r.getM n) (off % 8) b)
  else r

/-! ### Scratchpads (R48) -/

/-- The key of the first byte of a core's scratchpad. -/
def spadKey (core off : Nat) : Nat := 2 ^ 64 + 2 ^ 18 * core + off

/-- Whether a key names a scratchpad byte. -/
def isSpad (k : Nat) : Bool := 2 ^ 64 ≤ k && k < 2 ^ 65

/-- Keys of host memory, as the device reads and writes it (R479): byte a has the key 2^65 + a. -/
def hostKey (a : Nat) : Nat := 2 ^ 65 + a
def isHost (k : Nat) : Bool := 2 ^ 65 ≤ k

def spadCore (k : Nat) : Nat := (k - 2 ^ 64) / 2 ^ 18
def spadOff (k : Nat) : Nat := (k - 2 ^ 64) % 2 ^ 18

/-- The core-window address of a scratchpad byte (R48). -/
def coreWindow (core off : Nat) : Word := .ofNat 64 (0x00FFFF8000000000 + 2 ^ 18 * core + off)

/-- The local-window address of a scratchpad offset (R48). -/
def localWindow (off : Nat) : Word := BitVec.ofNat 64 (0x00FFFFFFFFFC0000 + off)

/-- A local-window address as the core-window address of a core (R202, R257, R258); any other address unchanged. -/
def toCoreWindow (core : Nat) (a : Word) : Word :=
  if 0x00FFFFFFFFFC0000 ≤ a.toNat && a.toNat ≤ 0x00FFFFFFFFFFFFFF then coreWindow core (a.toNat - 0x00FFFFFFFFFC0000)
  else a

/-- The scratchpad key of a window address, as seen from a core (R48, R49). -/
def windowKey (core : Nat) (a : Nat) : Option Nat :=
  if 0x00FFFFFFFFFC0000 ≤ a && a ≤ 0x00FFFFFFFFFFFFFF then some (spadKey core (a - 0x00FFFFFFFFFC0000))
  else if 0x00FFFF8000000000 ≤ a && a ≤ 0x00FFFF807FFFFFFF then some (2 ^ 64 + (a - 0x00FFFF8000000000))
  else none

/-- Whether an address lies in the range that is not translated (R48, R49). -/
def inWindows (a : Nat) : Bool := 0x00FFFF8000000000 ≤ a && a ≤ 0x00FFFFFFFFFFFFFF

end Sys2Proof.Machine
end

