-- ==== Sys2Proof/Machine/Access.lean ====
section
/-!
DEFINITION. Translation (R445 to R449), protection (R50, R351, R352), the cipher's keys (R370, R371, R501), and one
byte of the machine's memory as an agent sees it. Every access of every agent goes through `check` and then through
`State.peek` and `State.poke`.
-/
namespace Sys2Proof.Machine

/-- The kinds of access (R447); a read-modify-write is a store. -/
inductive Kind where
  | fetch | load | store
  deriving DecidableEq, Repr

/-- The cause of a missing translation, by the kind of access (R447). -/
def Kind.xlt : Kind → Cause
  | .fetch => .xltFetch
  | .load => .xltLoad
  | .store => .xltStore

/-- The bit of the permissions X W R, in bits 2 to 0, that a kind needs. -/
def Kind.bit : Kind → Nat
  | .fetch => 2
  | .load => 0
  | .store => 1

/-- Who makes an access: the address space, the domain and mode checked, the core whose local window it sees, and
where translations are held: `l1` is the core or gondola core whose TLB is used, if any. -/
structure Who where
  asid : BitVec 16
  ttb : Word
  dom : Dom
  s : Bool
  part : Nat
  core : Nat
  flight : Nat
  l1 : Option Nat
  /-- translations that an engine command holds (R442) -/
  held : List TlbEntry := []
  deriving DecidableEq, Repr

/-- The core whose scratchpad a context's workspace and frames stand in (R333, R390). -/
def homeOf (k : Nat) (c : Ctx) : Nat := if isG k then (c.t.home.map coreOf).getD 8192 else coreOf k

/-- Whether a context is a gondola thread whose task started there (R334). -/
def bornThere (k : Nat) (c : Ctx) : Bool := isG k && c.t.home.isNone

/-- The key of a context's workspace, where c.wp names one in a scratchpad. The registers of a task that started on a gondola
thread, whose workspace is in memory, stand under keys of their own, which no address names (R334). -/
def wsKey (k : Nat) (c : Ctx) : Option Nat :=
  if bornThere k c then some (spadKey (8192 + (k - 2 ^ 17)) 0) else windowKey (homeOf k c) c.c.wp.toNat

/-- The issuing context. DESIGN CHOICE (log 64): a gondola core whose flight (R296) is disabled goes on using the second-level
TLB of that flight. -/
def State.who (s : State) : Who :=
  { asid := s.me.c.asid, ttb := s.me.c.ttb, dom := s.me.c.dom, s := s.me.c.s, part := s.myPart, core := s.homeCore,
    flight := ctxFlight s.cur, l1 := some (if isG s.cur then 8192 + coreOf s.cur else coreOf s.cur) }

/-- The task in another context as an agent. -/
def State.whoOf (s : State) (k : Nat) : Who :=
  let c := s.ctx k
  { asid := c.c.asid, ttb := c.c.ttb, dom := c.c.dom, s := c.c.s, part := s.flightPart (s.servedBy k),
    core := homeOf k c, flight := ctxFlight k, l1 := none }

/-! ### Keys -/

/-- The key number of a domain's active slot (R369). -/
def keyOf (l : List (Nat × KeySlot)) (d : Dom) : Option Nat :=
  match l with
  | [] => none
  | (_, x) :: r => if x.dom == d then some x.key else keyOf r d

/-- What tells whether a line's tag matches (R370, R501): the key's number, and the owner that the tag's IV names. -/
def sealNo (key : Nat) (owner : Dom) : Nat := 4096 * key + owner.toNat

/-- The seal of a page's lines from boot on (R496, R501): the first of the key book is 0x000's, the second 0xFFF's. -/
def bootKeyNo (page : Nat) : Nat := if (Config.bootPot page).extractLsb' 0 12 == 0xFFF then sealNo 1 0xFFF else sealNo 0 0

/-- The seal under which the line of a DRAM key was last written (R370, R501); for a line of another chip see
Config.remoteSeal. -/
def State.lineKeyOf (s : State) (k : Nat) : Nat :=
  find s.lineKey (k / 64) (find s.pageKey (k / 2 ^ 19)
    (if k / 2 ^ 46 == s.chip.toNat then bootKeyNo (k / 2 ^ 19) else Config.remoteSeal (k / 64) s.cycle))

/-! ### The ownership table (R349 to R351) -/

/-- The ownership entry of the page of a DRAM key; that of a page of another chip is the other chip's (R495). -/
def State.potEntry (s : State) (page : Nat) : Word :=
  find s.pot page (if page / 2 ^ 27 == s.chip.toNat then Config.bootPot page else Config.remotePot page s.cycle)

/-- Whether the owner of a place has an active key (R352): on the place's chip too (R495). -/
def State.keyActive (s : State) (k : Nat) (owner : Dom) : Bool :=
  (keyOf s.keys owner).isSome &&
    (2 ^ 64 ≤ k || k / 2 ^ 46 == s.chip.toNat || Config.keyElsewhere (k / 2 ^ 46) owner.toNat s.cycle)

def potValid (e : Word) : Bool := e.getLsbD 15
def potPart (e : Word) : Nat := (e.extractLsb' 36 6).toNat
def potList (e : Word) : Nat := (e.extractLsb' 24 12).toNat
def potFrozen (e : Word) : Bool := e.getLsbD 16
def potSealed (e : Word) : Bool := e.getLsbD 14
def potMetered (e : Word) : Bool := e.getLsbD 13
def potOwner (e : Word) : Dom := e.extractLsb' 0 12

/-- The entry of a shared list that names a domain, looked for among entries i to count (R350): whether it permits
writes. -/
def listEntry (m : List Host.Cell) (a : Nat) (d : Dom) (i count : Nat) : Option Bool :=
  match count with
  | 0 => none
  | k + 1 =>
    let h : BitVec 16 := .ofNat 16 (leNat (Memory.bytes m (a + 2 * i) 2))
    if h.extractLsb' 0 12 == d then some (h.getLsbD 15) else listEntry m a d (i + 1) k

/-- Whether list i of a die names a domain, and whether it permits writes (R350). -/
def State.shared (s : State) (die i : Nat) (d : Dom) : Option Bool :=
  if i == 0 then none
  else
    let a := s.chip.toNat * 2 ^ 46 + (s.die die).listBase + 32 * i
    listEntry s.mem a d 1 (leNat (Memory.bytes s.mem a 1) % 16)

/-- The partition of a domain as seen by an agent acting in partition p (R347). -/
def State.domPart (s : State) (d : Dom) (p : Nat) : Option Nat :=
  if d == 0 || d == 0xFFF then some p else partOfDom s.parts d

/-- Whether a page lies in the block of a capacity move that has been removed from its giver (R488). -/
def State.moving (s : State) (page : Nat) : Bool :=
  (s.host.move.st == .removed || s.host.move.st == .scrubbing) &&
    page / 4096 == (s.chip.toNat * 2 ^ 46 + s.host.move.base) / 2 ^ 31

/-! ### Integrity of a line (R370, R371) -/

/-- Where a byte stands, and what the check of it recorded: its key, its page's owner, whether the page is metered. -/
structure Where where
  key : Nat
  owner : Dom
  metered : Bool
  deriving DecidableEq, Repr

/-- The ports that carry what goes to a chip, in order, as the supervisor's route table gives them (R494; log 32). -/
def State.route (s : State) (chip : Nat) : List Nat := (find? s.routes chip).getD (List.range 24)

/-- The first port of a chip's route that is up. -/
def State.reach (s : State) (chip : Nat) : Option (Nat × Port) :=
  (s.route chip).findSome? fun n => (find? s.ports n).bind fun p => if p.up then some (n, p) else none

/-- Whether a place lies on a chip that no port reaches (R494). -/
def State.unreached (s : State) (p : Where) : Bool :=
  p.key < 2 ^ 64 && p.key / 2 ^ 46 != s.chip.toNat && (s.reach (p.key / 2 ^ 46)).isNone

/-- The cause that reading or merging into the line of a place raises; none if the line is good. -/
def State.lineBad (s : State) (p : Where) : Option Cause :=
  if 2 ^ 64 ≤ p.key then none
  else if s.unreached p then some .link
  else if s.eccLines.any (· == p.key / 64) then some .eccUe
  else if (keyOf s.keys p.owner).map (sealNo · p.owner) != some (s.lineKeyOf p.key) then some .macFail
  else none

/-! ### The ownership check (R351) -/

/-- A 64-bit word at a physical address of this chip. -/
def State.phys (s : State) (pa : Nat) : Word := Memory.word s.mem (s.chip.toNat * 2 ^ 46 + pa)

/-- The cause with which hardware's read of a table of 0x000 meets the line of a physical address, if it is bad (R371). The key of
0x000 is active from boot on (R496). -/
def State.tableBad (s : State) (pa : Nat) : Option Cause :=
  let k := s.chip.toNat * 2 ^ 46 + pa
  if s.eccLines.any (· == k / 64) then some .eccUe
  else if (keyOf s.keys 0).any fun n => sealNo n 0 != s.lineKeyOf k then some .macFail
  else none

/-- A word of a table of 0x000 as hardware reads it. DESIGN CHOICE (log 65): of a bad line, of which nothing is delivered, it
takes zero. -/
def State.tableWord (s : State) (pa : Nat) : Word := if (s.tableBad pa).isSome then 0 else s.phys pa

/-- The bad line in which the ownership entry of a page of this chip stands, if it is bad: its cause and its key (R349, R371). -/
def State.potBad (s : State) (page : Nat) : Option (Cause × Nat) :=
  let pa := page * 2 ^ 19 % 2 ^ 46
  let at_ := (s.die (Config.dieOf pa)).potBase + 8 * (pa / 2 ^ 19)
  if page / 2 ^ 27 != s.chip.toNat || !s.sec.booted || !Config.dramExists pa then none
  else (s.tableBad at_).map (·, s.chip.toNat * 2 ^ 46 + at_)

/-- The bad line that the entries of list i of a die stand in, if its line is bad: its cause and its key. -/
def State.listBad (s : State) (die i : Nat) : Option (Cause × Nat) :=
  let pa := (s.die die).listBase + 32 * i
  if i == 0 then none else (s.tableBad pa).map (·, s.chip.toNat * 2 ^ 46 + pa)

/-- What the shared list of a page's entry says of a domain: whether it permits writes, none where it does not name the domain, or
the bad line that its entries stand in. The list of a page of another chip is that chip's (R351, R495). -/
def State.listSays (s : State) (page i : Nat) (d : Dom) : Except (Cause × Nat) (Option Bool) :=
  let die := Config.dieOf (page * 2 ^ 19 % 2 ^ 46)
  if page / 2 ^ 27 != s.chip.toNat then .ok (if i == 0 then none else Config.remoteShared page d.toNat s.cycle)
  else match s.listBad die i with
    | some bad => .error bad
    | none => .ok (s.shared die i d)

/-- The permissions X W R that the ownership check gives, POT for a refusal (R351), or the bad line that it meets, with its
key. -/
def State.ownPerm (s : State) (who : Who) (page : Nat) : Except (Cause × Nat) (BitVec 3) :=
  let e := s.potEntry page
  let perm : Except (Cause × Nat) (BitVec 3) :=
    if let some bad := s.potBad page then .error bad
    else if s.moving page || !potValid e || s.domPart who.dom who.part != some (potPart e) then .error (.pot, 0)
    else if who.dom == potOwner e then .ok 0b111
    else if potSealed e then .error (.pot, 0)
    else if who.dom == 0 && who.s then .ok 0b011
    else match s.listSays page (potList e) who.dom with
      | .error bad => .error bad
      | .ok (some w) => .ok (if w then 0b011 else 0b001)
      | .ok none => .error (.pot, 0)
  match perm with
  | .error c => .error c
  | .ok p =>
    if !s.keyActive (page * 2 ^ 19) (potOwner e) then .error (.pot, 0)
    else .ok (if potFrozen e then p &&& 0b101 else p)

/-! ### The page tables (R445 to R447) -/

/-- What a walk finds: the range mapped and the permissions X W R of the leaf. -/
structure Leafmap where
  vbase : Nat
  size : Nat
  pbase : Nat
  perm : BitVec 3
  deriving DecidableEq, Repr

/-- The lowest address bit a level indexes, and how many bits (R445). -/
def levelShift : Nat → Nat × Nat
  | 0 => (43, 13)
  | 1 => (31, 12)
  | 2 => (24, 7)
  | _ => (19, 5)

/-- Size of a node of a level (R445). -/
def nodeSize (level : Nat) : Nat := 8 * 2 ^ (levelShift level).2

/-- Whether a node or table address lies in a page that 0x000 of the partition owns (R447). -/
def State.ownedBy0 (s : State) (part pa : Nat) : Bool :=
  let e := s.potEntry ((s.chip.toNat * 2 ^ 46 + pa) / 2 ^ 19)
  Config.dramExists pa && potValid e && potOwner e == 0 && potPart e == part

/-- What a walk comes to: a leaf, the translation cause, or a bad line of a node and its key. -/
inductive Walked where
  | leaf (m : Leafmap)
  | fault
  | bad (c : Cause) (key : Nat)
  deriving DecidableEq, Repr

/-- The walk from a node of a level on (R447). The walker reads nodes as physical accesses of 0x000, so a line of a node is
checked as any line is (R371). -/
def State.walk (s : State) (part va : Nat) (level fuel : Nat) (node : Nat) : Walked :=
  match fuel with
  | 0 => .fault
  | k + 1 =>
    if let some (c, key) := s.potBad ((s.chip.toNat * 2 ^ 46 + node) / 2 ^ 19) then .bad c key
    else if !s.ownedBy0 part node then .fault
    else
      let (sh, n) := levelShift level
      let at_ := node + 8 * (va / 2 ^ sh % 2 ^ n)
      let key := s.chip.toNat * 2 ^ 46 + at_
      match s.lineBad { key := key, owner := 0, metered := false } with
      | some c => .bad c key
      | none =>
        let e := (s.phys at_).toNat
        let b := fun i => e.testBit i
        if !b 0 then .fault
        else if b 1 then
          let pa := e / 2 ^ 19 % 2 ^ 27 * 2 ^ 19
          let chip := e / 2 ^ 46
          if level == 0 || e / 2 ^ 6 % 2 ^ 13 != 0 || pa % 2 ^ sh != 0 || (!b 5 && chip != 0) then .fault
          else .leaf { vbase := va / 2 ^ sh * 2 ^ sh, size := 2 ^ sh,
                       pbase := (if b 5 then chip else s.chip.toNat) * 2 ^ 46 + pa,
                       perm := .ofNat 3 (e / 4 % 8) }
        else
          let next := e / 2 ^ 8 % 2 ^ 38 * 2 ^ 8
          if level == 3 || e / 4 % 64 != 0 || e / 2 ^ 46 != 0 || next % nodeSize (level + 1) != 0 then .fault
          else State.walk s part va (level + 1) k next

/-- The walk of an agent's own tables for an address. -/
def State.walkFor (s : State) (who : Who) (va : Nat) : Walked :=
  s.walk who.part va 0 4 (who.ttb.toNat / 2 ^ 16 % 2 ^ 30 * 2 ^ 16)

/-! ### Fills and lookups (R351, R352, R449) -/

/-- The key of the host page that a physical page names for a domain: none where it is DRAM, of this chip or another, and while
the link is down (R479, R481). DESIGN CHOICE (log 58): see Config.hostPage. -/
def State.hostPage (s : State) (who : Who) (pa : Nat) : Option Nat :=
  if pa / 2 ^ 46 != s.chip.toNat || Config.dramExists (pa % 2 ^ 46) || !s.host.up then none
  else
    let pasid := Config.pasid (s.part ((s.domPart who.dom who.part).getD who.part)).pasids who.dom.toNat
    (Config.hostPage pasid (pa / 2 ^ 19)).map fun h => hostKey (2 ^ 19 * h)

/-- The physical address that an entry gives for an address of its page. -/
def TlbEntry.pa (t : TlbEntry) (va : Nat) : Nat := t.frame + (va - t.page)

/-- What an entry has recorded of the unit of an address. -/
def TlbEntry.unit? (t : TlbEntry) (va : Nat) : Option TlbUnit := t.units.find? fun u => u.vbase == va / 2 ^ 19 * 2 ^ 19

/-- The ownership check of the unit of an address in a translation's page (R351), whose leaf permits the access: what it
records, or the cause. -/
def State.checkUnit (s : State) (who : Who) (kind : Kind) (t : TlbEntry) (va : Nat) : Except Cause TlbUnit :=
  let page := t.pa va / 2 ^ 19
  let u : TlbUnit :=
    { vbase := va / 2 ^ 19 * 2 ^ 19, pbase := page * 2 ^ 19, own := 0b011, owner := who.dom, metered := false }
  match s.hostPage who (t.pa va) with
  | some h => if kind == .fetch then .error .pot else .ok { u with pbase := h }
  | none =>
    match s.ownPerm who page with
    | .error (c, _) => .error c
    | .ok p =>
      if !p.getLsbD kind.bit then .error .pot
      else
        let e := s.potEntry page
        .ok { u with own := p, owner := potOwner e, metered := potMetered e }

/-- The entry of a leaf before any unit of it has been used. -/
def Leafmap.entry (m : Leafmap) (who : Who) : TlbEntry :=
  { asid := who.asid, dom := who.dom, page := m.vbase, pageSize := m.size, frame := m.pbase, leaf := m.perm, units := [] }

/-- A fill for an access (R447, R449): the entry, with what it records of the unit of the address; or the cause. -/
def State.fill (s : State) (who : Who) (kind : Kind) (va : Nat) : Except Cause (TlbEntry × TlbUnit) :=
  match s.walkFor who va with
  | .fault => .error kind.xlt
  | .bad c _ => .error c
  | .leaf m =>
    if !m.perm.getLsbD kind.bit then .error kind.xlt
    else
      let t := m.entry who
      match s.checkUnit who kind t va with
      | .error c => .error c
      | .ok u => .ok ({ t with units := [u] }, u)

def TlbEntry.hits (t : TlbEntry) (who : Who) (va : Nat) : Bool :=
  t.asid == who.asid && t.dom == who.dom && t.page ≤ va && va < t.page + t.pageSize

/-- The first-level TLB an agent uses (R449). -/
def State.l1 (s : State) : Option Nat → List TlbEntry
  | none => []
  | some c => if c < 8192 then (s.core c).tlb else (s.gcore (c - 8192)).tlb

/-- Whether a translation falls under an invalidation (R441): its page overlaps the range. -/
def Inval.covers (i : Inval) (t : TlbEntry) : Bool := t.asid == i.asid && t.page < i.hi && i.lo < t.page + t.pageSize

/-- The translation that an agent itself holds for an address: an engine's command, for the units of its accesses (R442), or a
first-level TLB. -/
def State.tlbOwn (s : State) (who : Who) (va : Nat) : Option TlbEntry :=
  match who.held.find? fun t => t.hits who va && (t.unit? va).isSome with
  | some t => some t
  | none => (s.l1 who.l1).find? (·.hits who va)

/-- The translation that the second level gives: entries under an invalidation that has been posted are not used. -/
def State.tlbShared (s : State) (who : Who) (va : Nat) : Option TlbEntry :=
  ((s.flight who.flight).tlb).find? fun t => t.hits who va && !s.invals.any (·.covers t)

/-- The translation held for an address, if any: first level, then second. -/
def State.tlbFind (s : State) (who : Who) (va : Nat) : Option TlbEntry :=
  match s.tlbOwn who va with
  | some t => some t
  | none => s.tlbShared who va

/-- A unit that a held translation has recorded is used: a recorded owner without an active key gives POT (R352, R495). -/
def State.useUnit (s : State) (kind : Kind) (u : TlbUnit) : Except Cause TlbUnit :=
  if isHost u.pbase && !s.host.up then .error kind.xlt
  else if !u.own.getLsbD kind.bit then .error .pot
  else if !s.keyActive u.pbase u.owner then .error .pot
  else .ok u

/-- The translation of one byte: what is recorded of its unit, or the cause. -/
def State.translate (s : State) (who : Who) (kind : Kind) (va : Nat) : Except Cause TlbUnit :=
  match s.tlbFind who va with
  | none => (s.fill who kind va).map (·.2)
  | some t =>
    if !t.leaf.getLsbD kind.bit then .error kind.xlt
    else match t.unit? va with
      | some u => s.useUnit kind u
      | none => s.checkUnit who kind t va

/-- The bad line that the translation of an address meets, in a walk or in the ownership check, if any: the cause, the key and the
owner. -/
def State.walkBad (s : State) (who : Who) (va : Nat) : Option (Cause × Nat × Dom) :=
  let list := fun (t : TlbEntry) => match s.ownPerm who (t.pa va / 2 ^ 19) with
    | .error (c, k) => if c == .pot then none else some (c, k, (0 : Dom))
    | .ok _ => none
  match s.tlbFind who va with
  | some t => list t
  | none => match s.walkFor who va with
    | .bad c k => some (c, k, 0)
    | .leaf m => list (m.entry who)
    | .fault => none

/-- Keeps an entry in a second-level TLB; the oldest entry leaves a full one (R449, log 11). -/
def State.keepL2 (s : State) (flight : Nat) (t : TlbEntry) : State :=
  s.onFlight flight fun f => { f with tlb := (t :: f.tlb).take 8192 }

/-- Keeps an entry in the first-level TLB of an agent. -/
def State.keepL1 (s : State) (l1 : Option Nat) (t : TlbEntry) : State :=
  match l1 with
  | none => s
  | some c =>
    if c < 8192 then s.onCore c fun x => { x with tlb := (t :: x.tlb).take 512 }
    else
      let g := s.gcore (c - 8192)
      s.setGcore (c - 8192) { g with tlb := (t :: g.tlb).take 512 }

/-- A unit is recorded in the entries of a list that are of one leaf. -/
def addUnit (t : TlbEntry) (u : TlbUnit) (l : List TlbEntry) : List TlbEntry :=
  l.map fun x => if { x with units := [] } == { t with units := [] } && (x.unit? u.vbase).isNone then { x with units := u :: x.units } else x

/-- A unit of a translation that an agent holds has been used for the first time. -/
def State.recordUnit (s : State) (who : Who) (t : TlbEntry) (u : TlbUnit) : State :=
  let s := s.onFlight who.flight fun f => { f with tlb := addUnit t u f.tlb }
  match who.l1 with
  | none => s
  | some c =>
    if c < 8192 then s.onCore c fun x => { x with tlb := addUnit t u x.tlb }
    else
      let g := s.gcore (c - 8192)
      s.setGcore (c - 8192) { g with tlb := addUnit t u g.tlb }

/-- Keeps the translation that an access to a byte used, in the levels that did not hold it (R449). -/
def State.keepTlb (s : State) (who : Who) (kind : Kind) (va : Nat) : State :=
  if inWindows va then s
  else
    let unit := fun (t : TlbEntry) => if (t.unit? va).isSome then none else (s.checkUnit who kind t va).toOption
    match s.tlbOwn who va with
    | some t => match unit t with
      | some u => s.recordUnit who t u
      | none => s
    | none => match s.tlbShared who va with
      | some t => match unit t with
        | some u => (s.recordUnit who t u).keepL1 who.l1 { t with units := u :: t.units }
        | none => s.keepL1 who.l1 t
      | none =>
        match s.fill who kind va with
        | .ok (t, _) => (s.keepL2 who.flight t).keepL1 who.l1 t
        | .error _ => s

/-- Keeps the translations that an access to n bytes from va used. -/
def State.keepTlbs (s : State) (who : Who) (kind : Kind) (ea : Word) (n : Nat) : State :=
  let va := ea.toNat
  (s.keepTlb who kind va).keepTlb who kind ((va + n - 1) % 2 ^ 64)

/-! ### Scratchpad tags (R35, R50, R357) -/

/-- The number of a core's user granules (R51): an overflow area of more than 256 entries takes granules from the top. -/
def Core.userTop (x : Core) : Nat := 36 - (x.overflow - 256 + 63) / 64

/-- The tag of a granule; those above the user granules belong to the supervisor from the start (R51). -/
def State.granule (s : State) (core g : Nat) : Tag :=
  let x := s.core core
  if x.userTop ≤ g && g < 36 then { valid := true, dom := 0 } else find x.tags g { valid := 36 ≤ g, dom := 0 }

/-- The tag of a pool workspace (R35). -/
def State.poolTag (s : State) (core i : Nat) : Tag := find (s.core core).pool i { valid := true, dom := 0 }

/-- The granules that hold a frame of some context of a core (R354). -/
def State.framesIn (s : State) (core : Nat) : List Nat :=
  (s.allCtxs.filter fun p => homeOf p.1 p.2 == core).flatMap fun p => p.2.frames.map (·.granule)

/-- Whether a granule's domain-stack entry is out of every access's reach (R357, R358): that of a callee's frame. -/
def State.hidesEntry (s : State) (core g : Nat) (d : Dom) : Bool :=
  36 ≤ g && g < 52 && (d != 0 || (s.framesIn core).any (· == g))

/-- Whether an access in a domain and mode may reach a scratchpad byte (R35, R50, R357). DESIGN CHOICE (log 65): the overflow area
is told by its tags alone, so user mode in domain 0x000 reaches it (R274). -/
def State.spadOk (s : State) (who : Who) (core off : Nat) : Bool :=
  let d : Dom := if who.s then 0 else who.dom
  if 0x3A000 ≤ off then
    let t := s.poolTag core ((off - 0x3A000) / 1536)
    t.valid && t.dom == d
  else
    let g := off / 4096
    let t := s.granule core g
    t.valid && t.dom == d &&
      !(0x800 ≤ off % 4096 && off % 4096 < 0x900 && s.hidesEntry core g t.dom)

/-! ### The check of an access (R138, R141) -/

/-- The local physical address of a die's first ownership entry (R349): the table's base + 8 × (pa >> 19), for the pages of the
die's DRAM. -/
def State.potFirst (s : State) (d : Nat) : Nat := (s.die d).potBase + 8 * (d * 2 ^ 44 / 2 ^ 19)

/-- The page whose ownership entry stands at a key, if one does; only POTW writes it (R349). -/
def State.potPage (s : State) (k : Nat) : Option Nat :=
  if 2 ^ 64 ≤ k || k / 2 ^ 46 != s.chip.toNat || !s.sec.booted then none
  else
    let pa := k % 2 ^ 46
    let at_ := fun d => s.potFirst d ≤ pa && pa < s.potFirst d + 8 * (Config.dramPerDie / 2 ^ 19)
    ((List.range 4).find? at_).map fun d => (s.chip.toNat * 2 ^ 46 + d * 2 ^ 44) / 2 ^ 19 + (pa - s.potFirst d) / 8
def State.inPot (s : State) (k : Nat) : Bool := (s.potPage k).isSome

/-- The register key at which a byte of DRAM is found, where it belongs to the workspace of the task in context k, which has
started on that gondola thread: the place to which the task's own tables map it. -/
def State.threadKey (s : State) (k : Nat) (c : Ctx) (key : Nat) : Option Nat :=
  if !c.live || !bornThere k c then none
  else
    let wp := c.c.wp.toNat
    let at_ := fun (va : Nat) => match s.translate (s.whoOf k) .load va with
      | .ok u => if u.pbase / 2 ^ 19 == key / 2 ^ 19 then some (va / 2 ^ 19 * 2 ^ 19 + key % 2 ^ 19) else none
      | .error _ => none
    ([wp + 8, wp + 0x53F].filterMap at_).findSome? fun va =>
      if wp + 8 ≤ va && va < wp + 0x540 then (wsKey k c).map (· + (va - wp)) else none

/-- The key at which an agent's load or store finds a byte of memory: that of a register, where a task that has started on a
gondola thread holds it (R34, R334). -/
def State.place (s : State) (kind : Kind) (key : Nat) : Nat :=
  if kind == .fetch || 2 ^ 64 ≤ key || !s.allCtxs.any fun p => p.2.live && bornThere p.1 p.2 then key
  else (s.allCtxs.findSome? fun p => s.threadKey p.1 p.2 key).getD key

/-- The check of one byte. -/
def State.checkByte (s : State) (who : Who) (kind : Kind) (va : Nat) : Except Cause Where :=
  if 2 ^ 56 ≤ va then .error kind.xlt
  else if inWindows va then
    match windowKey who.core va with
    | none => .error kind.xlt
    | some k =>
      if kind == .fetch || !s.coreEnabled (spadCore k) then .error kind.xlt
      else if s.spadOk who (spadCore k) (spadOff k) then .ok { key := k, owner := who.dom, metered := false }
      else .error .pot
  else match s.translate who kind va with
    | .error c => .error c
    | .ok t =>
      let k := t.pbase + va % 2 ^ 19
      if kind == .store && s.inPot k then .error .pot
      else .ok { key := s.place kind k, owner := t.owner, metered := t.metered }

/-- The order of the steps of R141: the address limits, then translation (a bad line of a node among it), then ownership. -/
def stepOf (va : Nat) (c : Cause) : Nat :=
  if c == .pot then 3 else if 2 ^ 56 ≤ va || inWindows va then 1 else 2

/-- The first failing check of a list of byte addresses: the least step, and in it the first address (R141). -/
def State.firstFail (s : State) (who : Who) (kind : Kind) : List Nat → Option (Nat × Cause × Nat)
  | [] => none
  | a :: r =>
    let rest := s.firstFail who kind r
    match s.checkByte who kind a with
    | .ok _ => rest
    | .error c =>
      match rest with
      | none => some (stepOf a c, c, a)
      | some (st, c2, a2) => if st < stepOf a c then some (st, c2, a2) else some (stepOf a c, c, a)

/-- The places of the bytes of a list of addresses that all pass. -/
def State.places (s : State) (who : Who) (kind : Kind) : List Nat → List Where
  | [] => []
  | a :: r =>
    match s.checkByte who kind a with
    | .ok w => w :: s.places who kind r
    | .error _ => s.places who kind r

/-- The n byte addresses from ea, modulo 2^64. -/
def addrs (ea : Word) (n : Nat) : List Nat := (List.range n).map fun i => (ea.toNat + i) % 2 ^ 64

/-- The check of an access as a whole (R141): the places of its bytes, or the cause and the address. -/
def State.check (s : State) (who : Who) (kind : Kind) (ea : Word) (n : Nat) : Except (Cause × Word) (List Where) :=
  match s.firstFail who kind (addrs ea n) with
  | some (_, c, a) => .error (c, .ofNat 64 a)
  | none => .ok (s.places who kind (addrs ea n))

/-! ### One byte (R34, R52, R370) -/

/-- The scratchpad offset of a live task's workspace, if it stands in the scratchpad of this core. -/
def wsBase (core : Nat) (k : Nat) (c : Ctx) : Option Nat :=
  if !c.live then none
  else match wsKey k c with
    | none => none
    | some a => if spadCore a == core then some (spadOff a) else none

/-- The register byte that stands at a scratchpad offset, if a live workspace holds it there (R34). -/
def regByte (core off : Nat) : List (Nat × Ctx) → Option Byte
  | [] => none
  | (k, c) :: r =>
    match wsBase core k c with
    | some b => if b ≤ off && off < b + 0x540 then
        (match c.r.wsByte (off - b) with
         | some x => some x
         | none => regByte core off r) else regByte core off r
    | none => regByte core off r

/-- The contexts whose live workspaces hold a register at a scratchpad offset (R32, R34): two of them where one's c.wp names
a part of the other's workspace. -/
def regOwners (core off : Nat) (l : List (Nat × Ctx)) : List (Nat × Nat) :=
  l.filterMap fun p => match wsBase core p.1 p.2 with
    | some b => if b + 8 ≤ off && off < b + 0x540 then some (p.1, b) else none
    | none => none

/-- The registers of a workspace at key b, with the bytes in common taken from those of one at key a (R32). -/
def Regs.sharing (r from_ : Regs) (b a : Nat) : Regs :=
  ((List.range 0x538).map (· + 8)).foldl (fun (r : Regs) i =>
    match if a ≤ b + i && 8 ≤ b + i - a then from_.wsByte (b + i - a) else none with
    | some x => r.setWsByte i x
    | none => r) r

/-- The other contexts whose workspaces overlap that of a context, with the keys of theirs (R32, R36). -/
def State.neighbours (s : State) (k a : Nat) : List (Nat × Nat) :=
  s.allCtxs.filterMap fun p => match if p.1 == k || !p.2.live then none else wsKey p.1 p.2 with
    | some b => if a < b + 0x540 && b < a + 0x540 then some (p.1, b) else none
    | none => none

/-- What a context has written to its registers stands in every register that shares those bytes: the registers are the words of a
workspace (R32). -/
def State.shareRegs (s : State) (k : Nat) : State :=
  match if (s.ctx k).live then wsKey k (s.ctx k) else none with
  | none => s
  | some a => (s.neighbours k a).foldl (fun (t : State) p =>
      t.setCtx p.1 { t.ctx p.1 with r := (t.ctx p.1).r.sharing (s.ctx k).r p.2 a }) s

/-- The offset in an image of a key, if the key lies in it. -/
def segOff (k : Nat) : List (Nat × Nat × Nat) → Option Nat
  | [] => none
  | (o, a, n) :: r => if a ≤ k && k < a + n then some (o + (k - a)) else segOff k r

/-- The offset of a key in an image. -/
def Image.off (i : Image) (k : Nat) : Option Nat := segOff k i.segs

/-- Whether the image stands at a key: every byte but the version and kind in a core image's header, which the model
holds in memory, and bytes overwritten since. -/
def Image.covers (i : Image) (k : Nat) : Bool :=
  match i.off k with
  | none => false
  | some o => !((if i.flight && o < 0xA00000 then o % 0x50000 else o) < 2) && !i.lost.any (· == k)

/-- The domains that have a part in the image of a core (R472, R473). -/
def partDoms (x : Core) (ctxs : List (Nat × Ctx)) : List Dom :=
  ((ctxs.filter (·.2.live)).map (·.2.c.dom) ++ (x.slots.filter fun p => p.2.st != .empty).map (·.2.dom) ++ x.runq.map (·.dom) ++
    x.deque.map (·.dom) ++ x.launchq.map (·.dom) ++ x.eng.queue.map (·.dom) ++ (x.rows.filterMap fun r => r.2.tag) ++
    x.tags.map (·.2.dom) ++ x.pool.map (·.2.dom)).eraseDups

/-- The domains whose parts of a core image a byte at an offset belongs to (R472, R473); none for a plain part. DESIGN CHOICE
(log 30): the header holds every part's integrity tag, so a byte of it beyond version and kind belongs to all; entries stand
in order. -/
def imagePart (x : Core) (ctxs : List (Nat × Ctx)) (o : Nat) : List Dom :=
  if o < 0x1000 then partDoms x ctxs
  else if o < 0x2000 then
    let t := find x.slots ((o - 0x1000) / 24) .empty
    if t.st == .empty then [] else [t.dom]
  else if o < 0x4000 then (ctxs.filter fun p => p.2.live && !isG p.1 && numOf p.1 == (o - 0x2000) / 512).map (·.2.c.dom)
  else if o < 0x5000 then ((x.runq[(o - 0x4000) / 64]?).map (·.dom)).toList
  else if o < 0x5800 then ((x.deque[(o - 0x5000) / 64]?).map (·.dom)).toList
  else if o < 0x5C00 then ((x.launchq[(o - 0x5800) / 64]?).map (·.dom)).toList
  else if o < 0x6000 then []
  else if o < 0x8000 then ((x.eng.queue[(o - 0x6000) / 128]?).map (·.dom)).toList
  else if o < 0xC000 then (find x.rows ((o - 0x8000) / 1024) .zero).tag.toList
  else if o < 0x10000 then (find x.rows ((o - 0xC000) / 4) .zero).tag.toList
  else if 0x3A000 ≤ o - 0x10000 then [(find x.pool ((o - 0x4A000) / 1536) { valid := true, dom := 0 }).dom]
  else [(find x.tags ((o - 0x10000) / 4096) { valid := true, dom := 0 }).dom]

/-- The contexts of an image that belong to a core (log 29). -/
def Image.ctxsOf (i : Image) (core : Nat) : List (Nat × Ctx) := i.ctxs.filter fun q => homeOf q.1 q.2 == core

/-- The domains whose parts of an image a byte at an offset belongs to (R469, R472). -/
def Image.domsAt (i : Image) (o : Nat) : List Dom :=
  if i.flight then
    if o < 0xA00000 then
      let c := o / 0x50000
      match i.cores.find? fun p => p.1 % 32 == c with
      | none => []
      | some p => imagePart p.2 (i.ctxsOf p.1) (o % 0x50000)
    else if o < 0xB00000 then
      match i.lofts.find? fun p => p.1 % 4 == (o - 0xA00000) / 0x40000 with
      | none => []
      | some p =>
        let b := if o % 0x40000 < 0x10000 then p.2.bank0 else p.2.bank1
        if b.filled then [b.dom] else []
    else ((find? i.barriers ((o - 0xB00000) / 64)).map (·.dom)).toList
  else match i.cores.head? with
    | none => []
    | some p => imagePart p.2 i.ctxs o

/-- A byte of an image is overwritten. -/
def Image.hit (i : Image) (k : Nat) : Image :=
  if i.covers k then { i with lost := k :: i.lost, bad := i.domsAt ((i.off k).getD 0) ++ i.bad } else i

/-- The images that still hold their core's or flight's state (R466, R474). -/
def State.liveImages (s : State) : List Image := s.images.filter fun i => !i.spent

/-- The first image that stands at a key. -/
def imageAt (l : List Image) (k : Nat) : Option Image := l.find? (·.covers k)

/-- The kind of a header flit (R277); a forked task's entry never travels. -/
def TaskKind.flit : TaskKind → Nat
  | .continuation => 1
  | .completion => 2
  | .leaf => 3
  | _ => 0

/-- The bytes of a message's header flit (R277). -/
def Entry.bytes (e : Entry) : List Byte :=
  [e.entry, e.p0, e.p1, e.p2, e.p3].flatMap (fun w => natLe 8 w.toNat) ++
  natLe 8 (e.senderChip.toNat * 2 ^ 34 + e.targetChip.toNat * 2 ^ 16 + e.kind.flit * 2 ^ 13 + e.sender % 2 ^ 13) ++
  natLe 8 (e.group % 2 ^ 32 * 2 ^ 32 + (if e.colour then 2 ^ 16 else 0) + e.dom.toNat) ++ natLe 8 e.launch

/-- The place of a scratchpad offset in the overflow area of a core, as the number of an entry (R51, R274): the first 256
stand from 0x3_4000 on, the others in granules 35, 34 and so on. DESIGN CHOICE (log 65): which entry stands where within. -/
def Core.overflowAt (x : Core) (off : Nat) : Option Nat :=
  let n := if 0x34000 ≤ off && off < 0x38000 then (off - 0x34000) / 64 else 256 + 64 * (35 - off / 4096) + off % 4096 / 64
  if (0x34000 ≤ off || off < 0x24000) && off < 0x38000 && n < x.overflow then some n else none

/-- The byte of the overflow area of a core's run queue at a scratchpad offset, if an entry stands there (R274): the entries after
the 64th, in order. -/
def Core.overflowByte (x : Core) (off : Nat) : Option Byte :=
  (x.overflowAt off).bind fun n => (x.runq[64 + n]?).map fun e => e.bytes.getD (off % 64) 0

/-- The byte at a key as an agent reads it. DESIGN CHOICE (log 65): a place of the overflow area that holds an entry reads as that
entry, whatever a store put there (R274). -/
def State.peek (s : State) (k : Nat) : Byte :=
  if isSpad k then
    match regByte (spadCore k) (spadOff k) s.allCtxs with
    | some b => b
    | none => ((s.core (spadCore k)).overflowByte (spadOff k)).getD (Memory.get s.mem k)
  else if isHost k then Memory.get s.host.mem (k - 2 ^ 65)
  else match s.potPage k with
    | some page => byteOf (s.potEntry page) (k % 8)
    | none => match imageAt s.images k with
      | some i => Config.imageByte i.nonce k
      | none => Memory.get s.mem k

/-- Removes the record of a release at a byte (R306). -/
def State.forgetRel (s : State) (k : Nat) : State :=
  if s.rels.isEmpty then s else { s with rels := drop s.rels k }

/-- Releases in a scratchpad whose word has changed since without a store are no longer to be read: a register write, or hardware,
has replaced them (R34, R306). DESIGN CHOICE (log 65): a register write that leaves a word as it was leaves its release. -/
def State.forgetStale (s : State) : State :=
  if s.rels.isEmpty then s
  else
    let stale := (s.rels.filter fun p => p.2.any fun r => r.byte.any (· != s.peek p.1)).map (·.1 / 8)
    if stale.isEmpty then s else { s with rels := s.rels.filter fun p => !stale.any (· == p.1 / 8) }

/-- What a context has written to its registers stands in its workspace: in every register that shares those bytes, and for every
acquire that reads them (R32, R306). -/
def State.regsOut (s : State) (k : Nat) : State := (s.shareRegs k).forgetStale

/-- The byte at a key is written. -/
def State.poke (s : State) (k : Nat) (b : Byte) : State :=
  let s := s.forgetRel k
  if isSpad k then
    match regOwners (spadCore k) (spadOff k) s.allCtxs with
    | [] => { s with mem := Memory.set s.mem k b }
    | l => l.foldl (fun (t : State) p =>
        t.setCtx p.1 { t.ctx p.1 with r := (t.ctx p.1).r.setWsByte (spadOff k - p.2) b }) s
  else if isHost k then { s with host := { s.host with mem := Memory.set s.host.mem (k - 2 ^ 65) b } }
  else
    let old := Memory.get s.mem k
    { s with mem := Memory.set s.mem k b, images := s.images.map (·.hit k),
             past := if old == b then s.past else (k, s.cycle, old) :: s.past }

/-- Reads the bytes at a list of places. -/
def State.peeks (s : State) (l : List Where) : List Byte := l.map fun p => s.peek p.key

/-- Writes bytes at a list of places, in ascending order (R140). -/
def State.pokes (s : State) : List Where → List Byte → State
  | p :: l, b :: r => (s.poke p.key b).pokes l r
  | _, _ => s

/-! ### Integrity (R371, R372, R501) -/

/-- The first bad line among places. -/
def State.linesBad (s : State) : List Where → Option (Cause × Nat × Dom)
  | [] => none
  | p :: r =>
    match s.lineBad p with
    | some c => some (c, p.key, p.owner)
    | none => s.linesBad r

/-- The places of a store that covers whole lines, which writes them under the recorded owner's key without reading
them (R371, R501): the line becomes good. -/
def State.sealLine (s : State) (p : Where) : State :=
  if 2 ^ 64 ≤ p.key then s
  else match keyOf s.keys p.owner with
    | some k =>
      let s := if s.eccLines.isEmpty then s else { s with eccLines := s.eccLines.filter (· != p.key / 64) }
      if s.lineKeyOf p.key == sealNo k p.owner then s
      else { s with lineKey := put s.lineKey (p.key / 64) (sealNo k p.owner) }
    | none => s

end Sys2Proof.Machine
end

