-- ==== Sys2Proof/WellFormed.lean ====
section
/-!
DEFINITION. When an instruction is well formed: the checks that R76 lists under ENC and that depend on the
encoding alone (specifiers legal in their position and direction, the bank rule, reserved codes), the group
that decides where an instruction is unavailable (R77 to R79), and which instructions need supervisor state.
A check that depends on the pending FMT prefix, on a register's value or on state is made by the meaning.
-/
namespace Sys2Proof

/-- A legal source of a scalar-stream instruction: every specifier but q0 and q1 (R41, R66). -/
def Opnd.isSrc : Opnd → Bool
  | .q n => n == 2 || n == 3
  | _ => true

/-- A legal destination of a scalar-stream instruction: w, o, the l push alone, q0 and q1 (R41, R66). -/
def Opnd.isDst : Opnd → Bool
  | .w _ => true
  | .o _ => true
  | .l n => n == 0
  | .q n => n == 0 || n == 1
  | .imm _ => false

/-- A destination field that the instruction also reads must be 0wwwww or 100ooo (R124, R157). -/
def Opnd.isRmw : Opnd → Bool
  | .w _ => true
  | .o _ => true
  | _ => false

/-- A base must name a w register (R67, R161). -/
def Opnd.isW : Opnd → Bool
  | .w _ => true
  | _ => false

/-- A legal source of a vector-stream instruction: w, o, q0, q1 and immediates (R161). -/
def Opnd.isVSrc : Opnd → Bool
  | .w _ => true
  | .o _ => true
  | .l _ => false
  | .q n => n == 0 || n == 1
  | .imm _ => true

/-- A legal destination of a vector-stream instruction: q2 and q3 (R42, R161). -/
def Opnd.isVDst : Opnd → Bool
  | .q n => n == 2 || n == 3
  | _ => false

/-- An immediate of −8..−1: as a REP count it always exceeds 4096 (R177). -/
def Opnd.isNegImm : Opnd → Bool
  | .imm i => i.msb
  | _ => false

/-- The bank rule on two register numbers: w0 pairs with any register, and two others must differ in parity (R43, R44). -/
def pairs (a b : WReg) : Bool :=
  a == 0 || b == 0 || a.getLsbD 0 != b.getLsbD 0

/-- The bank rule on two specifiers: only two w registers are compared (R44). -/
def bankOk : Opnd → Opnd → Bool
  | .w a, .w b => pairs a b
  | _, _ => true

/-- scope3 holds 000 to 100 (R70). -/
def scopeOk (s : BitVec 3) : Bool := s.ult 5

/-- Integer element types (R70). -/
def Sz.isInt : Sz → Bool
  | .int8 => true
  | .int16 => true
  | .int32 => true
  | .int64 => true
  | _ => false

/-- Element width in bits (R101, R107). -/
def Sz.width : Sz → Nat
  | .int8 => 8
  | .int16 => 16
  | .int32 => 32
  | .int64 => 64
  | .bf16 => 16
  | .fp16 => 16
  | .fp32 => 32
  | .fp64 => 64

/-- The integer formats of FCVT (R158). -/
def Cvt.isInt : Cvt → Bool
  | .i64 => true
  | .u64 => true
  | .i32 => true
  | .u32 => true
  | _ => false

/-- Where an instruction is unavailable, so that it raises UND (R30, R72, R74, R77 to R79). -/
inductive Grp where
  /-- available everywhere, takes no FMT prefix -/
  | plain
  /-- UND on a gondola core (R78) -/
  | smallOnly
  /-- as smallOnly, and takes an FMT prefix (R239) -/
  | prefixed
  /-- as prefixed, and UND without a prefix (R239) -/
  | needsPrefix
  /-- REP: UND on a gondola core and in a box (R78, R79) -/
  | repeats
  /-- START, HWAIT, COMPOSE: UND on a gondola core, in a helper context and in a box (R30, R78, R79) -/
  | control
  /-- GMATH and MIGRATE: UND in a box (R77, R79, R333) -/
  | noBox
  /-- always UND (R64, R74) -/
  | never
  deriving DecidableEq, Repr

/-- A control register number from 0x013 on is unassigned: UND (R55, R462). -/
def Grp.csr (n : BitVec 12) : Grp := if n.ult 0x13 then .plain else .never

/-- The group of each instruction. -/
def Instr.grp : Instr → Grp
  | .illh _ => .never
  | .mov16 _ _ => .plain
  | .add16 _ _ => .plain
  | .addi16 _ _ => .plain
  | .sub16 _ _ => .plain
  | .and16 _ _ => .plain
  | .or16 _ _ => .plain
  | .xor16 _ _ => .plain
  | .shli16 _ _ => .plain
  | .shri16 _ _ => .plain
  | .srai16 _ _ => .plain
  | .li16 _ _ => .plain
  | .ld16 _ _ => .plain
  | .st16 _ _ => .plain
  | .lds16 _ _ => .plain
  | .sts16 _ _ => .plain
  | .beqz _ _ => .plain
  | .bnez _ _ => .plain
  | .j _ => .plain
  | .jr16 _ => .plain
  | .end16 => .plain
  | .pause16 => .plain
  | .nop => .plain
  | .break16 _ => .plain
  | .add _ _ _ => .plain
  | .sub _ _ _ => .plain
  | .andI _ _ _ => .plain
  | .orI _ _ _ => .plain
  | .xorI _ _ _ => .plain
  | .andn _ _ _ => .plain
  | .shl _ _ _ => .plain
  | .shr _ _ _ => .plain
  | .sra _ _ _ => .plain
  | .rol _ _ _ => .plain
  | .ror _ _ _ => .plain
  | .slt _ _ _ => .plain
  | .sltu _ _ _ => .plain
  | .minI _ _ _ => .plain
  | .maxI _ _ _ => .plain
  | .minu _ _ _ => .plain
  | .maxu _ _ _ => .plain
  | .mul _ _ _ => .plain
  | .mulh _ _ _ => .plain
  | .mulhu _ _ _ => .plain
  | .divI _ _ _ => .plain
  | .divu _ _ _ => .plain
  | .remI _ _ _ => .plain
  | .remu _ _ _ => .plain
  | .sel _ _ _ => .plain
  | .addW _ _ _ => .plain
  | .subW _ _ _ => .plain
  | .shlW _ _ _ => .plain
  | .shrW _ _ _ => .plain
  | .sraW _ _ _ => .plain
  | .mulW _ _ _ => .plain
  | .clz _ _ => .plain
  | .ctz _ _ => .plain
  | .popc _ _ => .plain
  | .sextB _ _ => .plain
  | .sextH _ _ => .plain
  | .sextW _ _ => .plain
  | .zextB _ _ => .plain
  | .zextH _ _ => .plain
  | .zextW _ _ => .plain
  | .brev _ _ => .plain
  | .bswap _ _ => .plain
  | .bext _ _ _ _ => .plain
  | .bins _ _ _ _ => .plain
  | .addi _ _ _ => .plain
  | .andImm _ _ _ => .plain
  | .orImm _ _ _ => .plain
  | .xorImm _ _ _ => .plain
  | .slti _ _ _ => .plain
  | .sltiu _ _ _ => .plain
  | .shli _ _ _ => .plain
  | .shri _ _ _ => .plain
  | .srai _ _ _ => .plain
  | .rori _ _ _ => .plain
  | .addiW _ _ _ => .plain
  | .li _ _ => .plain
  | .lis _ _ => .plain
  | .lpc _ _ => .plain
  | .jmp _ => .plain
  | .call _ => .plain
  | .jr _ _ _ => .plain
  | .bEq _ _ _ => .plain
  | .bNe _ _ _ => .plain
  | .bLt _ _ _ => .plain
  | .bGe _ _ _ => .plain
  | .bLtu _ _ _ => .plain
  | .bGeu _ _ _ => .plain
  | .bBs _ _ _ => .plain
  | .bBc _ _ _ => .plain
  | .ldB _ _ _ => .plain
  | .ldH _ _ _ => .plain
  | .ldW _ _ _ => .plain
  | .ldD _ _ _ => .plain
  | .ldBu _ _ _ => .plain
  | .ldHu _ _ _ => .plain
  | .ldWu _ _ _ => .plain
  | .stB _ _ _ => .plain
  | .stH _ _ _ => .plain
  | .stW _ _ _ => .plain
  | .stD _ _ _ => .plain
  | .ldx _ _ _ _ _ => .plain
  | .ldxu _ _ _ _ _ => .plain
  | .stx _ _ _ _ _ => .plain
  | .ldaq _ _ _ _ => .plain
  | .strl _ _ _ _ => .plain
  | .amoAdd _ _ _ _ _ => .plain
  | .amoAnd _ _ _ _ _ => .plain
  | .amoOr _ _ _ _ _ => .plain
  | .amoXor _ _ _ _ _ => .plain
  | .amoMin _ _ _ _ _ => .plain
  | .amoMax _ _ _ _ _ => .plain
  | .amoMinu _ _ _ _ _ => .plain
  | .amoMaxu _ _ _ _ _ => .plain
  | .amoSwap _ _ _ _ _ => .plain
  | .amoFadd _ _ _ _ _ => .plain
  | .amoFmax _ _ _ _ _ => .plain
  | .amoFmin _ _ _ _ _ => .plain
  | .amoFamax _ _ _ _ _ => .plain
  | .amoWAdd _ _ _ _ _ => .plain
  | .amoWAnd _ _ _ _ _ => .plain
  | .amoWOr _ _ _ _ _ => .plain
  | .amoWXor _ _ _ _ _ => .plain
  | .amoWMin _ _ _ _ _ => .plain
  | .amoWMax _ _ _ _ _ => .plain
  | .amoWMinu _ _ _ _ _ => .plain
  | .amoWMaxu _ _ _ _ _ => .plain
  | .amoWSwap _ _ _ _ _ => .plain
  | .amoWFadd _ _ _ _ _ => .plain
  | .amoWFmax _ _ _ _ _ => .plain
  | .amoWFmin _ _ _ _ _ => .plain
  | .amoWFamax _ _ _ _ _ => .plain
  | .cas _ _ _ _ _ => .plain
  | .casW _ _ _ _ _ => .plain
  | .fence _ _ _ => .plain
  | .waitm _ _ _ _ _ _ => .plain
  | .pause _ => .plain
  | .faddD _ _ _ _ => .plain
  | .fsubD _ _ _ _ => .plain
  | .fmulD _ _ _ _ => .plain
  | .fminD _ _ _ => .plain
  | .fmaxD _ _ _ => .plain
  | .fcmpeqD _ _ _ => .plain
  | .fcmpltD _ _ _ => .plain
  | .fcmpleD _ _ _ => .plain
  | .fsgnjD _ _ _ => .plain
  | .fsgnjnD _ _ _ => .plain
  | .fsgnjxD _ _ _ => .plain
  | .fclassD _ _ => .plain
  | .frcpD _ _ _ => .plain
  | .frsqD _ _ _ => .plain
  | .faddS _ _ _ _ => .plain
  | .fsubS _ _ _ _ => .plain
  | .fmulS _ _ _ _ => .plain
  | .fminS _ _ _ => .plain
  | .fmaxS _ _ _ => .plain
  | .fcmpeqS _ _ _ => .plain
  | .fcmpltS _ _ _ => .plain
  | .fcmpleS _ _ _ => .plain
  | .fsgnjS _ _ _ => .plain
  | .fsgnjnS _ _ _ => .plain
  | .fsgnjxS _ _ _ => .plain
  | .fclassS _ _ => .plain
  | .frcpS _ _ _ => .plain
  | .frsqS _ _ _ => .plain
  | .fmaD _ _ _ _ => .plain
  | .fmsD _ _ _ _ => .plain
  | .fnmaD _ _ _ _ => .plain
  | .fnmsD _ _ _ _ => .plain
  | .fmaS _ _ _ _ => .plain
  | .fmsS _ _ _ _ => .plain
  | .fnmaS _ _ _ _ => .plain
  | .fnmsS _ _ _ _ => .plain
  | .fcvt _ _ _ _ _ => .plain
  | .fmt _ _ _ _ _ _ _ => .smallOnly
  | .cbld _ _ _ => .smallOnly
  | .scset _ _ => .smallOnly
  | .scget _ _ => .smallOnly
  | .vadd _ _ _ _ _ => .smallOnly
  | .vsub _ _ _ _ _ => .smallOnly
  | .vmul _ _ _ _ _ => .smallOnly
  | .vmin _ _ _ _ _ => .smallOnly
  | .vmax _ _ _ _ _ => .smallOnly
  | .vand _ _ _ _ _ => .smallOnly
  | .vor _ _ _ _ _ => .smallOnly
  | .vxor _ _ _ _ _ => .smallOnly
  | .vandn _ _ _ _ _ => .smallOnly
  | .vshl _ _ _ _ _ => .smallOnly
  | .vshr _ _ _ _ _ => .smallOnly
  | .vsra _ _ _ _ _ => .smallOnly
  | .vabs _ _ _ _ => .smallOnly
  | .vneg _ _ _ _ => .smallOnly
  | .vsel _ _ _ _ _ => .smallOnly
  | .vmov _ _ _ _ => .smallOnly
  | .vmulh _ _ _ _ _ => .smallOnly
  | .vadds _ _ _ _ _ => .smallOnly
  | .vsubs _ _ _ _ _ => .smallOnly
  | .vfma _ _ _ _ _ _ => .smallOnly
  | .vfms _ _ _ _ _ _ => .smallOnly
  | .vfnma _ _ _ _ _ _ => .smallOnly
  | .vfnms _ _ _ _ _ _ => .smallOnly
  | .vcmp _ _ _ _ _ _ => .smallOnly
  | .vredadd _ _ _ _ => .smallOnly
  | .vredmin _ _ _ _ => .smallOnly
  | .vredmax _ _ _ _ => .smallOnly
  | .vredamax _ _ _ _ => .smallOnly
  | .vredor _ _ _ _ => .smallOnly
  | .vredand _ _ _ _ => .smallOnly
  | .vbcast _ _ _ => .smallOnly
  | .vins _ _ _ _ => .smallOnly
  | .vextr _ _ _ _ => .smallOnly
  | .vperm _ _ _ _ => .smallOnly
  | .vslideup _ _ _ _ => .smallOnly
  | .vslidedn _ _ _ _ => .smallOnly
  | .vzip _ _ _ _ => .smallOnly
  | .vunzip _ _ _ _ => .smallOnly
  | .viota _ _ => .smallOnly
  | .vcvt _ _ _ _ => .smallOnly
  | .vcvtLo _ _ _ _ => .smallOnly
  | .vcvtHi _ _ _ _ => .smallOnly
  | .vcvtNarrow _ _ _ _ _ => .smallOnly
  | .vpack _ _ _ => .needsPrefix
  | .vunpkLo _ _ => .needsPrefix
  | .vunpkHi _ _ => .needsPrefix
  | .vdeq _ _ _ => .needsPrefix
  | .vscale _ _ => .needsPrefix
  | .vqnt _ _ _ _ => .needsPrefix
  | .vrcp _ _ _ _ => .smallOnly
  | .vrsq _ _ _ _ => .smallOnly
  | .vexp2 _ _ _ _ => .smallOnly
  | .vlog2 _ _ _ _ => .smallOnly
  | .vld _ _ _ _ => .smallOnly
  | .vst _ _ _ _ => .smallOnly
  | .vlds _ _ _ _ _ => .smallOnly
  | .vsts _ _ _ _ _ => .smallOnly
  | .vgath _ _ _ _ _ => .smallOnly
  | .vscat _ _ _ _ _ => .smallOnly
  | .vldt _ _ _ _ => .smallOnly
  | .vstt _ _ _ _ => .smallOnly
  | .rep _ _ _ _ => .repeats
  | .tset _ _ _ => .smallOnly
  | .tstate _ _ _ => .smallOnly
  | .tdrain _ _ => .smallOnly
  | .tfree _ => .smallOnly
  | .twait _ => .smallOnly
  | .rget _ _ _ => .smallOnly
  | .rput _ _ _ => .smallOnly
  | .rcopy _ _ => .smallOnly
  | .rred _ _ => .smallOnly
  | .rgath _ _ _ => .smallOnly
  | .rscat _ _ _ => .smallOnly
  | .rmcast _ _ => .smallOnly
  | .rstat _ => .smallOnly
  | .rctx _ _ _ => .smallOnly
  | .lbld _ _ => .prefixed
  | .lswap => .smallOnly
  | .lmm _ _ _ _ => .prefixed
  | .lzero _ _ => .smallOnly
  | .ldrn _ _ => .prefixed
  | .lpri _ _ => .smallOnly
  | .lstat _ => .smallOnly
  | .lfence => .smallOnly
  | .start _ _ => .control
  | .hwait _ => .control
  | .endTask => .plain
  | .sleep _ _ => .plain
  | .selfId _ => .plain
  | .sendMsg _ _ _ => .plain
  | .senda _ _ => .plain
  | .forkT _ _ => .plain
  | .joinT _ _ => .plain
  | .doneB _ => .plain
  | .launchI _ _ => .plain
  | .tlwait _ _ _ _ => .plain
  | .tlsig _ _ _ => .plain
  | .migrate _ => .noBox
  | .gcall _ _ _ => .plain
  | .gret _ => .plain
  | .gpub _ _ => .plain
  | .grevoke _ _ => .plain
  | .grevokeKill _ _ _ => .plain
  | .ginfo _ _ _ => .plain
  | .domid _ _ => .plain
  | .kact _ _ => .plain
  | .kdeact _ _ => .plain
  | .scrub _ _ _ => .plain
  | .egset _ _ _ => .plain
  | .compose _ _ => .control
  | .decomp _ => .smallOnly
  | .timeI _ _ => .smallOnly
  | .dlread _ _ => .smallOnly
  | .pvalid _ _ => .smallOnly
  | .wrapdone => .smallOnly
  | .trapI _ => .plain
  | .breakI _ => .plain
  | .eret _ => .plain
  | .csrr _ n => .csr n
  | .csrw _ n => .csr n
  | .csrs _ n => .csr n
  | .csrc _ n => .csr n
  | .tlbinv _ _ => .plain
  | .tlbsync => .plain
  | .wfi => .smallOnly
  | .potw _ _ _ => .plain
  | .ctxsave _ _ _ => .plain
  | .ctxload _ _ _ => .plain
  | .fdivD _ _ _ => .noBox
  | .fsqrtD _ _ => .noBox
  | .fdivS _ _ _ => .noBox
  | .fsqrtS _ _ => .noBox
  | .mul128 _ _ _ => .noBox
  | .clmul _ _ _ => .noBox
  | .submissionDoorbell _ _ _ => .plain
  | .launchAdmission _ => .plain
  | .leafStart _ _ => .plain
  | .taskDispatch _ => .plain
  | .messageArrival _ => .plain
  | .barrierPhaseRelease _ _ => .plain
  | .launchEnd _ => .plain
  | .engineBeat _ _ => .plain
  | .engineCommandCompletion _ => .plain
  | .kStepBoundary _ => .plain
  | .lbldStart _ => .plain
  | .lbldCompletion _ => .plain
  | .ldrnCompletion _ => .plain
  | .ldrnStart _ => .plain
  | .lzeroStart _ => .plain
  | .lswapExchange _ => .plain
  | .lstatStart _ => .plain
  | .deadlineExpiry _ => .plain
  | .wrapUpBudgetOverrun _ => .plain
  | .gateBudgetOverrun _ _ => .plain
  | .cleanupBudgetOverrun _ => .plain
  | .gateWrapUpOverrun _ => .plain
  | .watchdogExpiry _ => .plain
  | .allasleepTrap _ => .plain
  | .sleepTimeLimit _ => .plain
  | .pauseExpiry _ => .plain
  | .handlerStart _ => .plain
  | .impreciseFaultStop _ => .plain
  | .taskSuspension _ => .plain
  | .colourCutClose _ => .plain
  | .flightSaveComplete _ => .plain
  | .flightRestoreComplete _ => .plain
  | .timeSliceStart _ => .plain
  | .timeSliceEnd _ => .plain
  | .awaitLoadTimeout _ => .plain
  | .sendForwardingExpiry _ => .plain
  | .invalidationAcknowledge _ => .plain
  | .atsInvalidationCompletion => .plain
  | .timelineWake _ _ _ => .plain
  | .remoteAtomic _ _ _ _ => .plain
  | .apertureAccess _ _ _ => .plain
  | .apertureAtomicop _ _ _ => .plain
  | .apertureDomainWrite _ _ => .plain
  | .partitionEnable _ => .plain
  | .partitionDisable _ => .plain
  | .moveOffer _ _ => .plain
  | .moveCancel => .plain
  | .removalAcknowledge _ => .plain
  | .scrubbingComplete => .plain
  | .registerWrite _ _ _ => .plain
  | .hotReset => .plain
  | .packageReset => .plain
  | .powerOnBoot _ => .plain
  | .firmwareUpdate _ _ => .plain
  | .thermalTrip => .plain
  | .throttleStep _ => .plain
  | .ptpSynchronisation _ _ _ => .plain
  | .holdover _ => .plain
  | .flitReceive _ _ _ => .plain
  | .negativeAcknowledge _ _ => .plain
  | .portRetrain _ _ => .plain
  | .attestationRequest _ _ => .plain
  | .ill _ => .never
  | .egressBucketRefill _ _ _ => .plain
  | .queueEnable _ _ => .plain
  | .debugAttach _ _ => .plain
  | .logCheckpointRequest _ => .plain
  | .remoteAccess _ _ _ => .plain

/-- The encoding-only checks of R76 (2), with the R76 (1) combinations that the fields of a row can still hold. -/
def Instr.wf : Instr → Bool
  | .illh _ => false
  | .mov16 _ _ => true
  | .add16 d s => pairs d s
  | .addi16 _ _ => true
  | .sub16 d s => pairs d s
  | .and16 d s => pairs d s
  | .or16 d s => pairs d s
  | .xor16 d s => pairs d s
  | .shli16 _ _ => true
  | .shri16 _ _ => true
  | .srai16 _ _ => true
  | .li16 _ _ => true
  | .ld16 _ _ => true
  | .st16 s _ => pairs s 29
  | .lds16 _ _ => true
  | .sts16 s _ => pairs s 30
  | .beqz _ _ => true
  | .bnez _ _ => true
  | .j _ => true
  | .jr16 _ => true
  | .end16 => true
  | .pause16 => true
  | .nop => true
  | .break16 _ => true
  | .add d a b => d.isDst && a.isSrc && b.isSrc && bankOk a b
  | .sub d a b => d.isDst && a.isSrc && b.isSrc && bankOk a b
  | .andI d a b => d.isDst && a.isSrc && b.isSrc && bankOk a b
  | .orI d a b => d.isDst && a.isSrc && b.isSrc && bankOk a b
  | .xorI d a b => d.isDst && a.isSrc && b.isSrc && bankOk a b
  | .andn d a b => d.isDst && a.isSrc && b.isSrc && bankOk a b
  | .shl d a b => d.isDst && a.isSrc && b.isSrc && bankOk a b
  | .shr d a b => d.isDst && a.isSrc && b.isSrc && bankOk a b
  | .sra d a b => d.isDst && a.isSrc && b.isSrc && bankOk a b
  | .rol d a b => d.isDst && a.isSrc && b.isSrc && bankOk a b
  | .ror d a b => d.isDst && a.isSrc && b.isSrc && bankOk a b
  | .slt d a b => d.isDst && a.isSrc && b.isSrc && bankOk a b
  | .sltu d a b => d.isDst && a.isSrc && b.isSrc && bankOk a b
  | .minI d a b => d.isDst && a.isSrc && b.isSrc && bankOk a b
  | .maxI d a b => d.isDst && a.isSrc && b.isSrc && bankOk a b
  | .minu d a b => d.isDst && a.isSrc && b.isSrc && bankOk a b
  | .maxu d a b => d.isDst && a.isSrc && b.isSrc && bankOk a b
  | .mul d a b => d.isDst && a.isSrc && b.isSrc && bankOk a b
  | .mulh d a b => d.isDst && a.isSrc && b.isSrc && bankOk a b
  | .mulhu d a b => d.isDst && a.isSrc && b.isSrc && bankOk a b
  | .divI d a b => d.isDst && a.isSrc && b.isSrc && bankOk a b
  | .divu d a b => d.isDst && a.isSrc && b.isSrc && bankOk a b
  | .remI d a b => d.isDst && a.isSrc && b.isSrc && bankOk a b
  | .remu d a b => d.isDst && a.isSrc && b.isSrc && bankOk a b
  | .sel d a b => d.isRmw && a.isSrc && b.isSrc && bankOk a b
  | .addW d a b => d.isDst && a.isSrc && b.isSrc && bankOk a b
  | .subW d a b => d.isDst && a.isSrc && b.isSrc && bankOk a b
  | .shlW d a b => d.isDst && a.isSrc && b.isSrc && bankOk a b
  | .shrW d a b => d.isDst && a.isSrc && b.isSrc && bankOk a b
  | .sraW d a b => d.isDst && a.isSrc && b.isSrc && bankOk a b
  | .mulW d a b => d.isDst && a.isSrc && b.isSrc && bankOk a b
  | .clz d a => d.isDst && a.isSrc
  | .ctz d a => d.isDst && a.isSrc
  | .popc d a => d.isDst && a.isSrc
  | .sextB d a => d.isDst && a.isSrc
  | .sextH d a => d.isDst && a.isSrc
  | .sextW d a => d.isDst && a.isSrc
  | .zextB d a => d.isDst && a.isSrc
  | .zextH d a => d.isDst && a.isSrc
  | .zextW d a => d.isDst && a.isSrc
  | .brev d a => d.isDst && a.isSrc
  | .bswap d a => d.isDst && a.isSrc
  | .bext d a _ _ => d.isDst && a.isSrc
  | .bins d a _ _ => d.isRmw && a.isSrc
  | .addi d a _ => d.isDst && a.isSrc
  | .andImm d a _ => d.isDst && a.isSrc
  | .orImm d a _ => d.isDst && a.isSrc
  | .xorImm d a _ => d.isDst && a.isSrc
  | .slti d a _ => d.isDst && a.isSrc
  | .sltiu d a _ => d.isDst && a.isSrc
  | .shli d a _ => d.isDst && a.isSrc
  | .shri d a _ => d.isDst && a.isSrc
  | .srai d a _ => d.isDst && a.isSrc
  | .rori d a _ => d.isDst && a.isSrc
  | .addiW d a _ => d.isDst && a.isSrc
  | .li d _ => d.isDst
  | .lis d _ => d.isRmw
  | .lpc d _ => d.isDst
  | .jmp _ => true
  | .call _ => true
  | .jr d a _ => d.isDst && a.isSrc
  | .bEq a b _ => a.isSrc && b.isSrc && bankOk a b
  | .bNe a b _ => a.isSrc && b.isSrc && bankOk a b
  | .bLt a b _ => a.isSrc && b.isSrc && bankOk a b
  | .bGe a b _ => a.isSrc && b.isSrc && bankOk a b
  | .bLtu a b _ => a.isSrc && b.isSrc && bankOk a b
  | .bGeu a b _ => a.isSrc && b.isSrc && bankOk a b
  | .bBs a b _ => a.isSrc && b.isSrc && bankOk a b
  | .bBc a b _ => a.isSrc && b.isSrc && bankOk a b
  | .ldB d b _ => d.isDst && b.isW
  | .ldH d b _ => d.isDst && b.isW
  | .ldW d b _ => d.isDst && b.isW
  | .ldD d b _ => d.isDst && b.isW
  | .ldBu d b _ => d.isDst && b.isW
  | .ldHu d b _ => d.isDst && b.isW
  | .ldWu d b _ => d.isDst && b.isW
  | .stB d b _ => d.isSrc && b.isW && bankOk d b
  | .stH d b _ => d.isSrc && b.isW && bankOk d b
  | .stW d b _ => d.isSrc && b.isW && bankOk d b
  | .stD d b _ => d.isSrc && b.isW && bankOk d b
  | .ldx d a b _ _ => d.isDst && a.isSrc && b.isSrc && bankOk a b
  | .ldxu d a b z _ => d.isDst && a.isSrc && b.isSrc && bankOk a b && z != 3
  | .stx d a b _ _ => d.isSrc && a.isSrc && b.isSrc && bankOk a b
  | .ldaq _ _ _ s => scopeOk s
  | .strl _ _ _ s => scopeOk s
  | .amoAdd _ a b _ s => pairs a b && scopeOk s
  | .amoAnd _ a b _ s => pairs a b && scopeOk s
  | .amoOr _ a b _ s => pairs a b && scopeOk s
  | .amoXor _ a b _ s => pairs a b && scopeOk s
  | .amoMin _ a b _ s => pairs a b && scopeOk s
  | .amoMax _ a b _ s => pairs a b && scopeOk s
  | .amoMinu _ a b _ s => pairs a b && scopeOk s
  | .amoMaxu _ a b _ s => pairs a b && scopeOk s
  | .amoSwap _ a b _ s => pairs a b && scopeOk s
  | .amoFadd _ a b _ s => pairs a b && scopeOk s
  | .amoFmax _ a b _ s => pairs a b && scopeOk s
  | .amoFmin _ a b _ s => pairs a b && scopeOk s
  | .amoFamax _ a b _ s => pairs a b && scopeOk s
  | .amoWAdd _ a b _ s => pairs a b && scopeOk s
  | .amoWAnd _ a b _ s => pairs a b && scopeOk s
  | .amoWOr _ a b _ s => pairs a b && scopeOk s
  | .amoWXor _ a b _ s => pairs a b && scopeOk s
  | .amoWMin _ a b _ s => pairs a b && scopeOk s
  | .amoWMax _ a b _ s => pairs a b && scopeOk s
  | .amoWMinu _ a b _ s => pairs a b && scopeOk s
  | .amoWMaxu _ a b _ s => pairs a b && scopeOk s
  | .amoWSwap _ a b _ s => pairs a b && scopeOk s
  | .amoWFadd _ a b _ s => pairs a b && scopeOk s
  | .amoWFmax _ a b _ s => pairs a b && scopeOk s
  | .amoWFmin _ a b _ s => pairs a b && scopeOk s
  | .amoWFamax _ a b _ s => pairs a b && scopeOk s
  | .cas _ a b _ s => pairs a b && scopeOk s
  | .casW _ a b _ s => pairs a b && scopeOk s
  | .fence _ k s => k != 3 && scopeOk s
  | .waitm _ a b c o s => pairs a b && c.ult 4 && o.ult 2 && scopeOk s
  | .pause _ => true
  | .faddD d a b _ => d.isDst && a.isSrc && b.isSrc && bankOk a b
  | .fsubD d a b _ => d.isDst && a.isSrc && b.isSrc && bankOk a b
  | .fmulD d a b _ => d.isDst && a.isSrc && b.isSrc && bankOk a b
  | .fminD d a b => d.isDst && a.isSrc && b.isSrc && bankOk a b
  | .fmaxD d a b => d.isDst && a.isSrc && b.isSrc && bankOk a b
  | .fcmpeqD d a b => d.isDst && a.isSrc && b.isSrc && bankOk a b
  | .fcmpltD d a b => d.isDst && a.isSrc && b.isSrc && bankOk a b
  | .fcmpleD d a b => d.isDst && a.isSrc && b.isSrc && bankOk a b
  | .fsgnjD d a b => d.isDst && a.isSrc && b.isSrc && bankOk a b
  | .fsgnjnD d a b => d.isDst && a.isSrc && b.isSrc && bankOk a b
  | .fsgnjxD d a b => d.isDst && a.isSrc && b.isSrc && bankOk a b
  | .fclassD d a => d.isDst && a.isSrc
  | .frcpD d a _ => d.isDst && a.isSrc
  | .frsqD d a _ => d.isDst && a.isSrc
  | .faddS d a b _ => d.isDst && a.isSrc && b.isSrc && bankOk a b
  | .fsubS d a b _ => d.isDst && a.isSrc && b.isSrc && bankOk a b
  | .fmulS d a b _ => d.isDst && a.isSrc && b.isSrc && bankOk a b
  | .fminS d a b => d.isDst && a.isSrc && b.isSrc && bankOk a b
  | .fmaxS d a b => d.isDst && a.isSrc && b.isSrc && bankOk a b
  | .fcmpeqS d a b => d.isDst && a.isSrc && b.isSrc && bankOk a b
  | .fcmpltS d a b => d.isDst && a.isSrc && b.isSrc && bankOk a b
  | .fcmpleS d a b => d.isDst && a.isSrc && b.isSrc && bankOk a b
  | .fsgnjS d a b => d.isDst && a.isSrc && b.isSrc && bankOk a b
  | .fsgnjnS d a b => d.isDst && a.isSrc && b.isSrc && bankOk a b
  | .fsgnjxS d a b => d.isDst && a.isSrc && b.isSrc && bankOk a b
  | .fclassS d a => d.isDst && a.isSrc
  | .frcpS d a _ => d.isDst && a.isSrc
  | .frsqS d a _ => d.isDst && a.isSrc
  | .fmaD d a b _ => d.isRmw && a.isSrc && b.isSrc && bankOk a b
  | .fmsD d a b _ => d.isRmw && a.isSrc && b.isSrc && bankOk a b
  | .fnmaD d a b _ => d.isRmw && a.isSrc && b.isSrc && bankOk a b
  | .fnmsD d a b _ => d.isRmw && a.isSrc && b.isSrc && bankOk a b
  | .fmaS d a b _ => d.isRmw && a.isSrc && b.isSrc && bankOk a b
  | .fmsS d a b _ => d.isRmw && a.isSrc && b.isSrc && bankOk a b
  | .fnmaS d a b _ => d.isRmw && a.isSrc && b.isSrc && bankOk a b
  | .fnmsS d a b _ => d.isRmw && a.isSrc && b.isSrc && bankOk a b
  | .fcvt d a _ f t => d.isDst && a.isSrc && f != t && !(f.isInt && t.isInt)
  | .fmt a b c r _ _ _ => a != 15 && b != 15 && c != 15 && r != 6
  | .cbld _ b _ => b.isW
  | .scset n a => n != 0 && a.isSrc
  | .scget d n => d.isDst && n != 0
  | .vadd _ _ _ _ _ => true
  | .vsub _ _ _ _ _ => true
  | .vmul _ _ _ _ _ => true
  | .vmin _ _ _ _ _ => true
  | .vmax _ _ _ _ _ => true
  | .vand _ _ _ _ _ => true
  | .vor _ _ _ _ _ => true
  | .vxor _ _ _ _ _ => true
  | .vandn _ _ _ _ _ => true
  | .vshl _ _ _ _ s => s.isInt
  | .vshr _ _ _ _ s => s.isInt
  | .vsra _ _ _ _ s => s.isInt
  | .vabs _ _ _ _ => true
  | .vneg _ _ _ _ => true
  | .vsel _ _ _ _ _ => true
  | .vmov _ _ _ _ => true
  | .vmulh _ _ _ _ s => s.isInt
  | .vadds _ _ _ _ s => s.isInt
  | .vsubs _ _ _ _ s => s.isInt
  | .vfma _ _ _ _ s r => (!s.isInt || r == .dyn)
  | .vfms _ _ _ _ s r => (!s.isInt || r == .dyn)
  | .vfnma _ _ _ _ s r => (!s.isInt || r == .dyn)
  | .vfnms _ _ _ _ s r => (!s.isInt || r == .dyn)
  | .vcmp _ _ _ _ s c => c.ult 11 && (!((5 : BitVec 6).ult c && c.ult 10) || s.isInt) && (c != 10 || !s.isInt)
  | .vredadd _ _ _ _ => true
  | .vredmin _ _ _ _ => true
  | .vredmax _ _ _ _ => true
  | .vredamax _ _ _ _ => true
  | .vredor _ _ _ s => s.isInt
  | .vredand _ _ _ s => s.isInt
  | .vbcast _ s _ => s.isVSrc
  | .vins _ s i _ => s.isVSrc && i.isVSrc && bankOk s i
  | .vextr _ s i _ => s.isVDst && i.isVSrc
  | .vperm _ _ _ _ => true
  | .vslideup _ _ _ _ => true
  | .vslidedn _ _ _ _ => true
  | .vzip _ _ _ _ => true
  | .vunzip _ _ _ _ => true
  | .viota _ _ => true
  | .vcvt _ _ u t => u.width == t.width && u != t
  | .vcvtLo _ _ u t => t.width == 2 * u.width
  | .vcvtHi _ _ u t => t.width == 2 * u.width
  | .vcvtNarrow _ _ _ u t => u.width == 2 * t.width
  | .vpack _ _ p => p.ult 2
  | .vunpkLo _ _ => true
  | .vunpkHi _ _ => true
  | .vdeq _ _ _ => true
  | .vscale _ _ => true
  | .vqnt _ _ _ _ => true
  | .vrcp _ _ _ s => !s.isInt
  | .vrsq _ _ _ s => !s.isInt
  | .vexp2 _ _ _ s => !s.isInt
  | .vlog2 _ _ _ s => !s.isInt
  | .vld _ s _ _ => s.isW
  | .vst _ s _ _ => s.isW
  | .vlds _ s i _ _ => s.isW && i.isVSrc && bankOk s i
  | .vsts _ s i _ _ => s.isW && i.isVSrc && bankOk s i
  | .vgath _ s _ _ _ => s.isW
  | .vscat _ s _ _ _ => s.isW
  | .vldt _ _ _ _ => true
  | .vstt _ _ _ _ => true
  | .rep _ c _ _ => c.isVSrc && !c.isNegImm
  | .tset _ a b => a.isSrc && b.isSrc && bankOk a b
  | .tstate d _ _ => d.isDst
  | .tdrain d _ => d.isDst
  | .tfree _ => true
  | .twait _ => true
  | .rget _ a b => a.isSrc && b.isSrc && bankOk a b
  | .rput _ a b => a.isSrc && b.isSrc && bankOk a b
  | .rcopy d a => d.isDst && a.isSrc
  | .rred d a => d.isDst && a.isSrc
  | .rgath _ a b => a.isSrc && b.isSrc && bankOk a b
  | .rscat _ a b => a.isSrc && b.isSrc && bankOk a b
  | .rmcast d a => d.isDst && a.isSrc
  | .rstat d => d.isDst
  | .rctx d a b => d.isDst && a.isSrc && b.isSrc && bankOk a b
  | .lbld _ _ => true
  | .lswap => true
  | .lmm _ _ _ _ => true
  | .lzero _ _ => true
  | .ldrn _ _ => true
  | .lpri _ w => w != 0
  | .lstat d => d.isVDst
  | .lfence => true
  | .start _ _ => true
  | .hwait _ => true
  | .endTask => true
  | .sleep _ _ => true
  | .selfId _ => true
  | .sendMsg _ a b => pairs a b
  | .senda a b => pairs a b
  | .forkT a b => pairs a b
  | .joinT a b => pairs a b
  | .doneB _ => true
  | .launchI _ _ => true
  | .tlwait _ a b s => pairs a b && scopeOk s
  | .tlsig a b s => pairs a b && scopeOk s
  | .migrate _ => true
  | .gcall _ a b => pairs a b
  | .gret _ => true
  | .gpub _ _ => true
  | .grevoke _ _ => true
  | .grevokeKill _ a b => pairs a b && b != 0
  | .ginfo _ a b => pairs a b
  | .domid _ _ => true
  | .kact _ _ => true
  | .kdeact _ _ => true
  | .scrub _ a b => pairs a b
  | .egset _ a b => pairs a b
  | .compose _ _ => true
  | .decomp _ => true
  | .timeI _ _ => true
  | .dlread _ _ => true
  | .pvalid a b => pairs a b
  | .wrapdone => true
  | .trapI _ => true
  | .breakI _ => true
  | .eret a => a.isSrc
  | .csrr d n => d.isDst && n.ult 0x13
  | .csrw s n => s.isSrc && n.ult 0x13
  | .csrs s n => s.isSrc && n.ult 0x13
  | .csrc s n => s.isSrc && n.ult 0x13
  | .tlbinv a b => a.isSrc && b.isSrc && bankOk a b
  | .tlbsync => true
  | .wfi => true
  | .potw d a b => d.isDst && a.isSrc && b.isSrc && bankOk a b
  | .ctxsave d a b => d.isDst && a.isSrc && b.isSrc && bankOk a b
  | .ctxload d a b => d.isDst && a.isSrc && b.isSrc && bankOk a b
  | .fdivD d a b => d.isDst && a.isSrc && b.isSrc && bankOk a b
  | .fsqrtD d a => d.isDst && a.isSrc
  | .fdivS d a b => d.isDst && a.isSrc && b.isSrc && bankOk a b
  | .fsqrtS d a => d.isDst && a.isSrc
  | .mul128 d a b => d.isDst && a.isSrc && b.isSrc && bankOk a b
  | .clmul d a b => d.isDst && a.isSrc && b.isSrc && bankOk a b
  | .submissionDoorbell _ _ _ => true
  | .launchAdmission _ => true
  | .leafStart _ _ => true
  | .taskDispatch _ => true
  | .messageArrival _ => true
  | .barrierPhaseRelease _ _ => true
  | .launchEnd _ => true
  | .engineBeat _ _ => true
  | .engineCommandCompletion _ => true
  | .kStepBoundary _ => true
  | .lbldStart _ => true
  | .lbldCompletion _ => true
  | .ldrnCompletion _ => true
  | .ldrnStart _ => true
  | .lzeroStart _ => true
  | .lswapExchange _ => true
  | .lstatStart _ => true
  | .deadlineExpiry _ => true
  | .wrapUpBudgetOverrun _ => true
  | .gateBudgetOverrun _ _ => true
  | .cleanupBudgetOverrun _ => true
  | .gateWrapUpOverrun _ => true
  | .watchdogExpiry _ => true
  | .allasleepTrap _ => true
  | .sleepTimeLimit _ => true
  | .pauseExpiry _ => true
  | .handlerStart _ => true
  | .impreciseFaultStop _ => true
  | .taskSuspension _ => true
  | .colourCutClose _ => true
  | .flightSaveComplete _ => true
  | .flightRestoreComplete _ => true
  | .timeSliceStart _ => true
  | .timeSliceEnd _ => true
  | .awaitLoadTimeout _ => true
  | .sendForwardingExpiry _ => true
  | .invalidationAcknowledge _ => true
  | .atsInvalidationCompletion => true
  | .timelineWake _ _ _ => true
  | .remoteAtomic _ _ _ _ => true
  | .apertureAccess _ _ _ => true
  | .apertureAtomicop _ _ _ => true
  | .apertureDomainWrite _ _ => true
  | .partitionEnable _ => true
  | .partitionDisable _ => true
  | .moveOffer _ _ => true
  | .moveCancel => true
  | .removalAcknowledge _ => true
  | .scrubbingComplete => true
  | .registerWrite _ _ _ => true
  | .hotReset => true
  | .packageReset => true
  | .powerOnBoot _ => true
  | .firmwareUpdate _ _ => true
  | .thermalTrip => true
  | .throttleStep _ => true
  | .ptpSynchronisation _ _ _ => true
  | .holdover _ => true
  | .flitReceive _ _ _ => true
  | .negativeAcknowledge _ _ => true
  | .portRetrain _ _ => true
  | .attestationRequest _ _ => true
  | .ill _ => false
  | .egressBucketRefill _ _ _ => true
  | .queueEnable _ _ => true
  | .debugAttach _ _ => true
  | .logCheckpointRequest _ => true
  | .remoteAccess _ _ _ => true

/-- The supervisor instructions: PRIV with psw.S = 0 (R203, R388, R460). CSR access is checked by register (R55). -/
def Instr.needsS : Instr → Bool
  | .illh _ => false
  | .mov16 _ _ => false
  | .add16 _ _ => false
  | .addi16 _ _ => false
  | .sub16 _ _ => false
  | .and16 _ _ => false
  | .or16 _ _ => false
  | .xor16 _ _ => false
  | .shli16 _ _ => false
  | .shri16 _ _ => false
  | .srai16 _ _ => false
  | .li16 _ _ => false
  | .ld16 _ _ => false
  | .st16 _ _ => false
  | .lds16 _ _ => false
  | .sts16 _ _ => false
  | .beqz _ _ => false
  | .bnez _ _ => false
  | .j _ => false
  | .jr16 _ => false
  | .end16 => false
  | .pause16 => false
  | .nop => false
  | .break16 _ => false
  | .add _ _ _ => false
  | .sub _ _ _ => false
  | .andI _ _ _ => false
  | .orI _ _ _ => false
  | .xorI _ _ _ => false
  | .andn _ _ _ => false
  | .shl _ _ _ => false
  | .shr _ _ _ => false
  | .sra _ _ _ => false
  | .rol _ _ _ => false
  | .ror _ _ _ => false
  | .slt _ _ _ => false
  | .sltu _ _ _ => false
  | .minI _ _ _ => false
  | .maxI _ _ _ => false
  | .minu _ _ _ => false
  | .maxu _ _ _ => false
  | .mul _ _ _ => false
  | .mulh _ _ _ => false
  | .mulhu _ _ _ => false
  | .divI _ _ _ => false
  | .divu _ _ _ => false
  | .remI _ _ _ => false
  | .remu _ _ _ => false
  | .sel _ _ _ => false
  | .addW _ _ _ => false
  | .subW _ _ _ => false
  | .shlW _ _ _ => false
  | .shrW _ _ _ => false
  | .sraW _ _ _ => false
  | .mulW _ _ _ => false
  | .clz _ _ => false
  | .ctz _ _ => false
  | .popc _ _ => false
  | .sextB _ _ => false
  | .sextH _ _ => false
  | .sextW _ _ => false
  | .zextB _ _ => false
  | .zextH _ _ => false
  | .zextW _ _ => false
  | .brev _ _ => false
  | .bswap _ _ => false
  | .bext _ _ _ _ => false
  | .bins _ _ _ _ => false
  | .addi _ _ _ => false
  | .andImm _ _ _ => false
  | .orImm _ _ _ => false
  | .xorImm _ _ _ => false
  | .slti _ _ _ => false
  | .sltiu _ _ _ => false
  | .shli _ _ _ => false
  | .shri _ _ _ => false
  | .srai _ _ _ => false
  | .rori _ _ _ => false
  | .addiW _ _ _ => false
  | .li _ _ => false
  | .lis _ _ => false
  | .lpc _ _ => false
  | .jmp _ => false
  | .call _ => false
  | .jr _ _ _ => false
  | .bEq _ _ _ => false
  | .bNe _ _ _ => false
  | .bLt _ _ _ => false
  | .bGe _ _ _ => false
  | .bLtu _ _ _ => false
  | .bGeu _ _ _ => false
  | .bBs _ _ _ => false
  | .bBc _ _ _ => false
  | .ldB _ _ _ => false
  | .ldH _ _ _ => false
  | .ldW _ _ _ => false
  | .ldD _ _ _ => false
  | .ldBu _ _ _ => false
  | .ldHu _ _ _ => false
  | .ldWu _ _ _ => false
  | .stB _ _ _ => false
  | .stH _ _ _ => false
  | .stW _ _ _ => false
  | .stD _ _ _ => false
  | .ldx _ _ _ _ _ => false
  | .ldxu _ _ _ _ _ => false
  | .stx _ _ _ _ _ => false
  | .ldaq _ _ _ _ => false
  | .strl _ _ _ _ => false
  | .amoAdd _ _ _ _ _ => false
  | .amoAnd _ _ _ _ _ => false
  | .amoOr _ _ _ _ _ => false
  | .amoXor _ _ _ _ _ => false
  | .amoMin _ _ _ _ _ => false
  | .amoMax _ _ _ _ _ => false
  | .amoMinu _ _ _ _ _ => false
  | .amoMaxu _ _ _ _ _ => false
  | .amoSwap _ _ _ _ _ => false
  | .amoFadd _ _ _ _ _ => false
  | .amoFmax _ _ _ _ _ => false
  | .amoFmin _ _ _ _ _ => false
  | .amoFamax _ _ _ _ _ => false
  | .amoWAdd _ _ _ _ _ => false
  | .amoWAnd _ _ _ _ _ => false
  | .amoWOr _ _ _ _ _ => false
  | .amoWXor _ _ _ _ _ => false
  | .amoWMin _ _ _ _ _ => false
  | .amoWMax _ _ _ _ _ => false
  | .amoWMinu _ _ _ _ _ => false
  | .amoWMaxu _ _ _ _ _ => false
  | .amoWSwap _ _ _ _ _ => false
  | .amoWFadd _ _ _ _ _ => false
  | .amoWFmax _ _ _ _ _ => false
  | .amoWFmin _ _ _ _ _ => false
  | .amoWFamax _ _ _ _ _ => false
  | .cas _ _ _ _ _ => false
  | .casW _ _ _ _ _ => false
  | .fence _ _ _ => false
  | .waitm _ _ _ _ _ _ => false
  | .pause _ => false
  | .faddD _ _ _ _ => false
  | .fsubD _ _ _ _ => false
  | .fmulD _ _ _ _ => false
  | .fminD _ _ _ => false
  | .fmaxD _ _ _ => false
  | .fcmpeqD _ _ _ => false
  | .fcmpltD _ _ _ => false
  | .fcmpleD _ _ _ => false
  | .fsgnjD _ _ _ => false
  | .fsgnjnD _ _ _ => false
  | .fsgnjxD _ _ _ => false
  | .fclassD _ _ => false
  | .frcpD _ _ _ => false
  | .frsqD _ _ _ => false
  | .faddS _ _ _ _ => false
  | .fsubS _ _ _ _ => false
  | .fmulS _ _ _ _ => false
  | .fminS _ _ _ => false
  | .fmaxS _ _ _ => false
  | .fcmpeqS _ _ _ => false
  | .fcmpltS _ _ _ => false
  | .fcmpleS _ _ _ => false
  | .fsgnjS _ _ _ => false
  | .fsgnjnS _ _ _ => false
  | .fsgnjxS _ _ _ => false
  | .fclassS _ _ => false
  | .frcpS _ _ _ => false
  | .frsqS _ _ _ => false
  | .fmaD _ _ _ _ => false
  | .fmsD _ _ _ _ => false
  | .fnmaD _ _ _ _ => false
  | .fnmsD _ _ _ _ => false
  | .fmaS _ _ _ _ => false
  | .fmsS _ _ _ _ => false
  | .fnmaS _ _ _ _ => false
  | .fnmsS _ _ _ _ => false
  | .fcvt _ _ _ _ _ => false
  | .fmt _ _ _ _ _ _ _ => false
  | .cbld _ _ _ => false
  | .scset _ _ => false
  | .scget _ _ => false
  | .vadd _ _ _ _ _ => false
  | .vsub _ _ _ _ _ => false
  | .vmul _ _ _ _ _ => false
  | .vmin _ _ _ _ _ => false
  | .vmax _ _ _ _ _ => false
  | .vand _ _ _ _ _ => false
  | .vor _ _ _ _ _ => false
  | .vxor _ _ _ _ _ => false
  | .vandn _ _ _ _ _ => false
  | .vshl _ _ _ _ _ => false
  | .vshr _ _ _ _ _ => false
  | .vsra _ _ _ _ _ => false
  | .vabs _ _ _ _ => false
  | .vneg _ _ _ _ => false
  | .vsel _ _ _ _ _ => false
  | .vmov _ _ _ _ => false
  | .vmulh _ _ _ _ _ => false
  | .vadds _ _ _ _ _ => false
  | .vsubs _ _ _ _ _ => false
  | .vfma _ _ _ _ _ _ => false
  | .vfms _ _ _ _ _ _ => false
  | .vfnma _ _ _ _ _ _ => false
  | .vfnms _ _ _ _ _ _ => false
  | .vcmp _ _ _ _ _ _ => false
  | .vredadd _ _ _ _ => false
  | .vredmin _ _ _ _ => false
  | .vredmax _ _ _ _ => false
  | .vredamax _ _ _ _ => false
  | .vredor _ _ _ _ => false
  | .vredand _ _ _ _ => false
  | .vbcast _ _ _ => false
  | .vins _ _ _ _ => false
  | .vextr _ _ _ _ => false
  | .vperm _ _ _ _ => false
  | .vslideup _ _ _ _ => false
  | .vslidedn _ _ _ _ => false
  | .vzip _ _ _ _ => false
  | .vunzip _ _ _ _ => false
  | .viota _ _ => false
  | .vcvt _ _ _ _ => false
  | .vcvtLo _ _ _ _ => false
  | .vcvtHi _ _ _ _ => false
  | .vcvtNarrow _ _ _ _ _ => false
  | .vpack _ _ _ => false
  | .vunpkLo _ _ => false
  | .vunpkHi _ _ => false
  | .vdeq _ _ _ => false
  | .vscale _ _ => false
  | .vqnt _ _ _ _ => false
  | .vrcp _ _ _ _ => false
  | .vrsq _ _ _ _ => false
  | .vexp2 _ _ _ _ => false
  | .vlog2 _ _ _ _ => false
  | .vld _ _ _ _ => false
  | .vst _ _ _ _ => false
  | .vlds _ _ _ _ _ => false
  | .vsts _ _ _ _ _ => false
  | .vgath _ _ _ _ _ => false
  | .vscat _ _ _ _ _ => false
  | .vldt _ _ _ _ => false
  | .vstt _ _ _ _ => false
  | .rep _ _ _ _ => false
  | .tset _ _ _ => false
  | .tstate _ _ _ => false
  | .tdrain _ _ => false
  | .tfree _ => false
  | .twait _ => false
  | .rget _ _ _ => false
  | .rput _ _ _ => false
  | .rcopy _ _ => false
  | .rred _ _ => false
  | .rgath _ _ _ => false
  | .rscat _ _ _ => false
  | .rmcast _ _ => false
  | .rstat _ => false
  | .rctx _ _ _ => true
  | .lbld _ _ => false
  | .lswap => false
  | .lmm _ _ _ _ => false
  | .lzero _ _ => false
  | .ldrn _ _ => false
  | .lpri _ _ => false
  | .lstat _ => false
  | .lfence => false
  | .start _ _ => false
  | .hwait _ => false
  | .endTask => false
  | .sleep _ _ => false
  | .selfId _ => false
  | .sendMsg _ _ _ => false
  | .senda _ _ => false
  | .forkT _ _ => false
  | .joinT _ _ => false
  | .doneB _ => false
  | .launchI _ _ => false
  | .tlwait _ _ _ _ => false
  | .tlsig _ _ _ => false
  | .migrate _ => false
  | .gcall _ _ _ => false
  | .gret _ => false
  | .gpub _ _ => false
  | .grevoke _ _ => true
  | .grevokeKill _ _ _ => true
  | .ginfo _ _ _ => false
  | .domid _ _ => false
  | .kact _ _ => true
  | .kdeact _ _ => true
  | .scrub _ _ _ => true
  | .egset _ _ _ => true
  | .compose _ _ => false
  | .decomp _ => false
  | .timeI _ _ => false
  | .dlread _ _ => false
  | .pvalid _ _ => false
  | .wrapdone => false
  | .trapI _ => false
  | .breakI _ => false
  | .eret _ => true
  | .csrr _ _ => false
  | .csrw _ _ => false
  | .csrs _ _ => false
  | .csrc _ _ => false
  | .tlbinv _ _ => true
  | .tlbsync => true
  | .wfi => true
  | .potw _ _ _ => true
  | .ctxsave _ _ _ => true
  | .ctxload _ _ _ => true
  | .fdivD _ _ _ => false
  | .fsqrtD _ _ => false
  | .fdivS _ _ _ => false
  | .fsqrtS _ _ => false
  | .mul128 _ _ _ => false
  | .clmul _ _ _ => false
  | .submissionDoorbell _ _ _ => false
  | .launchAdmission _ => false
  | .leafStart _ _ => false
  | .taskDispatch _ => false
  | .messageArrival _ => false
  | .barrierPhaseRelease _ _ => false
  | .launchEnd _ => false
  | .engineBeat _ _ => false
  | .engineCommandCompletion _ => false
  | .kStepBoundary _ => false
  | .lbldStart _ => false
  | .lbldCompletion _ => false
  | .ldrnCompletion _ => false
  | .ldrnStart _ => false
  | .lzeroStart _ => false
  | .lswapExchange _ => false
  | .lstatStart _ => false
  | .deadlineExpiry _ => false
  | .wrapUpBudgetOverrun _ => false
  | .gateBudgetOverrun _ _ => false
  | .cleanupBudgetOverrun _ => false
  | .gateWrapUpOverrun _ => false
  | .watchdogExpiry _ => false
  | .allasleepTrap _ => false
  | .sleepTimeLimit _ => false
  | .pauseExpiry _ => false
  | .handlerStart _ => false
  | .impreciseFaultStop _ => false
  | .taskSuspension _ => false
  | .colourCutClose _ => false
  | .flightSaveComplete _ => false
  | .flightRestoreComplete _ => false
  | .timeSliceStart _ => false
  | .timeSliceEnd _ => false
  | .awaitLoadTimeout _ => false
  | .sendForwardingExpiry _ => false
  | .invalidationAcknowledge _ => false
  | .atsInvalidationCompletion => false
  | .timelineWake _ _ _ => false
  | .remoteAtomic _ _ _ _ => false
  | .apertureAccess _ _ _ => false
  | .apertureAtomicop _ _ _ => false
  | .apertureDomainWrite _ _ => false
  | .partitionEnable _ => false
  | .partitionDisable _ => false
  | .moveOffer _ _ => false
  | .moveCancel => false
  | .removalAcknowledge _ => false
  | .scrubbingComplete => false
  | .registerWrite _ _ _ => false
  | .hotReset => false
  | .packageReset => false
  | .powerOnBoot _ => false
  | .firmwareUpdate _ _ => false
  | .thermalTrip => false
  | .throttleStep _ => false
  | .ptpSynchronisation _ _ _ => false
  | .holdover _ => false
  | .flitReceive _ _ _ => false
  | .negativeAcknowledge _ _ => false
  | .portRetrain _ _ => false
  | .attestationRequest _ _ => false
  | .ill _ => false
  | .egressBucketRefill _ _ _ => false
  | .queueEnable _ _ => false
  | .debugAttach _ _ => false
  | .logCheckpointRequest _ => false
  | .remoteAccess _ _ _ => false

end Sys2Proof
end

