-- ==== Sys2Proof/Decode.lean ====
section
/-!
DEFINITION. The decoder: from the bits of an instruction to a constructor of `Instr`, total on any bits, and
the encoder beside it. Numbering as in R60: bits 15:0 of a word are the first halfword. Fields are read as
natural numbers by division and remainder. What the decoder answers:

* `ok i`: the bits are the words of i; i may still be ill formed (a specifier forbidden in its position, the bank
  rule: `Instr.wf`), which the machine reports as ENC; an unassigned major opcode or sub-function gives `ill`,
  which is always UND (R73, R74);
* `enc g`: a field that must be zero or a fixed code is not (R69): ENC, after the UND checks of the group g (R76).

The section is marked noncomputable because Lean's compiler makes no code for a constructor that stands beyond
the 244th of its inductive; the kernel evaluates every definition here.
-/
noncomputable section
namespace Sys2Proof

/-- What the decoder answers. -/
inductive Decoded where
  | ok (i : Instr)
  | enc (g : Grp)
  deriving DecidableEq, Repr

/-- Bits lo+n-1 .. lo of w. -/
def field (w lo n : Nat) : Nat := w / 2 ^ lo % 2 ^ n

/-- An undecodable word (R73, R74). -/
def und (w : Nat) : Decoded := .ok (.ill (.ofNat 32 w))

/-- The specifier of a 6-bit code (R66). -/
def opnd (c : Nat) : Opnd :=
  if c < 32 then .w (.ofNat 5 c)
  else if c < 40 then .o (.ofNat 3 (c - 32))
  else if c < 44 then .l (.ofNat 2 (c - 40))
  else if c < 48 then .q (.ofNat 2 (c - 44))
  else .imm (.ofNat 4 (c - 48))

/-- The 6-bit code of a specifier (R66). -/
def Opnd.code : Opnd → BitVec 6
  | .w n => 0#1 ++ n
  | .o n => 0b100#3 ++ n
  | .l n => 0b1010#4 ++ n
  | .q n => 0b1011#4 ++ n
  | .imm i => 0b11#2 ++ i

/-- The element type of an sz code (R70). -/
def sz : Nat → Sz
  | 0 => .int8
  | 1 => .int16
  | 2 => .int32
  | 3 => .int64
  | 4 => .bf16
  | 5 => .fp16
  | 6 => .fp32
  | _ => .fp64

/-- The sz code of an element type (R70). -/
def Sz.code : Sz → BitVec 3
  | .int8 => 0
  | .int16 => 1
  | .int32 => 2
  | .int64 => 3
  | .bf16 => 4
  | .fp16 => 5
  | .fp32 => 6
  | .fp64 => 7

/-- The rounding select of a code (R70). -/
def rsel : Nat → RSel
  | 0 => .dyn
  | 1 => .rne
  | 2 => .rtz
  | _ => .sr

/-- The code of a rounding select (R70). -/
def RSel.code : RSel → BitVec 2
  | .dyn => 0
  | .rne => 1
  | .rtz => 2
  | .sr => 3

/-- The FCVT format of a code (R158). -/
def cvt : Nat → Cvt
  | 0 => .i64
  | 1 => .u64
  | 2 => .i32
  | 3 => .u32
  | 4 => .f64
  | 5 => .f32
  | 6 => .bf16
  | _ => .f16

/-- The code of an FCVT format (R158). -/
def Cvt.code : Cvt → BitVec 3
  | .i64 => 0
  | .u64 => 1
  | .i32 => 2
  | .u32 => 3
  | .f64 => 4
  | .f32 => 5
  | .bf16 => 6
  | .f16 => 7

/-- IALU, f6 (R73). -/
def decIalu (w : Nat) : Decoded :=
  let d := field w 26 6
  let a := field w 20 6
  let b := field w 14 6
  let f := field w 8 6
  match f with
  | 0 => .ok (.add (opnd d) (opnd a) (opnd b))
  | 1 => .ok (.sub (opnd d) (opnd a) (opnd b))
  | 2 => .ok (.andI (opnd d) (opnd a) (opnd b))
  | 3 => .ok (.orI (opnd d) (opnd a) (opnd b))
  | 4 => .ok (.xorI (opnd d) (opnd a) (opnd b))
  | 5 => .ok (.andn (opnd d) (opnd a) (opnd b))
  | 6 => .ok (.shl (opnd d) (opnd a) (opnd b))
  | 7 => .ok (.shr (opnd d) (opnd a) (opnd b))
  | 8 => .ok (.sra (opnd d) (opnd a) (opnd b))
  | 9 => .ok (.rol (opnd d) (opnd a) (opnd b))
  | 10 => .ok (.ror (opnd d) (opnd a) (opnd b))
  | 11 => .ok (.slt (opnd d) (opnd a) (opnd b))
  | 12 => .ok (.sltu (opnd d) (opnd a) (opnd b))
  | 13 => .ok (.minI (opnd d) (opnd a) (opnd b))
  | 14 => .ok (.maxI (opnd d) (opnd a) (opnd b))
  | 15 => .ok (.minu (opnd d) (opnd a) (opnd b))
  | 16 => .ok (.maxu (opnd d) (opnd a) (opnd b))
  | 17 => .ok (.mul (opnd d) (opnd a) (opnd b))
  | 18 => .ok (.mulh (opnd d) (opnd a) (opnd b))
  | 19 => .ok (.mulhu (opnd d) (opnd a) (opnd b))
  | 20 => .ok (.divI (opnd d) (opnd a) (opnd b))
  | 21 => .ok (.divu (opnd d) (opnd a) (opnd b))
  | 22 => .ok (.remI (opnd d) (opnd a) (opnd b))
  | 23 => .ok (.remu (opnd d) (opnd a) (opnd b))
  | 24 => .ok (.sel (opnd d) (opnd a) (opnd b))
  | 25 => .ok (.addW (opnd d) (opnd a) (opnd b))
  | 26 => .ok (.subW (opnd d) (opnd a) (opnd b))
  | 27 => .ok (.shlW (opnd d) (opnd a) (opnd b))
  | 28 => .ok (.shrW (opnd d) (opnd a) (opnd b))
  | 29 => .ok (.sraW (opnd d) (opnd a) (opnd b))
  | 30 => .ok (.mulW (opnd d) (opnd a) (opnd b))
  | _ => und w

/-- IUNARY, f6 (R73). -/
def decIunary (w : Nat) : Decoded :=
  let d := field w 26 6
  let a := field w 20 6
  let b := field w 14 6
  let f := field w 8 6
  match f with
  | 0 => if b == 0 then .ok (.clz (opnd d) (opnd a)) else .enc .plain
  | 1 => if b == 0 then .ok (.ctz (opnd d) (opnd a)) else .enc .plain
  | 2 => if b == 0 then .ok (.popc (opnd d) (opnd a)) else .enc .plain
  | 3 => if b == 0 then .ok (.sextB (opnd d) (opnd a)) else .enc .plain
  | 4 => if b == 0 then .ok (.sextH (opnd d) (opnd a)) else .enc .plain
  | 5 => if b == 0 then .ok (.sextW (opnd d) (opnd a)) else .enc .plain
  | 6 => if b == 0 then .ok (.zextB (opnd d) (opnd a)) else .enc .plain
  | 7 => if b == 0 then .ok (.zextH (opnd d) (opnd a)) else .enc .plain
  | 8 => if b == 0 then .ok (.zextW (opnd d) (opnd a)) else .enc .plain
  | 9 => if b == 0 then .ok (.brev (opnd d) (opnd a)) else .enc .plain
  | 10 => if b == 0 then .ok (.bswap (opnd d) (opnd a)) else .enc .plain
  | _ => und w

/-- BEXT (R73). -/
def decBext (w : Nat) : Decoded :=
  let d := field w 26 6
  let a := field w 20 6
  let i := field w 8 12
  .ok (.bext (opnd d) (opnd a) (.ofNat 6 (i / 64)) (.ofNat 6 (i % 64)))

/-- BINS (R73). -/
def decBins (w : Nat) : Decoded :=
  let d := field w 26 6
  let a := field w 20 6
  let i := field w 8 12
  .ok (.bins (opnd d) (opnd a) (.ofNat 6 (i / 64)) (.ofNat 6 (i % 64)))

/-- ADDI (R73). -/
def decAddi (w : Nat) : Decoded :=
  let d := field w 26 6
  let a := field w 20 6
  let i := field w 8 12
  .ok (.addi (opnd d) (opnd a) (.ofNat 12 i))

/-- ANDI (R73). -/
def decAndImm (w : Nat) : Decoded :=
  let d := field w 26 6
  let a := field w 20 6
  let i := field w 8 12
  .ok (.andImm (opnd d) (opnd a) (.ofNat 12 i))

/-- ORI (R73). -/
def decOrImm (w : Nat) : Decoded :=
  let d := field w 26 6
  let a := field w 20 6
  let i := field w 8 12
  .ok (.orImm (opnd d) (opnd a) (.ofNat 12 i))

/-- XORI (R73). -/
def decXorImm (w : Nat) : Decoded :=
  let d := field w 26 6
  let a := field w 20 6
  let i := field w 8 12
  .ok (.xorImm (opnd d) (opnd a) (.ofNat 12 i))

/-- SLTI (R73). -/
def decSlti (w : Nat) : Decoded :=
  let d := field w 26 6
  let a := field w 20 6
  let i := field w 8 12
  .ok (.slti (opnd d) (opnd a) (.ofNat 12 i))

/-- SLTIU (R73). -/
def decSltiu (w : Nat) : Decoded :=
  let d := field w 26 6
  let a := field w 20 6
  let i := field w 8 12
  .ok (.sltiu (opnd d) (opnd a) (.ofNat 12 i))

/-- SHI, imm12 11:10 (R73). -/
def decShi (w : Nat) : Decoded :=
  let d := field w 26 6
  let a := field w 20 6
  let i := field w 8 12
  match i / 1024 with
  | 0 => if i / 64 % 16 == 0 then .ok (.shli (opnd d) (opnd a) (.ofNat 6 (i % 64))) else .enc .plain
  | 1 => if i / 64 % 16 == 0 then .ok (.shri (opnd d) (opnd a) (.ofNat 6 (i % 64))) else .enc .plain
  | 2 => if i / 64 % 16 == 0 then .ok (.srai (opnd d) (opnd a) (.ofNat 6 (i % 64))) else .enc .plain
  | _ => if i / 64 % 16 == 0 then .ok (.rori (opnd d) (opnd a) (.ofNat 6 (i % 64))) else .enc .plain

/-- ADDI_W (R73). -/
def decAddiW (w : Nat) : Decoded :=
  let d := field w 26 6
  let a := field w 20 6
  let i := field w 8 12
  .ok (.addiW (opnd d) (opnd a) (.ofNat 12 i))

/-- LI (R73). -/
def decLi (w : Nat) : Decoded :=
  let d := field w 26 6
  let u := field w 8 18
  .ok (.li (opnd d) (.ofNat 18 u))

/-- LIS (R73). -/
def decLis (w : Nat) : Decoded :=
  let d := field w 26 6
  let u := field w 8 18
  .ok (.lis (opnd d) (.ofNat 18 u))

/-- LPC (R73). -/
def decLpc (w : Nat) : Decoded :=
  let d := field w 26 6
  let u := field w 8 18
  .ok (.lpc (opnd d) (.ofNat 18 u))

/-- JMP (R73). -/
def decJmp (w : Nat) : Decoded :=
  let j := field w 8 24
  .ok (.jmp (.ofNat 24 j))

/-- CALL (R73). -/
def decCall (w : Nat) : Decoded :=
  let j := field w 8 24
  .ok (.call (.ofNat 24 j))

/-- JR (R73). -/
def decJr (w : Nat) : Decoded :=
  let d := field w 26 6
  let a := field w 20 6
  let i := field w 8 12
  .ok (.jr (opnd d) (opnd a) (.ofNat 12 i))

/-- B_EQ (R73). -/
def decBEq (w : Nat) : Decoded :=
  let d := field w 26 6
  let a := field w 20 6
  let i := field w 8 12
  .ok (.bEq (opnd d) (opnd a) (.ofNat 12 i))

/-- B_NE (R73). -/
def decBNe (w : Nat) : Decoded :=
  let d := field w 26 6
  let a := field w 20 6
  let i := field w 8 12
  .ok (.bNe (opnd d) (opnd a) (.ofNat 12 i))

/-- B_LT (R73). -/
def decBLt (w : Nat) : Decoded :=
  let d := field w 26 6
  let a := field w 20 6
  let i := field w 8 12
  .ok (.bLt (opnd d) (opnd a) (.ofNat 12 i))

/-- B_GE (R73). -/
def decBGe (w : Nat) : Decoded :=
  let d := field w 26 6
  let a := field w 20 6
  let i := field w 8 12
  .ok (.bGe (opnd d) (opnd a) (.ofNat 12 i))

/-- B_LTU (R73). -/
def decBLtu (w : Nat) : Decoded :=
  let d := field w 26 6
  let a := field w 20 6
  let i := field w 8 12
  .ok (.bLtu (opnd d) (opnd a) (.ofNat 12 i))

/-- B_GEU (R73). -/
def decBGeu (w : Nat) : Decoded :=
  let d := field w 26 6
  let a := field w 20 6
  let i := field w 8 12
  .ok (.bGeu (opnd d) (opnd a) (.ofNat 12 i))

/-- B_BS (R73). -/
def decBBs (w : Nat) : Decoded :=
  let d := field w 26 6
  let a := field w 20 6
  let i := field w 8 12
  .ok (.bBs (opnd d) (opnd a) (.ofNat 12 i))

/-- B_BC (R73). -/
def decBBc (w : Nat) : Decoded :=
  let d := field w 26 6
  let a := field w 20 6
  let i := field w 8 12
  .ok (.bBc (opnd d) (opnd a) (.ofNat 12 i))

/-- LD_B (R73). -/
def decLdB (w : Nat) : Decoded :=
  let d := field w 26 6
  let a := field w 20 6
  let i := field w 8 12
  .ok (.ldB (opnd d) (opnd a) (.ofNat 12 i))

/-- LD_H (R73). -/
def decLdH (w : Nat) : Decoded :=
  let d := field w 26 6
  let a := field w 20 6
  let i := field w 8 12
  .ok (.ldH (opnd d) (opnd a) (.ofNat 12 i))

/-- LD_W (R73). -/
def decLdW (w : Nat) : Decoded :=
  let d := field w 26 6
  let a := field w 20 6
  let i := field w 8 12
  .ok (.ldW (opnd d) (opnd a) (.ofNat 12 i))

/-- LD_D (R73). -/
def decLdD (w : Nat) : Decoded :=
  let d := field w 26 6
  let a := field w 20 6
  let i := field w 8 12
  .ok (.ldD (opnd d) (opnd a) (.ofNat 12 i))

/-- LD_BU (R73). -/
def decLdBu (w : Nat) : Decoded :=
  let d := field w 26 6
  let a := field w 20 6
  let i := field w 8 12
  .ok (.ldBu (opnd d) (opnd a) (.ofNat 12 i))

/-- LD_HU (R73). -/
def decLdHu (w : Nat) : Decoded :=
  let d := field w 26 6
  let a := field w 20 6
  let i := field w 8 12
  .ok (.ldHu (opnd d) (opnd a) (.ofNat 12 i))

/-- LD_WU (R73). -/
def decLdWu (w : Nat) : Decoded :=
  let d := field w 26 6
  let a := field w 20 6
  let i := field w 8 12
  .ok (.ldWu (opnd d) (opnd a) (.ofNat 12 i))

/-- ST_B (R73). -/
def decStB (w : Nat) : Decoded :=
  let d := field w 26 6
  let a := field w 20 6
  let i := field w 8 12
  .ok (.stB (opnd d) (opnd a) (.ofNat 12 i))

/-- ST_H (R73). -/
def decStH (w : Nat) : Decoded :=
  let d := field w 26 6
  let a := field w 20 6
  let i := field w 8 12
  .ok (.stH (opnd d) (opnd a) (.ofNat 12 i))

/-- ST_W (R73). -/
def decStW (w : Nat) : Decoded :=
  let d := field w 26 6
  let a := field w 20 6
  let i := field w 8 12
  .ok (.stW (opnd d) (opnd a) (.ofNat 12 i))

/-- ST_D (R73). -/
def decStD (w : Nat) : Decoded :=
  let d := field w 26 6
  let a := field w 20 6
  let i := field w 8 12
  .ok (.stD (opnd d) (opnd a) (.ofNat 12 i))

/-- MEMX, f6 5:4 (R73). -/
def decMemx (w : Nat) : Decoded :=
  let d := field w 26 6
  let a := field w 20 6
  let b := field w 14 6
  let f := field w 8 6
  match f / 16 with
  | 0 => .ok (.ldx (opnd d) (opnd a) (opnd b) (.ofNat 2 (f / 4 % 4)) (.ofNat 2 (f % 4)))
  | 1 => .ok (.ldxu (opnd d) (opnd a) (opnd b) (.ofNat 2 (f / 4 % 4)) (.ofNat 2 (f % 4)))
  | 2 => .ok (.stx (opnd d) (opnd a) (opnd b) (.ofNat 2 (f / 4 % 4)) (.ofNat 2 (f % 4)))
  | _ => .enc .plain

/-- LDAQ (R73). -/
def decLdaq (w : Nat) : Decoded :=
  let md := field w 27 5
  let ma := field w 22 5
  let mb := field w 17 5
  let mo := field w 13 4
  let mr := field w 11 2
  let ms := field w 8 3
  if mb == 0 && mo / 4 == 0 && mr == 1 then .ok (.ldaq (.ofNat 5 md) (.ofNat 5 ma) (.ofNat 2 (mo % 4)) (.ofNat 3 ms)) else .enc .plain

/-- STRL (R73). -/
def decStrl (w : Nat) : Decoded :=
  let md := field w 27 5
  let ma := field w 22 5
  let mb := field w 17 5
  let mo := field w 13 4
  let mr := field w 11 2
  let ms := field w 8 3
  if mb == 0 && mo / 4 == 0 && mr == 2 then .ok (.strl (.ofNat 5 md) (.ofNat 5 ma) (.ofNat 2 (mo % 4)) (.ofNat 3 ms)) else .enc .plain

/-- AMO, op4 (R73). -/
def decAmo (w : Nat) : Decoded :=
  let md := field w 27 5
  let ma := field w 22 5
  let mb := field w 17 5
  let mo := field w 13 4
  let mr := field w 11 2
  let ms := field w 8 3
  match mo with
  | 0 => .ok (.amoAdd (.ofNat 5 md) (.ofNat 5 ma) (.ofNat 5 mb) (.ofNat 2 mr) (.ofNat 3 ms))
  | 1 => .ok (.amoAnd (.ofNat 5 md) (.ofNat 5 ma) (.ofNat 5 mb) (.ofNat 2 mr) (.ofNat 3 ms))
  | 2 => .ok (.amoOr (.ofNat 5 md) (.ofNat 5 ma) (.ofNat 5 mb) (.ofNat 2 mr) (.ofNat 3 ms))
  | 3 => .ok (.amoXor (.ofNat 5 md) (.ofNat 5 ma) (.ofNat 5 mb) (.ofNat 2 mr) (.ofNat 3 ms))
  | 4 => .ok (.amoMin (.ofNat 5 md) (.ofNat 5 ma) (.ofNat 5 mb) (.ofNat 2 mr) (.ofNat 3 ms))
  | 5 => .ok (.amoMax (.ofNat 5 md) (.ofNat 5 ma) (.ofNat 5 mb) (.ofNat 2 mr) (.ofNat 3 ms))
  | 6 => .ok (.amoMinu (.ofNat 5 md) (.ofNat 5 ma) (.ofNat 5 mb) (.ofNat 2 mr) (.ofNat 3 ms))
  | 7 => .ok (.amoMaxu (.ofNat 5 md) (.ofNat 5 ma) (.ofNat 5 mb) (.ofNat 2 mr) (.ofNat 3 ms))
  | 8 => .ok (.amoSwap (.ofNat 5 md) (.ofNat 5 ma) (.ofNat 5 mb) (.ofNat 2 mr) (.ofNat 3 ms))
  | 9 => .ok (.amoFadd (.ofNat 5 md) (.ofNat 5 ma) (.ofNat 5 mb) (.ofNat 2 mr) (.ofNat 3 ms))
  | 10 => .ok (.amoFmax (.ofNat 5 md) (.ofNat 5 ma) (.ofNat 5 mb) (.ofNat 2 mr) (.ofNat 3 ms))
  | 11 => .ok (.amoFmin (.ofNat 5 md) (.ofNat 5 ma) (.ofNat 5 mb) (.ofNat 2 mr) (.ofNat 3 ms))
  | 12 => .ok (.amoFamax (.ofNat 5 md) (.ofNat 5 ma) (.ofNat 5 mb) (.ofNat 2 mr) (.ofNat 3 ms))
  | _ => und w

/-- AMO.W, op4 (R73). -/
def decAmoW (w : Nat) : Decoded :=
  let md := field w 27 5
  let ma := field w 22 5
  let mb := field w 17 5
  let mo := field w 13 4
  let mr := field w 11 2
  let ms := field w 8 3
  match mo with
  | 0 => .ok (.amoWAdd (.ofNat 5 md) (.ofNat 5 ma) (.ofNat 5 mb) (.ofNat 2 mr) (.ofNat 3 ms))
  | 1 => .ok (.amoWAnd (.ofNat 5 md) (.ofNat 5 ma) (.ofNat 5 mb) (.ofNat 2 mr) (.ofNat 3 ms))
  | 2 => .ok (.amoWOr (.ofNat 5 md) (.ofNat 5 ma) (.ofNat 5 mb) (.ofNat 2 mr) (.ofNat 3 ms))
  | 3 => .ok (.amoWXor (.ofNat 5 md) (.ofNat 5 ma) (.ofNat 5 mb) (.ofNat 2 mr) (.ofNat 3 ms))
  | 4 => .ok (.amoWMin (.ofNat 5 md) (.ofNat 5 ma) (.ofNat 5 mb) (.ofNat 2 mr) (.ofNat 3 ms))
  | 5 => .ok (.amoWMax (.ofNat 5 md) (.ofNat 5 ma) (.ofNat 5 mb) (.ofNat 2 mr) (.ofNat 3 ms))
  | 6 => .ok (.amoWMinu (.ofNat 5 md) (.ofNat 5 ma) (.ofNat 5 mb) (.ofNat 2 mr) (.ofNat 3 ms))
  | 7 => .ok (.amoWMaxu (.ofNat 5 md) (.ofNat 5 ma) (.ofNat 5 mb) (.ofNat 2 mr) (.ofNat 3 ms))
  | 8 => .ok (.amoWSwap (.ofNat 5 md) (.ofNat 5 ma) (.ofNat 5 mb) (.ofNat 2 mr) (.ofNat 3 ms))
  | 9 => .ok (.amoWFadd (.ofNat 5 md) (.ofNat 5 ma) (.ofNat 5 mb) (.ofNat 2 mr) (.ofNat 3 ms))
  | 10 => .ok (.amoWFmax (.ofNat 5 md) (.ofNat 5 ma) (.ofNat 5 mb) (.ofNat 2 mr) (.ofNat 3 ms))
  | 11 => .ok (.amoWFmin (.ofNat 5 md) (.ofNat 5 ma) (.ofNat 5 mb) (.ofNat 2 mr) (.ofNat 3 ms))
  | 12 => .ok (.amoWFamax (.ofNat 5 md) (.ofNat 5 ma) (.ofNat 5 mb) (.ofNat 2 mr) (.ofNat 3 ms))
  | _ => und w

/-- CAS (R73). -/
def decCas (w : Nat) : Decoded :=
  let md := field w 27 5
  let ma := field w 22 5
  let mb := field w 17 5
  let mo := field w 13 4
  let mr := field w 11 2
  let ms := field w 8 3
  if mo == 0 then .ok (.cas (.ofNat 5 md) (.ofNat 5 ma) (.ofNat 5 mb) (.ofNat 2 mr) (.ofNat 3 ms)) else .enc .plain

/-- CAS_W (R73). -/
def decCasW (w : Nat) : Decoded :=
  let md := field w 27 5
  let ma := field w 22 5
  let mb := field w 17 5
  let mo := field w 13 4
  let mr := field w 11 2
  let ms := field w 8 3
  if mo == 0 then .ok (.casW (.ofNat 5 md) (.ofNat 5 ma) (.ofNat 5 mb) (.ofNat 2 mr) (.ofNat 3 ms)) else .enc .plain

/-- FENCE (R73). -/
def decFence (w : Nat) : Decoded :=
  let md := field w 27 5
  let ma := field w 22 5
  let mb := field w 17 5
  let mo := field w 13 4
  let mr := field w 11 2
  let ms := field w 8 3
  if md == 0 && ma == 0 && mb == 0 then .ok (.fence (.ofNat 4 mo) (.ofNat 2 mr) (.ofNat 3 ms)) else .enc .plain

/-- WAITM (R73). -/
def decWaitm (w : Nat) : Decoded :=
  let md := field w 27 5
  let ma := field w 22 5
  let mb := field w 17 5
  let mo := field w 13 4
  let mr := field w 11 2
  let ms := field w 8 3
  if 4 ≤ mo then und w else .ok (.waitm (.ofNat 5 md) (.ofNat 5 ma) (.ofNat 5 mb) (.ofNat 4 mo) (.ofNat 2 mr) (.ofNat 3 ms))

/-- PAUSE (R73). -/
def decPause (w : Nat) : Decoded :=
  let d := field w 26 6
  let a := field w 20 6
  let i := field w 8 12
  if d == 0 && a == 0 then .ok (.pause (.ofNat 12 i)) else .enc .plain

/-- FOP.D, f6 5:2 (R73). -/
def decFopD (w : Nat) : Decoded :=
  let d := field w 26 6
  let a := field w 20 6
  let b := field w 14 6
  let f := field w 8 6
  match f / 4 with
  | 0 => .ok (.faddD (opnd d) (opnd a) (opnd b) (rsel (f % 4)))
  | 1 => .ok (.fsubD (opnd d) (opnd a) (opnd b) (rsel (f % 4)))
  | 2 => .ok (.fmulD (opnd d) (opnd a) (opnd b) (rsel (f % 4)))
  | 3 => if f % 4 == 0 then .ok (.fminD (opnd d) (opnd a) (opnd b)) else .enc .plain
  | 4 => if f % 4 == 0 then .ok (.fmaxD (opnd d) (opnd a) (opnd b)) else .enc .plain
  | 5 => if f % 4 == 0 then .ok (.fcmpeqD (opnd d) (opnd a) (opnd b)) else .enc .plain
  | 6 => if f % 4 == 0 then .ok (.fcmpltD (opnd d) (opnd a) (opnd b)) else .enc .plain
  | 7 => if f % 4 == 0 then .ok (.fcmpleD (opnd d) (opnd a) (opnd b)) else .enc .plain
  | 8 => if f % 4 == 0 then .ok (.fsgnjD (opnd d) (opnd a) (opnd b)) else .enc .plain
  | 9 => if f % 4 == 0 then .ok (.fsgnjnD (opnd d) (opnd a) (opnd b)) else .enc .plain
  | 10 => if f % 4 == 0 then .ok (.fsgnjxD (opnd d) (opnd a) (opnd b)) else .enc .plain
  | 11 => if b == 0 && f % 4 == 0 then .ok (.fclassD (opnd d) (opnd a)) else .enc .plain
  | 12 => if b == 0 then .ok (.frcpD (opnd d) (opnd a) (rsel (f % 4))) else .enc .plain
  | 13 => if b == 0 then .ok (.frsqD (opnd d) (opnd a) (rsel (f % 4))) else .enc .plain
  | _ => und w

/-- FOP.S, f6 5:2 (R73). -/
def decFopS (w : Nat) : Decoded :=
  let d := field w 26 6
  let a := field w 20 6
  let b := field w 14 6
  let f := field w 8 6
  match f / 4 with
  | 0 => .ok (.faddS (opnd d) (opnd a) (opnd b) (rsel (f % 4)))
  | 1 => .ok (.fsubS (opnd d) (opnd a) (opnd b) (rsel (f % 4)))
  | 2 => .ok (.fmulS (opnd d) (opnd a) (opnd b) (rsel (f % 4)))
  | 3 => if f % 4 == 0 then .ok (.fminS (opnd d) (opnd a) (opnd b)) else .enc .plain
  | 4 => if f % 4 == 0 then .ok (.fmaxS (opnd d) (opnd a) (opnd b)) else .enc .plain
  | 5 => if f % 4 == 0 then .ok (.fcmpeqS (opnd d) (opnd a) (opnd b)) else .enc .plain
  | 6 => if f % 4 == 0 then .ok (.fcmpltS (opnd d) (opnd a) (opnd b)) else .enc .plain
  | 7 => if f % 4 == 0 then .ok (.fcmpleS (opnd d) (opnd a) (opnd b)) else .enc .plain
  | 8 => if f % 4 == 0 then .ok (.fsgnjS (opnd d) (opnd a) (opnd b)) else .enc .plain
  | 9 => if f % 4 == 0 then .ok (.fsgnjnS (opnd d) (opnd a) (opnd b)) else .enc .plain
  | 10 => if f % 4 == 0 then .ok (.fsgnjxS (opnd d) (opnd a) (opnd b)) else .enc .plain
  | 11 => if b == 0 && f % 4 == 0 then .ok (.fclassS (opnd d) (opnd a)) else .enc .plain
  | 12 => if b == 0 then .ok (.frcpS (opnd d) (opnd a) (rsel (f % 4))) else .enc .plain
  | 13 => if b == 0 then .ok (.frsqS (opnd d) (opnd a) (rsel (f % 4))) else .enc .plain
  | _ => und w

/-- FMA.D, f6 1:0 (R73). -/
def decFmaD (w : Nat) : Decoded :=
  let d := field w 26 6
  let a := field w 20 6
  let b := field w 14 6
  let f := field w 8 6
  match f % 4 with
  | 0 => if f / 16 == 0 then .ok (.fmaD (opnd d) (opnd a) (opnd b) (rsel (f / 4 % 4))) else .enc .plain
  | 1 => if f / 16 == 0 then .ok (.fmsD (opnd d) (opnd a) (opnd b) (rsel (f / 4 % 4))) else .enc .plain
  | 2 => if f / 16 == 0 then .ok (.fnmaD (opnd d) (opnd a) (opnd b) (rsel (f / 4 % 4))) else .enc .plain
  | _ => if f / 16 == 0 then .ok (.fnmsD (opnd d) (opnd a) (opnd b) (rsel (f / 4 % 4))) else .enc .plain

/-- FMA.S, f6 1:0 (R73). -/
def decFmaS (w : Nat) : Decoded :=
  let d := field w 26 6
  let a := field w 20 6
  let b := field w 14 6
  let f := field w 8 6
  match f % 4 with
  | 0 => if f / 16 == 0 then .ok (.fmaS (opnd d) (opnd a) (opnd b) (rsel (f / 4 % 4))) else .enc .plain
  | 1 => if f / 16 == 0 then .ok (.fmsS (opnd d) (opnd a) (opnd b) (rsel (f / 4 % 4))) else .enc .plain
  | 2 => if f / 16 == 0 then .ok (.fnmaS (opnd d) (opnd a) (opnd b) (rsel (f / 4 % 4))) else .enc .plain
  | _ => if f / 16 == 0 then .ok (.fnmsS (opnd d) (opnd a) (opnd b) (rsel (f / 4 % 4))) else .enc .plain

/-- FCVT (R73). -/
def decFcvt (w : Nat) : Decoded :=
  let d := field w 26 6
  let a := field w 20 6
  let b := field w 14 6
  let f := field w 8 6
  if f / 8 == f % 8 || (f / 8 < 4 && f % 8 < 4) then und w
  else if b / 4 == 0 then .ok (.fcvt (opnd d) (opnd a) (rsel (b % 4)) (cvt (f / 8)) (cvt (f % 8))) else .enc .plain

/-- FMT (R73). -/
def decFmt (w : Nat) : Decoded :=
  let vd := field w 28 4
  let va := field w 24 4
  let vb := field w 20 4
  let vm := field w 17 3
  let ft := field w 16 1
  let xz := field w 13 3
  let mr := field w 11 2
  let ms := field w 8 3
  if ms == 0 then .ok (.fmt (.ofNat 4 vd) (.ofNat 4 va) (.ofNat 4 vb) (.ofNat 3 vm) (ft == 1) (.ofNat 3 xz) (.ofNat 2 mr)) else .enc .smallOnly

/-- CBLD (R73). -/
def decCbld (w : Nat) : Decoded :=
  let d := field w 26 6
  let a := field w 20 6
  let i := field w 8 12
  if d / 4 == 0 then .ok (.cbld (.ofNat 2 (d % 4)) (opnd a) (.ofNat 12 i)) else .enc .smallOnly

/-- SCALE, f6 (R73). -/
def decScale (w : Nat) : Decoded :=
  let d := field w 26 6
  let a := field w 20 6
  let b := field w 14 6
  let f := field w 8 6
  match f with
  | 0 => if d / 8 == 0 && b == 0 then .ok (.scset (.ofNat 3 (d % 8)) (opnd a)) else .enc .smallOnly
  | 1 => if a / 8 == 0 && b == 0 then .ok (.scget (opnd d) (.ofNat 3 (a % 8))) else .enc .smallOnly
  | _ => und w

/-- VALU, f6 (R73). -/
def decValu (w : Nat) : Decoded :=
  let vd := field w 28 4
  let va := field w 24 4
  let vb := field w 20 4
  let vm := field w 17 3
  let vz := field w 14 3
  let f := field w 8 6
  match f with
  | 0 => .ok (.vadd (.ofNat 4 vd) (.ofNat 4 va) (.ofNat 4 vb) (.ofNat 3 vm) (sz vz))
  | 1 => .ok (.vsub (.ofNat 4 vd) (.ofNat 4 va) (.ofNat 4 vb) (.ofNat 3 vm) (sz vz))
  | 2 => .ok (.vmul (.ofNat 4 vd) (.ofNat 4 va) (.ofNat 4 vb) (.ofNat 3 vm) (sz vz))
  | 3 => .ok (.vmin (.ofNat 4 vd) (.ofNat 4 va) (.ofNat 4 vb) (.ofNat 3 vm) (sz vz))
  | 4 => .ok (.vmax (.ofNat 4 vd) (.ofNat 4 va) (.ofNat 4 vb) (.ofNat 3 vm) (sz vz))
  | 5 => .ok (.vand (.ofNat 4 vd) (.ofNat 4 va) (.ofNat 4 vb) (.ofNat 3 vm) (sz vz))
  | 6 => .ok (.vor (.ofNat 4 vd) (.ofNat 4 va) (.ofNat 4 vb) (.ofNat 3 vm) (sz vz))
  | 7 => .ok (.vxor (.ofNat 4 vd) (.ofNat 4 va) (.ofNat 4 vb) (.ofNat 3 vm) (sz vz))
  | 8 => .ok (.vandn (.ofNat 4 vd) (.ofNat 4 va) (.ofNat 4 vb) (.ofNat 3 vm) (sz vz))
  | 9 => .ok (.vshl (.ofNat 4 vd) (.ofNat 4 va) (.ofNat 4 vb) (.ofNat 3 vm) (sz vz))
  | 10 => .ok (.vshr (.ofNat 4 vd) (.ofNat 4 va) (.ofNat 4 vb) (.ofNat 3 vm) (sz vz))
  | 11 => .ok (.vsra (.ofNat 4 vd) (.ofNat 4 va) (.ofNat 4 vb) (.ofNat 3 vm) (sz vz))
  | 12 => if vb == 0 then .ok (.vabs (.ofNat 4 vd) (.ofNat 4 va) (.ofNat 3 vm) (sz vz)) else .enc .smallOnly
  | 13 => if vb == 0 then .ok (.vneg (.ofNat 4 vd) (.ofNat 4 va) (.ofNat 3 vm) (sz vz)) else .enc .smallOnly
  | 14 => .ok (.vsel (.ofNat 4 vd) (.ofNat 4 va) (.ofNat 4 vb) (.ofNat 3 vm) (sz vz))
  | 15 => if vb == 0 then .ok (.vmov (.ofNat 4 vd) (.ofNat 4 va) (.ofNat 3 vm) (sz vz)) else .enc .smallOnly
  | 16 => .ok (.vmulh (.ofNat 4 vd) (.ofNat 4 va) (.ofNat 4 vb) (.ofNat 3 vm) (sz vz))
  | 17 => .ok (.vadds (.ofNat 4 vd) (.ofNat 4 va) (.ofNat 4 vb) (.ofNat 3 vm) (sz vz))
  | 18 => .ok (.vsubs (.ofNat 4 vd) (.ofNat 4 va) (.ofNat 4 vb) (.ofNat 3 vm) (sz vz))
  | _ => und w

/-- VFMA, f6 1:0 (R73). -/
def decVfma (w : Nat) : Decoded :=
  let vd := field w 28 4
  let va := field w 24 4
  let vb := field w 20 4
  let vm := field w 17 3
  let vz := field w 14 3
  let f := field w 8 6
  match f % 4 with
  | 0 => if f / 16 == 0 then .ok (.vfma (.ofNat 4 vd) (.ofNat 4 va) (.ofNat 4 vb) (.ofNat 3 vm) (sz vz) (rsel (f / 4 % 4))) else .enc .smallOnly
  | 1 => if f / 16 == 0 then .ok (.vfms (.ofNat 4 vd) (.ofNat 4 va) (.ofNat 4 vb) (.ofNat 3 vm) (sz vz) (rsel (f / 4 % 4))) else .enc .smallOnly
  | 2 => if f / 16 == 0 then .ok (.vfnma (.ofNat 4 vd) (.ofNat 4 va) (.ofNat 4 vb) (.ofNat 3 vm) (sz vz) (rsel (f / 4 % 4))) else .enc .smallOnly
  | _ => if f / 16 == 0 then .ok (.vfnms (.ofNat 4 vd) (.ofNat 4 va) (.ofNat 4 vb) (.ofNat 3 vm) (sz vz) (rsel (f / 4 % 4))) else .enc .smallOnly

/-- VCMP (R73). -/
def decVcmp (w : Nat) : Decoded :=
  let vd := field w 28 4
  let va := field w 24 4
  let vb := field w 20 4
  let vm := field w 17 3
  let vz := field w 14 3
  let f := field w 8 6
  if 11 ≤ f then und w else if vd / 8 == 0 then .ok (.vcmp (.ofNat 3 (vd % 8)) (.ofNat 4 va) (.ofNat 4 vb) (.ofNat 3 vm) (sz vz) (.ofNat 6 f)) else .enc .smallOnly

/-- VRED, f6 (R73). -/
def decVred (w : Nat) : Decoded :=
  let vd := field w 28 4
  let va := field w 24 4
  let vb := field w 20 4
  let vm := field w 17 3
  let vz := field w 14 3
  let f := field w 8 6
  match f with
  | 0 => if vb == 0 then .ok (.vredadd (.ofNat 4 vd) (.ofNat 4 va) (.ofNat 3 vm) (sz vz)) else .enc .smallOnly
  | 1 => if vb == 0 then .ok (.vredmin (.ofNat 4 vd) (.ofNat 4 va) (.ofNat 3 vm) (sz vz)) else .enc .smallOnly
  | 2 => if vb == 0 then .ok (.vredmax (.ofNat 4 vd) (.ofNat 4 va) (.ofNat 3 vm) (sz vz)) else .enc .smallOnly
  | 3 => if vb == 0 then .ok (.vredamax (.ofNat 4 vd) (.ofNat 4 va) (.ofNat 3 vm) (sz vz)) else .enc .smallOnly
  | 4 => if vb == 0 then .ok (.vredor (.ofNat 4 vd) (.ofNat 4 va) (.ofNat 3 vm) (sz vz)) else .enc .smallOnly
  | 5 => if vb == 0 then .ok (.vredand (.ofNat 4 vd) (.ofNat 4 va) (.ofNat 3 vm) (sz vz)) else .enc .smallOnly
  | _ => und w

/-- VX, f5 (R73). -/
def decVx (w : Nat) : Decoded :=
  let vd := field w 28 4
  let xs := field w 22 6
  let xi := field w 16 6
  let xz := field w 13 3
  let xf := field w 8 5
  match xf with
  | 0 => if xi == 0 then .ok (.vbcast (.ofNat 4 vd) (opnd xs) (sz xz)) else .enc .smallOnly
  | 1 => .ok (.vins (.ofNat 4 vd) (opnd xs) (opnd xi) (sz xz))
  | 2 => .ok (.vextr (.ofNat 4 vd) (opnd xs) (opnd xi) (sz xz))
  | _ => und w

/-- VPERM, f6 (R73). -/
def decVperm (w : Nat) : Decoded :=
  let vd := field w 28 4
  let va := field w 24 4
  let vb := field w 20 4
  let vm := field w 17 3
  let vz := field w 14 3
  let f := field w 8 6
  match f with
  | 0 => if vm == 0 then .ok (.vperm (.ofNat 4 vd) (.ofNat 4 va) (.ofNat 4 vb) (sz vz)) else .enc .smallOnly
  | 1 => if vm == 0 then .ok (.vslideup (.ofNat 4 vd) (.ofNat 4 va) (.ofNat 4 vb) (sz vz)) else .enc .smallOnly
  | 2 => if vm == 0 then .ok (.vslidedn (.ofNat 4 vd) (.ofNat 4 va) (.ofNat 4 vb) (sz vz)) else .enc .smallOnly
  | 3 => if vm == 0 then .ok (.vzip (.ofNat 4 vd) (.ofNat 4 va) (.ofNat 4 vb) (sz vz)) else .enc .smallOnly
  | 4 => if vm == 0 then .ok (.vunzip (.ofNat 4 vd) (.ofNat 4 va) (.ofNat 4 vb) (sz vz)) else .enc .smallOnly
  | 5 => if va == 0 && vb == 0 && vm == 0 then .ok (.viota (.ofNat 4 vd) (sz vz)) else .enc .smallOnly
  | _ => und w

/-- the VCVT family, f6 (R73). -/
def decVcvt (w : Nat) : Decoded :=
  let vd := field w 28 4
  let va := field w 24 4
  let vb := field w 20 4
  let vm := field w 17 3
  let vz := field w 14 3
  let f := field w 8 6
  match f / 8 with
  | 0 =>
    match f % 8 with
    | 0 => if vb == 0 then .ok (.vcvt (.ofNat 4 vd) (.ofNat 4 va) (sz vm) (sz vz)) else .enc .smallOnly
    | 1 => if vb == 0 then .ok (.vcvtLo (.ofNat 4 vd) (.ofNat 4 va) (sz vm) (sz vz)) else .enc .smallOnly
    | 2 => if vb == 0 then .ok (.vcvtHi (.ofNat 4 vd) (.ofNat 4 va) (sz vm) (sz vz)) else .enc .smallOnly
    | 3 => .ok (.vcvtNarrow (.ofNat 4 vd) (.ofNat 4 va) (.ofNat 4 vb) (sz vm) (sz vz))
    | _ => .enc .smallOnly
  | 1 => if vb == 0 && vm == 0 && vz == 0 then .ok (.vpack (.ofNat 4 vd) (.ofNat 4 va) (.ofNat 3 (f % 8))) else .enc .needsPrefix
  | 2 =>
    match f % 8 with
    | 0 => if vb == 0 && vm == 0 && vz == 0 then .ok (.vunpkLo (.ofNat 4 vd) (.ofNat 4 va)) else .enc .needsPrefix
    | 1 => if vb == 0 && vm == 0 && vz == 0 then .ok (.vunpkHi (.ofNat 4 vd) (.ofNat 4 va)) else .enc .needsPrefix
    | _ => .enc .needsPrefix
  | 3 => if vb == 0 && vm == 0 && vz == 0 then .ok (.vdeq (.ofNat 4 vd) (.ofNat 4 va) (.ofNat 3 (f % 8))) else .enc .needsPrefix
  | 4 =>
    match f % 8 with
    | 0 => if vb == 0 && vm == 0 && vz == 0 then .ok (.vscale (.ofNat 4 vd) (.ofNat 4 va)) else .enc .needsPrefix
    | _ => .enc .needsPrefix
  | 5 => if vm == 0 && vz == 0 then .ok (.vqnt (.ofNat 4 vd) (.ofNat 4 va) (.ofNat 4 vb) (.ofNat 3 (f % 8))) else .enc .needsPrefix
  | _ => und w

/-- VFN, f6 (R73). -/
def decVfn (w : Nat) : Decoded :=
  let vd := field w 28 4
  let va := field w 24 4
  let vb := field w 20 4
  let vm := field w 17 3
  let vz := field w 14 3
  let f := field w 8 6
  match f with
  | 0 => if vb == 0 then .ok (.vrcp (.ofNat 4 vd) (.ofNat 4 va) (.ofNat 3 vm) (sz vz)) else .enc .smallOnly
  | 1 => if vb == 0 then .ok (.vrsq (.ofNat 4 vd) (.ofNat 4 va) (.ofNat 3 vm) (sz vz)) else .enc .smallOnly
  | 2 => if vb == 0 then .ok (.vexp2 (.ofNat 4 vd) (.ofNat 4 va) (.ofNat 3 vm) (sz vz)) else .enc .smallOnly
  | 3 => if vb == 0 then .ok (.vlog2 (.ofNat 4 vd) (.ofNat 4 va) (.ofNat 3 vm) (sz vz)) else .enc .smallOnly
  | _ => und w

/-- VLD (R73). -/
def decVld (w : Nat) : Decoded :=
  let vd := field w 28 4
  let xs := field w 22 6
  let mo11 := field w 11 11
  let ms := field w 8 3
  .ok (.vld (.ofNat 4 vd) (opnd xs) (.ofNat 11 mo11) (.ofNat 3 ms))

/-- VST (R73). -/
def decVst (w : Nat) : Decoded :=
  let vd := field w 28 4
  let xs := field w 22 6
  let mo11 := field w 11 11
  let ms := field w 8 3
  .ok (.vst (.ofNat 4 vd) (opnd xs) (.ofNat 11 mo11) (.ofNat 3 ms))

/-- VLDS (R73). -/
def decVlds (w : Nat) : Decoded :=
  let vd := field w 28 4
  let xs := field w 22 6
  let xi := field w 16 6
  let xz := field w 13 3
  let xf := field w 8 5
  if xf / 8 == 0 then .ok (.vlds (.ofNat 4 vd) (opnd xs) (opnd xi) (sz xz) (.ofNat 3 (xf % 8))) else .enc .smallOnly

/-- VSTS (R73). -/
def decVsts (w : Nat) : Decoded :=
  let vd := field w 28 4
  let xs := field w 22 6
  let xi := field w 16 6
  let xz := field w 13 3
  let xf := field w 8 5
  if xf / 8 == 0 then .ok (.vsts (.ofNat 4 vd) (opnd xs) (opnd xi) (sz xz) (.ofNat 3 (xf % 8))) else .enc .smallOnly

/-- VGATH (R73). -/
def decVgath (w : Nat) : Decoded :=
  let vd := field w 28 4
  let xs := field w 22 6
  let xi := field w 16 6
  let xz := field w 13 3
  let xf := field w 8 5
  if xi / 16 == 0 && xf / 8 == 0 then .ok (.vgath (.ofNat 4 vd) (opnd xs) (.ofNat 4 (xi % 16)) (sz xz) (.ofNat 3 (xf % 8))) else .enc .smallOnly

/-- VSCAT (R73). -/
def decVscat (w : Nat) : Decoded :=
  let vd := field w 28 4
  let xs := field w 22 6
  let xi := field w 16 6
  let xz := field w 13 3
  let xf := field w 8 5
  if xi / 16 == 0 && xf / 8 == 0 then .ok (.vscat (.ofNat 4 vd) (opnd xs) (.ofNat 4 (xi % 16)) (sz xz) (.ofNat 3 (xf % 8))) else .enc .smallOnly

/-- VTILE, f3 (R73). -/
def decVtile (w : Nat) : Decoded :=
  let vd := field w 28 4
  let tt := field w 23 5
  let tr := field w 17 6
  let tc := field w 11 6
  let ms := field w 8 3
  match ms with
  | 0 => .ok (.vldt (.ofNat 4 vd) (.ofNat 5 tt) (.ofNat 6 tr) (.ofNat 6 tc))
  | 1 => .ok (.vstt (.ofNat 4 vd) (.ofNat 5 tt) (.ofNat 6 tr) (.ofNat 6 tc))
  | _ => und w

/-- REP (R73). -/
def decRep (w : Nat) : Decoded :=
  let d := field w 26 6
  let a := field w 20 6
  let b := field w 14 6
  let f := field w 8 6
  if d / 16 == 0 && b / 32 == 0 && f / 32 == 0 then .ok (.rep (.ofNat 4 (d % 16)) (opnd a) (.ofNat 5 (b % 32)) (.ofNat 5 (f % 32))) else .enc .repeats

/-- TILE, f6 (R73). -/
def decTile (w : Nat) : Decoded :=
  let d := field w 26 6
  let a := field w 20 6
  let b := field w 14 6
  let f := field w 8 6
  match f with
  | 0 => if d / 32 == 0 then .ok (.tset (.ofNat 5 (d % 32)) (opnd a) (opnd b)) else .enc .smallOnly
  | 1 => if a / 32 == 0 && b / 2 == 0 then .ok (.tstate (opnd d) (.ofNat 5 (a % 32)) (b % 2 == 1)) else .enc .smallOnly
  | 2 => if a / 32 == 0 && b == 0 then .ok (.tdrain (opnd d) (.ofNat 5 (a % 32))) else .enc .smallOnly
  | 3 => if d / 32 == 0 && a == 0 && b == 0 then .ok (.tfree (.ofNat 5 (d % 32))) else .enc .smallOnly
  | 4 => if d / 32 == 0 && a == 0 && b == 0 then .ok (.twait (.ofNat 5 (d % 32))) else .enc .smallOnly
  | _ => und w

/-- REEL, f6 (R73). -/
def decReel (w : Nat) : Decoded :=
  let d := field w 26 6
  let a := field w 20 6
  let b := field w 14 6
  let f := field w 8 6
  match f with
  | 0 => if d / 32 == 0 then .ok (.rget (.ofNat 5 (d % 32)) (opnd a) (opnd b)) else .enc .smallOnly
  | 1 => if d / 32 == 0 then .ok (.rput (.ofNat 5 (d % 32)) (opnd a) (opnd b)) else .enc .smallOnly
  | 2 => if b == 0 then .ok (.rcopy (opnd d) (opnd a)) else .enc .smallOnly
  | 3 => if b == 0 then .ok (.rred (opnd d) (opnd a)) else .enc .smallOnly
  | 4 => if d / 32 == 0 then .ok (.rgath (.ofNat 5 (d % 32)) (opnd a) (opnd b)) else .enc .smallOnly
  | 5 => if d / 32 == 0 then .ok (.rscat (.ofNat 5 (d % 32)) (opnd a) (opnd b)) else .enc .smallOnly
  | 6 => if b == 0 then .ok (.rmcast (opnd d) (opnd a)) else .enc .smallOnly
  | 7 => if a == 0 && b == 0 then .ok (.rstat (opnd d)) else .enc .smallOnly
  | 8 => .ok (.rctx (opnd d) (opnd a) (opnd b))
  | _ => und w

/-- LOFT, f6 (R73). -/
def decLoft (w : Nat) : Decoded :=
  let d := field w 26 6
  let a := field w 20 6
  let b := field w 14 6
  let f := field w 8 6
  match f with
  | 0 => if d == 0 && a / 32 == 0 && b / 2 == 0 then .ok (.lbld (.ofNat 5 (a % 32)) (b % 2 == 1)) else .enc .prefixed
  | 1 => if d == 0 && a == 0 && b == 0 then .ok .lswap else .enc .smallOnly
  | 2 => if a / 32 == 0 && b / 2 == 0 then .ok (.lmm (.ofNat 4 (d / 4)) (.ofNat 2 (d % 4)) (.ofNat 5 (a % 32)) (b % 2 == 1)) else .enc .prefixed
  | 3 => if d % 4 == 0 && a / 16 == 0 && b == 0 then .ok (.lzero (.ofNat 4 (d / 4)) (.ofNat 4 (a % 16))) else .enc .smallOnly
  | 4 => if d % 4 == 0 && a / 32 == 0 && b == 0 then .ok (.ldrn (.ofNat 4 (d / 4)) (.ofNat 5 (a % 32))) else .enc .prefixed
  | 5 => if d / 4 == 0 && a / 16 == 0 && b == 0 then .ok (.lpri (.ofNat 2 (d % 4)) (.ofNat 4 (a % 16))) else .enc .smallOnly
  | 6 => if a == 0 && b == 0 then .ok (.lstat (opnd d)) else .enc .smallOnly
  | 7 => if d == 0 && a == 0 && b == 0 then .ok .lfence else .enc .smallOnly
  | _ => und w

/-- TASK, op4 (R73). -/
def decTask (w : Nat) : Decoded :=
  let md := field w 27 5
  let ma := field w 22 5
  let mb := field w 17 5
  let mo := field w 13 4
  let mr := field w 11 2
  let ms := field w 8 3
  match mo with
  | 0 => if mb == 0 && mr == 0 && ms == 0 then .ok (.start (.ofNat 5 md) (.ofNat 5 ma)) else .enc .control
  | 1 => if md == 0 && mb == 0 && mr == 0 && ms == 0 then .ok (.hwait (.ofNat 5 ma)) else .enc .control
  | 2 => if md == 0 && ma == 0 && mb == 0 && mr == 0 && ms == 0 then .ok .endTask else .enc .plain
  | 3 => if mb == 0 && mr == 0 && ms == 0 then .ok (.sleep (.ofNat 5 md) (.ofNat 5 ma)) else .enc .plain
  | 4 => if ma == 0 && mb == 0 && mr == 0 && ms == 0 then .ok (.selfId (.ofNat 5 md)) else .enc .plain
  | 5 => if mr == 0 && ms == 0 then .ok (.sendMsg (.ofNat 5 md) (.ofNat 5 ma) (.ofNat 5 mb)) else .enc .plain
  | 6 => if md == 0 && mr == 0 && ms == 0 then .ok (.senda (.ofNat 5 ma) (.ofNat 5 mb)) else .enc .plain
  | 7 => if md == 0 && mr == 0 && ms == 0 then .ok (.forkT (.ofNat 5 ma) (.ofNat 5 mb)) else .enc .plain
  | 8 => if md == 0 && mr == 0 && ms == 0 then .ok (.joinT (.ofNat 5 ma) (.ofNat 5 mb)) else .enc .plain
  | 9 => if md == 0 && mb == 0 && mr == 0 && ms == 0 then .ok (.doneB (.ofNat 5 ma)) else .enc .plain
  | 10 => if mb == 0 && mr == 0 && ms == 0 then .ok (.launchI (.ofNat 5 md) (.ofNat 5 ma)) else .enc .plain
  | 11 => if mr == 0 then .ok (.tlwait (.ofNat 5 md) (.ofNat 5 ma) (.ofNat 5 mb) (.ofNat 3 ms)) else .enc .plain
  | 12 => if md == 0 && mr == 0 then .ok (.tlsig (.ofNat 5 ma) (.ofNat 5 mb) (.ofNat 3 ms)) else .enc .plain
  | 13 => if ma == 0 && mb == 0 && mr == 0 && ms == 0 then .ok (.migrate (.ofNat 5 md)) else .enc .noBox
  | _ => und w

/-- GATE, op4 (R73). -/
def decGate (w : Nat) : Decoded :=
  let md := field w 27 5
  let ma := field w 22 5
  let mb := field w 17 5
  let mo := field w 13 4
  let mr := field w 11 2
  let ms := field w 8 3
  match mo with
  | 0 => if mr == 0 && ms == 0 then .ok (.gcall (.ofNat 5 md) (.ofNat 5 ma) (.ofNat 5 mb)) else .enc .plain
  | 1 => if md == 0 && mb == 0 && mr == 0 && ms == 0 then .ok (.gret (.ofNat 5 ma)) else .enc .plain
  | 2 => if mb == 0 && mr == 0 && ms == 0 then .ok (.gpub (.ofNat 5 md) (.ofNat 5 ma)) else .enc .plain
  | 3 => if mr == 0 && ms == 0 then (if mb == 0 then .ok (.grevoke (.ofNat 5 md) (.ofNat 5 ma)) else .ok (.grevokeKill (.ofNat 5 md) (.ofNat 5 ma) (.ofNat 5 mb))) else .enc .plain
  | 4 => if mr == 0 && ms == 0 then .ok (.ginfo (.ofNat 5 md) (.ofNat 5 ma) (.ofNat 5 mb)) else .enc .plain
  | 5 => if mb == 0 && mr == 0 && ms == 0 then .ok (.domid (.ofNat 5 md) (.ofNat 5 ma)) else .enc .plain
  | 6 => if mb == 0 && mr == 0 && ms == 0 then .ok (.kact (.ofNat 5 md) (.ofNat 5 ma)) else .enc .plain
  | 7 => if mb == 0 && mr == 0 && ms == 0 then .ok (.kdeact (.ofNat 5 md) (.ofNat 5 ma)) else .enc .plain
  | 8 => if mr == 0 && ms == 0 then .ok (.scrub (.ofNat 5 md) (.ofNat 5 ma) (.ofNat 5 mb)) else .enc .plain
  | 9 => if mr == 0 && ms == 0 then .ok (.egset (.ofNat 5 md) (.ofNat 5 ma) (.ofNat 5 mb)) else .enc .plain
  | _ => und w

/-- BOX, op4 (R73). -/
def decBox (w : Nat) : Decoded :=
  let md := field w 27 5
  let ma := field w 22 5
  let mb := field w 17 5
  let mo := field w 13 4
  let mr := field w 11 2
  let ms := field w 8 3
  match mo with
  | 0 => if mb == 0 && mr == 0 && ms == 0 then .ok (.compose (.ofNat 5 md) (.ofNat 5 ma)) else .enc .control
  | 1 => if ma == 0 && mb == 0 && mr == 0 && ms == 0 then .ok (.decomp (.ofNat 5 md)) else .enc .smallOnly
  | 2 => if mb == 0 && mr == 0 && ms == 0 then .ok (.timeI (.ofNat 5 md) (.ofNat 5 ma)) else .enc .smallOnly
  | 3 => if mb == 0 && mr == 0 && ms == 0 then .ok (.dlread (.ofNat 5 md) (.ofNat 5 ma)) else .enc .smallOnly
  | 4 => if md == 0 && mr == 0 && ms == 0 then .ok (.pvalid (.ofNat 5 ma) (.ofNat 5 mb)) else .enc .smallOnly
  | 5 => if md == 0 && ma == 0 && mb == 0 && mr == 0 && ms == 0 then .ok .wrapdone else .enc .smallOnly
  | _ => und w

/-- SYS, f6 (R73). -/
def decSys (w : Nat) : Decoded :=
  let d := field w 26 6
  let a := field w 20 6
  let b := field w 14 6
  let f := field w 8 6
  match f with
  | 0 => if d == 0 then .ok (.trapI (.ofNat 12 (64 * a + b))) else .enc .plain
  | 1 => if d == 0 then .ok (.breakI (.ofNat 12 (64 * a + b))) else .enc .plain
  | 2 => if d == 0 && b == 0 then .ok (.eret (opnd a)) else .enc .plain
  | 3 => .ok (.csrr (opnd d) (.ofNat 12 (64 * a + b)))
  | 4 => .ok (.csrw (opnd d) (.ofNat 12 (64 * a + b)))
  | 5 => .ok (.csrs (opnd d) (.ofNat 12 (64 * a + b)))
  | 6 => .ok (.csrc (opnd d) (.ofNat 12 (64 * a + b)))
  | 7 => if d == 0 then .ok (.tlbinv (opnd a) (opnd b)) else .enc .plain
  | 8 => if d == 0 && a == 0 && b == 0 then .ok .tlbsync else .enc .plain
  | 9 => if d == 0 && a == 0 && b == 0 then .ok .wfi else .enc .smallOnly
  | 10 => .ok (.potw (opnd d) (opnd a) (opnd b))
  | 11 => .ok (.ctxsave (opnd d) (opnd a) (opnd b))
  | 12 => .ok (.ctxload (opnd d) (opnd a) (opnd b))
  | _ => und w

/-- GMATH, f6 (R73). -/
def decGmath (w : Nat) : Decoded :=
  let d := field w 26 6
  let a := field w 20 6
  let b := field w 14 6
  let f := field w 8 6
  match f with
  | 0 => .ok (.fdivD (opnd d) (opnd a) (opnd b))
  | 1 => if b == 0 then .ok (.fsqrtD (opnd d) (opnd a)) else .enc .noBox
  | 2 => .ok (.fdivS (opnd d) (opnd a) (opnd b))
  | 3 => if b == 0 then .ok (.fsqrtS (opnd d) (opnd a)) else .enc .noBox
  | 4 => .ok (.mul128 (opnd d) (opnd a) (opnd b))
  | 5 => .ok (.clmul (opnd d) (opnd a) (opnd b))
  | _ => und w

/-- A 32-bit word, by its major opcode (R73, R74). -/
def decode32 (w : Nat) : Decoded :=
  match field w 1 7 with
  | 1 => decIalu w
  | 2 => decIunary w
  | 3 => decBext w
  | 4 => decBins w
  | 5 => decAddi w
  | 6 => decAndImm w
  | 7 => decOrImm w
  | 8 => decXorImm w
  | 9 => decSlti w
  | 10 => decSltiu w
  | 11 => decShi w
  | 12 => decAddiW w
  | 16 => decLi w
  | 17 => decLis w
  | 18 => decLpc w
  | 24 => decJmp w
  | 25 => decCall w
  | 26 => decJr w
  | 32 => decBEq w
  | 33 => decBNe w
  | 34 => decBLt w
  | 35 => decBGe w
  | 36 => decBLtu w
  | 37 => decBGeu w
  | 38 => decBBs w
  | 39 => decBBc w
  | 40 => decLdB w
  | 41 => decLdH w
  | 42 => decLdW w
  | 43 => decLdD w
  | 44 => decLdBu w
  | 45 => decLdHu w
  | 46 => decLdWu w
  | 47 => decStB w
  | 48 => decStH w
  | 49 => decStW w
  | 50 => decStD w
  | 51 => decMemx w
  | 52 => decLdaq w
  | 53 => decStrl w
  | 54 => decAmo w
  | 55 => decAmoW w
  | 56 => decCas w
  | 57 => decCasW w
  | 58 => decFence w
  | 59 => decWaitm w
  | 60 => decPause w
  | 64 => decFopD w
  | 65 => decFopS w
  | 66 => decFmaD w
  | 67 => decFmaS w
  | 68 => decFcvt w
  | 69 => decFmt w
  | 70 => decCbld w
  | 71 => decScale w
  | 80 => decValu w
  | 81 => decVfma w
  | 82 => decVcmp w
  | 83 => decVred w
  | 84 => decVx w
  | 85 => decVperm w
  | 87 => decVcvt w
  | 88 => decVfn w
  | 89 => decVld w
  | 90 => decVst w
  | 91 => decVlds w
  | 92 => decVsts w
  | 93 => decVgath w
  | 94 => decVscat w
  | 95 => decVtile w
  | 96 => decRep w
  | 97 => decTile w
  | 98 => decReel w
  | 99 => decLoft w
  | 104 => decTask w
  | 112 => decGate w
  | 116 => decBox w
  | 120 => decSys w
  | 124 => decGmath w
  | _ => und w

/-- A 16-bit halfword, by op5 (R63, R64). -/
def decode16 (h : Nat) : Decoded :=
  let d := field h 6 5
  let s := field h 1 5
  let n := field h 1 10
  match field h 11 5 with
  | 0 => .ok (.illh (.ofNat 10 n))
  | 1 => .ok (.mov16 (.ofNat 5 d) (.ofNat 5 s))
  | 2 => .ok (.add16 (.ofNat 5 d) (.ofNat 5 s))
  | 3 => .ok (.addi16 (.ofNat 5 d) (.ofNat 5 s))
  | 4 => .ok (.sub16 (.ofNat 5 d) (.ofNat 5 s))
  | 5 => .ok (.and16 (.ofNat 5 d) (.ofNat 5 s))
  | 6 => .ok (.or16 (.ofNat 5 d) (.ofNat 5 s))
  | 7 => .ok (.xor16 (.ofNat 5 d) (.ofNat 5 s))
  | 8 => if s < 16 then .ok (.shli16 (.ofNat 5 d) (.ofNat 4 (s % 16))) else .enc .plain
  | 9 => if s < 16 then .ok (.shri16 (.ofNat 5 d) (.ofNat 4 (s % 16))) else .enc .plain
  | 10 => if s < 16 then .ok (.srai16 (.ofNat 5 d) (.ofNat 4 (s % 16))) else .enc .plain
  | 11 => .ok (.li16 (.ofNat 5 d) (.ofNat 5 s))
  | 12 => .ok (.ld16 (.ofNat 5 d) (.ofNat 5 s))
  | 13 => .ok (.st16 (.ofNat 5 d) (.ofNat 5 s))
  | 14 => .ok (.lds16 (.ofNat 5 d) (.ofNat 5 s))
  | 15 => .ok (.sts16 (.ofNat 5 d) (.ofNat 5 s))
  | 16 => .ok (.beqz (.ofNat 5 d) (.ofNat 5 s))
  | 17 => .ok (.bnez (.ofNat 5 d) (.ofNat 5 s))
  | 18 => .ok (.j (.ofNat 10 n))
  | 19 => if s == 0 then .ok (.jr16 (.ofNat 5 d)) else .enc .plain
  | 20 => if n == 0 then .ok .end16 else .enc .plain
  | 21 => if n == 0 then .ok .pause16 else .enc .plain
  | 22 => if n == 0 then .ok .nop else .enc .plain
  | 23 => .ok (.break16 (.ofNat 10 n))
  | _ => und h

/-- The decoder, on the bits of an instruction numbered as in R60: bit 0 gives the length. -/
def decode (w : Nat) : Decoded :=
  if w % 2 == 0 then decode16 (w % 2 ^ 16) else decode32 (w % 2 ^ 32)

/-- CR, CB and CJ forms with two 5-bit fields (R63). -/
def packCR (op d s : Nat) : Nat := 2 ^ 11 * op + 2 ^ 6 * d + 2 * s

/-- N and CJ forms: one 10-bit field (R63). -/
def packN (op n : Nat) : Nat := 2 ^ 11 * op + 2 * n

/-- Form A and X (R68). -/
def packA (op d a b f : Nat) : Nat := 2 ^ 26 * d + 2 ^ 20 * a + 2 ^ 14 * b + 2 ^ 8 * f + 2 * op + 1

/-- Forms I, S and B (R68). -/
def packI (op d a i : Nat) : Nat := 2 ^ 26 * d + 2 ^ 20 * a + 2 ^ 8 * i + 2 * op + 1

/-- Form U (R68). -/
def packU (op d i : Nat) : Nat := 2 ^ 26 * d + 2 ^ 8 * i + 2 * op + 1

/-- Form J (R68). -/
def packJ (op j : Nat) : Nat := 2 ^ 8 * j + 2 * op + 1

/-- Form M (R68). -/
def packM (op d a b o r s : Nat) : Nat :=
  2 ^ 27 * d + 2 ^ 22 * a + 2 ^ 17 * b + 2 ^ 13 * o + 2 ^ 11 * r + 2 ^ 8 * s + 2 * op + 1

/-- Form V (R68). -/
def packV (op d a b m z f : Nat) : Nat :=
  2 ^ 28 * d + 2 ^ 24 * a + 2 ^ 20 * b + 2 ^ 17 * m + 2 ^ 14 * z + 2 ^ 8 * f + 2 * op + 1

/-- Form VX (R68). -/
def packVX (op d s i z f : Nat) : Nat :=
  2 ^ 28 * d + 2 ^ 22 * s + 2 ^ 16 * i + 2 ^ 13 * z + 2 ^ 8 * f + 2 * op + 1

/-- Form VM (R68). -/
def packVM (op d s o m : Nat) : Nat := 2 ^ 28 * d + 2 ^ 22 * s + 2 ^ 11 * o + 2 ^ 8 * m + 2 * op + 1

/-- Form VT (R68). -/
def packVT (op d t r c f : Nat) : Nat :=
  2 ^ 28 * d + 2 ^ 23 * t + 2 ^ 17 * r + 2 ^ 11 * c + 2 ^ 8 * f + 2 * op + 1

/-- The FMT prefix (R71). -/
def packF (op a b c r t s n z : Nat) : Nat :=
  2 ^ 28 * a + 2 ^ 24 * b + 2 ^ 20 * c + 2 ^ 17 * r + 2 ^ 16 * t + 2 ^ 13 * s + 2 ^ 11 * n + 2 ^ 8 * z + 2 * op + 1

/-- The length in bits and the word of an instruction, from the layouts of R63, R68 and R71; an event has none. -/
def encode : Instr → Option (Nat × Nat)
  | .illh x => some (16, packN 0 x.toNat)
  | .mov16 d s => some (16, packCR 1 d.toNat s.toNat)
  | .add16 d s => some (16, packCR 2 d.toNat s.toNat)
  | .addi16 d i => some (16, packCR 3 d.toNat i.toNat)
  | .sub16 d s => some (16, packCR 4 d.toNat s.toNat)
  | .and16 d s => some (16, packCR 5 d.toNat s.toNat)
  | .or16 d s => some (16, packCR 6 d.toNat s.toNat)
  | .xor16 d s => some (16, packCR 7 d.toNat s.toNat)
  | .shli16 d n => some (16, packCR 8 d.toNat n.toNat)
  | .shri16 d n => some (16, packCR 9 d.toNat n.toNat)
  | .srai16 d n => some (16, packCR 10 d.toNat n.toNat)
  | .li16 d i => some (16, packCR 11 d.toNat i.toNat)
  | .ld16 d o => some (16, packCR 12 d.toNat o.toNat)
  | .st16 s o => some (16, packCR 13 s.toNat o.toNat)
  | .lds16 d o => some (16, packCR 14 d.toNat o.toNat)
  | .sts16 s o => some (16, packCR 15 s.toNat o.toNat)
  | .beqz a o => some (16, packCR 16 a.toNat o.toNat)
  | .bnez a o => some (16, packCR 17 a.toNat o.toNat)
  | .j o => some (16, packN 18 o.toNat)
  | .jr16 a => some (16, packCR 19 a.toNat 0)
  | .end16 => some (16, packCR 20 0 0)
  | .pause16 => some (16, packCR 21 0 0)
  | .nop => some (16, packCR 22 0 0)
  | .break16 c => some (16, packN 23 c.toNat)
  | .add d a b => some (32, packA 1 d.code.toNat a.code.toNat b.code.toNat 0)
  | .sub d a b => some (32, packA 1 d.code.toNat a.code.toNat b.code.toNat 1)
  | .andI d a b => some (32, packA 1 d.code.toNat a.code.toNat b.code.toNat 2)
  | .orI d a b => some (32, packA 1 d.code.toNat a.code.toNat b.code.toNat 3)
  | .xorI d a b => some (32, packA 1 d.code.toNat a.code.toNat b.code.toNat 4)
  | .andn d a b => some (32, packA 1 d.code.toNat a.code.toNat b.code.toNat 5)
  | .shl d a b => some (32, packA 1 d.code.toNat a.code.toNat b.code.toNat 6)
  | .shr d a b => some (32, packA 1 d.code.toNat a.code.toNat b.code.toNat 7)
  | .sra d a b => some (32, packA 1 d.code.toNat a.code.toNat b.code.toNat 8)
  | .rol d a b => some (32, packA 1 d.code.toNat a.code.toNat b.code.toNat 9)
  | .ror d a b => some (32, packA 1 d.code.toNat a.code.toNat b.code.toNat 10)
  | .slt d a b => some (32, packA 1 d.code.toNat a.code.toNat b.code.toNat 11)
  | .sltu d a b => some (32, packA 1 d.code.toNat a.code.toNat b.code.toNat 12)
  | .minI d a b => some (32, packA 1 d.code.toNat a.code.toNat b.code.toNat 13)
  | .maxI d a b => some (32, packA 1 d.code.toNat a.code.toNat b.code.toNat 14)
  | .minu d a b => some (32, packA 1 d.code.toNat a.code.toNat b.code.toNat 15)
  | .maxu d a b => some (32, packA 1 d.code.toNat a.code.toNat b.code.toNat 16)
  | .mul d a b => some (32, packA 1 d.code.toNat a.code.toNat b.code.toNat 17)
  | .mulh d a b => some (32, packA 1 d.code.toNat a.code.toNat b.code.toNat 18)
  | .mulhu d a b => some (32, packA 1 d.code.toNat a.code.toNat b.code.toNat 19)
  | .divI d a b => some (32, packA 1 d.code.toNat a.code.toNat b.code.toNat 20)
  | .divu d a b => some (32, packA 1 d.code.toNat a.code.toNat b.code.toNat 21)
  | .remI d a b => some (32, packA 1 d.code.toNat a.code.toNat b.code.toNat 22)
  | .remu d a b => some (32, packA 1 d.code.toNat a.code.toNat b.code.toNat 23)
  | .sel d a b => some (32, packA 1 d.code.toNat a.code.toNat b.code.toNat 24)
  | .addW d a b => some (32, packA 1 d.code.toNat a.code.toNat b.code.toNat 25)
  | .subW d a b => some (32, packA 1 d.code.toNat a.code.toNat b.code.toNat 26)
  | .shlW d a b => some (32, packA 1 d.code.toNat a.code.toNat b.code.toNat 27)
  | .shrW d a b => some (32, packA 1 d.code.toNat a.code.toNat b.code.toNat 28)
  | .sraW d a b => some (32, packA 1 d.code.toNat a.code.toNat b.code.toNat 29)
  | .mulW d a b => some (32, packA 1 d.code.toNat a.code.toNat b.code.toNat 30)
  | .clz d a => some (32, packA 2 d.code.toNat a.code.toNat 0 0)
  | .ctz d a => some (32, packA 2 d.code.toNat a.code.toNat 0 1)
  | .popc d a => some (32, packA 2 d.code.toNat a.code.toNat 0 2)
  | .sextB d a => some (32, packA 2 d.code.toNat a.code.toNat 0 3)
  | .sextH d a => some (32, packA 2 d.code.toNat a.code.toNat 0 4)
  | .sextW d a => some (32, packA 2 d.code.toNat a.code.toNat 0 5)
  | .zextB d a => some (32, packA 2 d.code.toNat a.code.toNat 0 6)
  | .zextH d a => some (32, packA 2 d.code.toNat a.code.toNat 0 7)
  | .zextW d a => some (32, packA 2 d.code.toNat a.code.toNat 0 8)
  | .brev d a => some (32, packA 2 d.code.toNat a.code.toNat 0 9)
  | .bswap d a => some (32, packA 2 d.code.toNat a.code.toNat 0 10)
  | .bext d a l p => some (32, packI 3 d.code.toNat a.code.toNat (64 * l.toNat + p.toNat))
  | .bins d a l p => some (32, packI 4 d.code.toNat a.code.toNat (64 * l.toNat + p.toNat))
  | .addi d a i => some (32, packI 5 d.code.toNat a.code.toNat i.toNat)
  | .andImm d a i => some (32, packI 6 d.code.toNat a.code.toNat i.toNat)
  | .orImm d a i => some (32, packI 7 d.code.toNat a.code.toNat i.toNat)
  | .xorImm d a i => some (32, packI 8 d.code.toNat a.code.toNat i.toNat)
  | .slti d a i => some (32, packI 9 d.code.toNat a.code.toNat i.toNat)
  | .sltiu d a i => some (32, packI 10 d.code.toNat a.code.toNat i.toNat)
  | .shli d a n => some (32, packI 11 d.code.toNat a.code.toNat n.toNat)
  | .shri d a n => some (32, packI 11 d.code.toNat a.code.toNat (n.toNat + 1024))
  | .srai d a n => some (32, packI 11 d.code.toNat a.code.toNat (n.toNat + 2048))
  | .rori d a n => some (32, packI 11 d.code.toNat a.code.toNat (n.toNat + 3072))
  | .addiW d a i => some (32, packI 12 d.code.toNat a.code.toNat i.toNat)
  | .li d i => some (32, packU 16 d.code.toNat i.toNat)
  | .lis d i => some (32, packU 17 d.code.toNat i.toNat)
  | .lpc d i => some (32, packU 18 d.code.toNat i.toNat)
  | .jmp o => some (32, packJ 24 o.toNat)
  | .call o => some (32, packJ 25 o.toNat)
  | .jr d a i => some (32, packI 26 d.code.toNat a.code.toNat i.toNat)
  | .bEq a b o => some (32, packI 32 a.code.toNat b.code.toNat o.toNat)
  | .bNe a b o => some (32, packI 33 a.code.toNat b.code.toNat o.toNat)
  | .bLt a b o => some (32, packI 34 a.code.toNat b.code.toNat o.toNat)
  | .bGe a b o => some (32, packI 35 a.code.toNat b.code.toNat o.toNat)
  | .bLtu a b o => some (32, packI 36 a.code.toNat b.code.toNat o.toNat)
  | .bGeu a b o => some (32, packI 37 a.code.toNat b.code.toNat o.toNat)
  | .bBs a b o => some (32, packI 38 a.code.toNat b.code.toNat o.toNat)
  | .bBc a b o => some (32, packI 39 a.code.toNat b.code.toNat o.toNat)
  | .ldB d b i => some (32, packI 40 d.code.toNat b.code.toNat i.toNat)
  | .ldH d b i => some (32, packI 41 d.code.toNat b.code.toNat i.toNat)
  | .ldW d b i => some (32, packI 42 d.code.toNat b.code.toNat i.toNat)
  | .ldD d b i => some (32, packI 43 d.code.toNat b.code.toNat i.toNat)
  | .ldBu d b i => some (32, packI 44 d.code.toNat b.code.toNat i.toNat)
  | .ldHu d b i => some (32, packI 45 d.code.toNat b.code.toNat i.toNat)
  | .ldWu d b i => some (32, packI 46 d.code.toNat b.code.toNat i.toNat)
  | .stB d b i => some (32, packI 47 d.code.toNat b.code.toNat i.toNat)
  | .stH d b i => some (32, packI 48 d.code.toNat b.code.toNat i.toNat)
  | .stW d b i => some (32, packI 49 d.code.toNat b.code.toNat i.toNat)
  | .stD d b i => some (32, packI 50 d.code.toNat b.code.toNat i.toNat)
  | .ldx d a b z s => some (32, packA 51 d.code.toNat a.code.toNat b.code.toNat (4 * z.toNat + s.toNat))
  | .ldxu d a b z s => some (32, packA 51 d.code.toNat a.code.toNat b.code.toNat (4 * z.toNat + s.toNat + 16))
  | .stx d a b z s => some (32, packA 51 d.code.toNat a.code.toNat b.code.toNat (4 * z.toNat + s.toNat + 32))
  | .ldaq d a z s => some (32, packM 52 d.toNat a.toNat 0 z.toNat 1 s.toNat)
  | .strl d a z s => some (32, packM 53 d.toNat a.toNat 0 z.toNat 2 s.toNat)
  | .amoAdd d a b o s => some (32, packM 54 d.toNat a.toNat b.toNat 0 o.toNat s.toNat)
  | .amoAnd d a b o s => some (32, packM 54 d.toNat a.toNat b.toNat 1 o.toNat s.toNat)
  | .amoOr d a b o s => some (32, packM 54 d.toNat a.toNat b.toNat 2 o.toNat s.toNat)
  | .amoXor d a b o s => some (32, packM 54 d.toNat a.toNat b.toNat 3 o.toNat s.toNat)
  | .amoMin d a b o s => some (32, packM 54 d.toNat a.toNat b.toNat 4 o.toNat s.toNat)
  | .amoMax d a b o s => some (32, packM 54 d.toNat a.toNat b.toNat 5 o.toNat s.toNat)
  | .amoMinu d a b o s => some (32, packM 54 d.toNat a.toNat b.toNat 6 o.toNat s.toNat)
  | .amoMaxu d a b o s => some (32, packM 54 d.toNat a.toNat b.toNat 7 o.toNat s.toNat)
  | .amoSwap d a b o s => some (32, packM 54 d.toNat a.toNat b.toNat 8 o.toNat s.toNat)
  | .amoFadd d a b o s => some (32, packM 54 d.toNat a.toNat b.toNat 9 o.toNat s.toNat)
  | .amoFmax d a b o s => some (32, packM 54 d.toNat a.toNat b.toNat 10 o.toNat s.toNat)
  | .amoFmin d a b o s => some (32, packM 54 d.toNat a.toNat b.toNat 11 o.toNat s.toNat)
  | .amoFamax d a b o s => some (32, packM 54 d.toNat a.toNat b.toNat 12 o.toNat s.toNat)
  | .amoWAdd d a b o s => some (32, packM 55 d.toNat a.toNat b.toNat 0 o.toNat s.toNat)
  | .amoWAnd d a b o s => some (32, packM 55 d.toNat a.toNat b.toNat 1 o.toNat s.toNat)
  | .amoWOr d a b o s => some (32, packM 55 d.toNat a.toNat b.toNat 2 o.toNat s.toNat)
  | .amoWXor d a b o s => some (32, packM 55 d.toNat a.toNat b.toNat 3 o.toNat s.toNat)
  | .amoWMin d a b o s => some (32, packM 55 d.toNat a.toNat b.toNat 4 o.toNat s.toNat)
  | .amoWMax d a b o s => some (32, packM 55 d.toNat a.toNat b.toNat 5 o.toNat s.toNat)
  | .amoWMinu d a b o s => some (32, packM 55 d.toNat a.toNat b.toNat 6 o.toNat s.toNat)
  | .amoWMaxu d a b o s => some (32, packM 55 d.toNat a.toNat b.toNat 7 o.toNat s.toNat)
  | .amoWSwap d a b o s => some (32, packM 55 d.toNat a.toNat b.toNat 8 o.toNat s.toNat)
  | .amoWFadd d a b o s => some (32, packM 55 d.toNat a.toNat b.toNat 9 o.toNat s.toNat)
  | .amoWFmax d a b o s => some (32, packM 55 d.toNat a.toNat b.toNat 10 o.toNat s.toNat)
  | .amoWFmin d a b o s => some (32, packM 55 d.toNat a.toNat b.toNat 11 o.toNat s.toNat)
  | .amoWFamax d a b o s => some (32, packM 55 d.toNat a.toNat b.toNat 12 o.toNat s.toNat)
  | .cas d a b o s => some (32, packM 56 d.toNat a.toNat b.toNat 0 o.toNat s.toNat)
  | .casW d a b o s => some (32, packM 57 d.toNat a.toNat b.toNat 0 o.toNat s.toNat)
  | .fence f k s => some (32, packM 58 0 0 0 f.toNat k.toNat s.toNat)
  | .waitm d a b c o s => some (32, packM 59 d.toNat a.toNat b.toNat c.toNat o.toNat s.toNat)
  | .pause n => some (32, packI 60 0 0 n.toNat)
  | .faddD d a b r => some (32, packA 64 d.code.toNat a.code.toNat b.code.toNat r.code.toNat)
  | .fsubD d a b r => some (32, packA 64 d.code.toNat a.code.toNat b.code.toNat (r.code.toNat + 4))
  | .fmulD d a b r => some (32, packA 64 d.code.toNat a.code.toNat b.code.toNat (r.code.toNat + 8))
  | .fminD d a b => some (32, packA 64 d.code.toNat a.code.toNat b.code.toNat 12)
  | .fmaxD d a b => some (32, packA 64 d.code.toNat a.code.toNat b.code.toNat 16)
  | .fcmpeqD d a b => some (32, packA 64 d.code.toNat a.code.toNat b.code.toNat 20)
  | .fcmpltD d a b => some (32, packA 64 d.code.toNat a.code.toNat b.code.toNat 24)
  | .fcmpleD d a b => some (32, packA 64 d.code.toNat a.code.toNat b.code.toNat 28)
  | .fsgnjD d a b => some (32, packA 64 d.code.toNat a.code.toNat b.code.toNat 32)
  | .fsgnjnD d a b => some (32, packA 64 d.code.toNat a.code.toNat b.code.toNat 36)
  | .fsgnjxD d a b => some (32, packA 64 d.code.toNat a.code.toNat b.code.toNat 40)
  | .fclassD d a => some (32, packA 64 d.code.toNat a.code.toNat 0 44)
  | .frcpD d a r => some (32, packA 64 d.code.toNat a.code.toNat 0 (r.code.toNat + 48))
  | .frsqD d a r => some (32, packA 64 d.code.toNat a.code.toNat 0 (r.code.toNat + 52))
  | .faddS d a b r => some (32, packA 65 d.code.toNat a.code.toNat b.code.toNat r.code.toNat)
  | .fsubS d a b r => some (32, packA 65 d.code.toNat a.code.toNat b.code.toNat (r.code.toNat + 4))
  | .fmulS d a b r => some (32, packA 65 d.code.toNat a.code.toNat b.code.toNat (r.code.toNat + 8))
  | .fminS d a b => some (32, packA 65 d.code.toNat a.code.toNat b.code.toNat 12)
  | .fmaxS d a b => some (32, packA 65 d.code.toNat a.code.toNat b.code.toNat 16)
  | .fcmpeqS d a b => some (32, packA 65 d.code.toNat a.code.toNat b.code.toNat 20)
  | .fcmpltS d a b => some (32, packA 65 d.code.toNat a.code.toNat b.code.toNat 24)
  | .fcmpleS d a b => some (32, packA 65 d.code.toNat a.code.toNat b.code.toNat 28)
  | .fsgnjS d a b => some (32, packA 65 d.code.toNat a.code.toNat b.code.toNat 32)
  | .fsgnjnS d a b => some (32, packA 65 d.code.toNat a.code.toNat b.code.toNat 36)
  | .fsgnjxS d a b => some (32, packA 65 d.code.toNat a.code.toNat b.code.toNat 40)
  | .fclassS d a => some (32, packA 65 d.code.toNat a.code.toNat 0 44)
  | .frcpS d a r => some (32, packA 65 d.code.toNat a.code.toNat 0 (r.code.toNat + 48))
  | .frsqS d a r => some (32, packA 65 d.code.toNat a.code.toNat 0 (r.code.toNat + 52))
  | .fmaD d a b r => some (32, packA 66 d.code.toNat a.code.toNat b.code.toNat (4 * r.code.toNat))
  | .fmsD d a b r => some (32, packA 66 d.code.toNat a.code.toNat b.code.toNat (4 * r.code.toNat + 1))
  | .fnmaD d a b r => some (32, packA 66 d.code.toNat a.code.toNat b.code.toNat (4 * r.code.toNat + 2))
  | .fnmsD d a b r => some (32, packA 66 d.code.toNat a.code.toNat b.code.toNat (4 * r.code.toNat + 3))
  | .fmaS d a b r => some (32, packA 67 d.code.toNat a.code.toNat b.code.toNat (4 * r.code.toNat))
  | .fmsS d a b r => some (32, packA 67 d.code.toNat a.code.toNat b.code.toNat (4 * r.code.toNat + 1))
  | .fnmaS d a b r => some (32, packA 67 d.code.toNat a.code.toNat b.code.toNat (4 * r.code.toNat + 2))
  | .fnmsS d a b r => some (32, packA 67 d.code.toNat a.code.toNat b.code.toNat (4 * r.code.toNat + 3))
  | .fcvt d a r f t => some (32, packA 68 d.code.toNat a.code.toNat r.code.toNat (8 * f.code.toNat + t.code.toNat))
  | .fmt a b c r t s n => some (32, packF 69 a.toNat b.toNat c.toNat r.toNat t.toNat s.toNat n.toNat 0)
  | .cbld n b i => some (32, packI 70 n.toNat b.code.toNat i.toNat)
  | .scset n a => some (32, packA 71 n.toNat a.code.toNat 0 0)
  | .scget d n => some (32, packA 71 d.code.toNat n.toNat 0 1)
  | .vadd d a b m s => some (32, packV 80 d.toNat a.toNat b.toNat m.toNat s.code.toNat 0)
  | .vsub d a b m s => some (32, packV 80 d.toNat a.toNat b.toNat m.toNat s.code.toNat 1)
  | .vmul d a b m s => some (32, packV 80 d.toNat a.toNat b.toNat m.toNat s.code.toNat 2)
  | .vmin d a b m s => some (32, packV 80 d.toNat a.toNat b.toNat m.toNat s.code.toNat 3)
  | .vmax d a b m s => some (32, packV 80 d.toNat a.toNat b.toNat m.toNat s.code.toNat 4)
  | .vand d a b m s => some (32, packV 80 d.toNat a.toNat b.toNat m.toNat s.code.toNat 5)
  | .vor d a b m s => some (32, packV 80 d.toNat a.toNat b.toNat m.toNat s.code.toNat 6)
  | .vxor d a b m s => some (32, packV 80 d.toNat a.toNat b.toNat m.toNat s.code.toNat 7)
  | .vandn d a b m s => some (32, packV 80 d.toNat a.toNat b.toNat m.toNat s.code.toNat 8)
  | .vshl d a b m s => some (32, packV 80 d.toNat a.toNat b.toNat m.toNat s.code.toNat 9)
  | .vshr d a b m s => some (32, packV 80 d.toNat a.toNat b.toNat m.toNat s.code.toNat 10)
  | .vsra d a b m s => some (32, packV 80 d.toNat a.toNat b.toNat m.toNat s.code.toNat 11)
  | .vabs d a m s => some (32, packV 80 d.toNat a.toNat 0 m.toNat s.code.toNat 12)
  | .vneg d a m s => some (32, packV 80 d.toNat a.toNat 0 m.toNat s.code.toNat 13)
  | .vsel d a b m s => some (32, packV 80 d.toNat a.toNat b.toNat m.toNat s.code.toNat 14)
  | .vmov d a m s => some (32, packV 80 d.toNat a.toNat 0 m.toNat s.code.toNat 15)
  | .vmulh d a b m s => some (32, packV 80 d.toNat a.toNat b.toNat m.toNat s.code.toNat 16)
  | .vadds d a b m s => some (32, packV 80 d.toNat a.toNat b.toNat m.toNat s.code.toNat 17)
  | .vsubs d a b m s => some (32, packV 80 d.toNat a.toNat b.toNat m.toNat s.code.toNat 18)
  | .vfma d a b m s r => some (32, packV 81 d.toNat a.toNat b.toNat m.toNat s.code.toNat (4 * r.code.toNat))
  | .vfms d a b m s r => some (32, packV 81 d.toNat a.toNat b.toNat m.toNat s.code.toNat (4 * r.code.toNat + 1))
  | .vfnma d a b m s r => some (32, packV 81 d.toNat a.toNat b.toNat m.toNat s.code.toNat (4 * r.code.toNat + 2))
  | .vfnms d a b m s r => some (32, packV 81 d.toNat a.toNat b.toNat m.toNat s.code.toNat (4 * r.code.toNat + 3))
  | .vcmp n a b m s c => some (32, packV 82 n.toNat a.toNat b.toNat m.toNat s.code.toNat c.toNat)
  | .vredadd d a m s => some (32, packV 83 d.toNat a.toNat 0 m.toNat s.code.toNat 0)
  | .vredmin d a m s => some (32, packV 83 d.toNat a.toNat 0 m.toNat s.code.toNat 1)
  | .vredmax d a m s => some (32, packV 83 d.toNat a.toNat 0 m.toNat s.code.toNat 2)
  | .vredamax d a m s => some (32, packV 83 d.toNat a.toNat 0 m.toNat s.code.toNat 3)
  | .vredor d a m s => some (32, packV 83 d.toNat a.toNat 0 m.toNat s.code.toNat 4)
  | .vredand d a m s => some (32, packV 83 d.toNat a.toNat 0 m.toNat s.code.toNat 5)
  | .vbcast d s z => some (32, packVX 84 d.toNat s.code.toNat 0 z.code.toNat 0)
  | .vins d s i z => some (32, packVX 84 d.toNat s.code.toNat i.code.toNat z.code.toNat 1)
  | .vextr d s i z => some (32, packVX 84 d.toNat s.code.toNat i.code.toNat z.code.toNat 2)
  | .vperm d a b s => some (32, packV 85 d.toNat a.toNat b.toNat 0 s.code.toNat 0)
  | .vslideup d a b s => some (32, packV 85 d.toNat a.toNat b.toNat 0 s.code.toNat 1)
  | .vslidedn d a b s => some (32, packV 85 d.toNat a.toNat b.toNat 0 s.code.toNat 2)
  | .vzip d a b s => some (32, packV 85 d.toNat a.toNat b.toNat 0 s.code.toNat 3)
  | .vunzip d a b s => some (32, packV 85 d.toNat a.toNat b.toNat 0 s.code.toNat 4)
  | .viota d s => some (32, packV 85 d.toNat 0 0 0 s.code.toNat 5)
  | .vcvt d a u t => some (32, packV 87 d.toNat a.toNat 0 u.code.toNat t.code.toNat 0)
  | .vcvtLo d a u t => some (32, packV 87 d.toNat a.toNat 0 u.code.toNat t.code.toNat 1)
  | .vcvtHi d a u t => some (32, packV 87 d.toNat a.toNat 0 u.code.toNat t.code.toNat 2)
  | .vcvtNarrow d a b u t => some (32, packV 87 d.toNat a.toNat b.toNat u.code.toNat t.code.toNat 3)
  | .vpack d a p => some (32, packV 87 d.toNat a.toNat 0 0 0 (p.toNat + 8))
  | .vunpkLo d a => some (32, packV 87 d.toNat a.toNat 0 0 0 16)
  | .vunpkHi d a => some (32, packV 87 d.toNat a.toNat 0 0 0 17)
  | .vdeq d a p => some (32, packV 87 d.toNat a.toNat 0 0 0 (p.toNat + 24))
  | .vscale d a => some (32, packV 87 d.toNat a.toNat 0 0 0 32)
  | .vqnt d a b p => some (32, packV 87 d.toNat a.toNat b.toNat 0 0 (p.toNat + 40))
  | .vrcp d a m s => some (32, packV 88 d.toNat a.toNat 0 m.toNat s.code.toNat 0)
  | .vrsq d a m s => some (32, packV 88 d.toNat a.toNat 0 m.toNat s.code.toNat 1)
  | .vexp2 d a m s => some (32, packV 88 d.toNat a.toNat 0 m.toNat s.code.toNat 2)
  | .vlog2 d a m s => some (32, packV 88 d.toNat a.toNat 0 m.toNat s.code.toNat 3)
  | .vld d s o m => some (32, packVM 89 d.toNat s.code.toNat o.toNat m.toNat)
  | .vst d s o m => some (32, packVM 90 d.toNat s.code.toNat o.toNat m.toNat)
  | .vlds d s i z m => some (32, packVX 91 d.toNat s.code.toNat i.code.toNat z.code.toNat m.toNat)
  | .vsts d s i z m => some (32, packVX 92 d.toNat s.code.toNat i.code.toNat z.code.toNat m.toNat)
  | .vgath d s x z m => some (32, packVX 93 d.toNat s.code.toNat x.toNat z.code.toNat m.toNat)
  | .vscat d s x z m => some (32, packVX 94 d.toNat s.code.toNat x.toNat z.code.toNat m.toNat)
  | .vldt d t r c => some (32, packVT 95 d.toNat t.toNat r.toNat c.toNat 0)
  | .vstt d t r c => some (32, packVT 95 d.toNat t.toNat r.toNat c.toNat 1)
  | .rep n c s f => some (32, packA 96 n.toNat c.code.toNat s.toNat f.toNat)
  | .tset t a b => some (32, packA 97 t.toNat a.code.toNat b.code.toNat 0)
  | .tstate d t s => some (32, packA 97 d.code.toNat t.toNat s.toNat 1)
  | .tdrain d t => some (32, packA 97 d.code.toNat t.toNat 0 2)
  | .tfree t => some (32, packA 97 t.toNat 0 0 3)
  | .twait t => some (32, packA 97 t.toNat 0 0 4)
  | .rget t a b => some (32, packA 98 t.toNat a.code.toNat b.code.toNat 0)
  | .rput t a b => some (32, packA 98 t.toNat a.code.toNat b.code.toNat 1)
  | .rcopy d a => some (32, packA 98 d.code.toNat a.code.toNat 0 2)
  | .rred d a => some (32, packA 98 d.code.toNat a.code.toNat 0 3)
  | .rgath t a b => some (32, packA 98 t.toNat a.code.toNat b.code.toNat 4)
  | .rscat t a b => some (32, packA 98 t.toNat a.code.toNat b.code.toNat 5)
  | .rmcast d a => some (32, packA 98 d.code.toNat a.code.toNat 0 6)
  | .rstat d => some (32, packA 98 d.code.toNat 0 0 7)
  | .rctx d a b => some (32, packA 98 d.code.toNat a.code.toNat b.code.toNat 8)
  | .lbld s t => some (32, packA 99 0 s.toNat t.toNat 0)
  | .lswap => some (32, packA 99 0 0 0 1)
  | .lmm r e s c => some (32, packA 99 (4 * r.toNat + e.toNat) s.toNat c.toNat 2)
  | .lzero r m => some (32, packA 99 (4 * r.toNat) m.toNat 0 3)
  | .ldrn r s => some (32, packA 99 (4 * r.toNat) s.toNat 0 4)
  | .lpri p w => some (32, packA 99 p.toNat w.toNat 0 5)
  | .lstat d => some (32, packA 99 d.code.toNat 0 0 6)
  | .lfence => some (32, packA 99 0 0 0 7)
  | .start d a => some (32, packM 104 d.toNat a.toNat 0 0 0 0)
  | .hwait a => some (32, packM 104 0 a.toNat 0 1 0 0)
  | .endTask => some (32, packM 104 0 0 0 2 0 0)
  | .sleep d a => some (32, packM 104 d.toNat a.toNat 0 3 0 0)
  | .selfId d => some (32, packM 104 d.toNat 0 0 4 0 0)
  | .sendMsg d a b => some (32, packM 104 d.toNat a.toNat b.toNat 5 0 0)
  | .senda a b => some (32, packM 104 0 a.toNat b.toNat 6 0 0)
  | .forkT a b => some (32, packM 104 0 a.toNat b.toNat 7 0 0)
  | .joinT a b => some (32, packM 104 0 a.toNat b.toNat 8 0 0)
  | .doneB a => some (32, packM 104 0 a.toNat 0 9 0 0)
  | .launchI d a => some (32, packM 104 d.toNat a.toNat 0 10 0 0)
  | .tlwait d a b s => some (32, packM 104 d.toNat a.toNat b.toNat 11 0 s.toNat)
  | .tlsig a b s => some (32, packM 104 0 a.toNat b.toNat 12 0 s.toNat)
  | .migrate d => some (32, packM 104 d.toNat 0 0 13 0 0)
  | .gcall d a b => some (32, packM 112 d.toNat a.toNat b.toNat 0 0 0)
  | .gret a => some (32, packM 112 0 a.toNat 0 1 0 0)
  | .gpub d a => some (32, packM 112 d.toNat a.toNat 0 2 0 0)
  | .grevoke d a => some (32, packM 112 d.toNat a.toNat 0 3 0 0)
  | .grevokeKill d a b => some (32, packM 112 d.toNat a.toNat b.toNat 3 0 0)
  | .ginfo d a b => some (32, packM 112 d.toNat a.toNat b.toNat 4 0 0)
  | .domid d a => some (32, packM 112 d.toNat a.toNat 0 5 0 0)
  | .kact d a => some (32, packM 112 d.toNat a.toNat 0 6 0 0)
  | .kdeact d a => some (32, packM 112 d.toNat a.toNat 0 7 0 0)
  | .scrub d a b => some (32, packM 112 d.toNat a.toNat b.toNat 8 0 0)
  | .egset d a b => some (32, packM 112 d.toNat a.toNat b.toNat 9 0 0)
  | .compose d a => some (32, packM 116 d.toNat a.toNat 0 0 0 0)
  | .decomp d => some (32, packM 116 d.toNat 0 0 1 0 0)
  | .timeI d a => some (32, packM 116 d.toNat a.toNat 0 2 0 0)
  | .dlread d a => some (32, packM 116 d.toNat a.toNat 0 3 0 0)
  | .pvalid a b => some (32, packM 116 0 a.toNat b.toNat 4 0 0)
  | .wrapdone => some (32, packM 116 0 0 0 5 0 0)
  | .trapI c => some (32, packA 120 0 (c.toNat / 64) (c.toNat % 64) 0)
  | .breakI c => some (32, packA 120 0 (c.toNat / 64) (c.toNat % 64) 1)
  | .eret a => some (32, packA 120 0 a.code.toNat 0 2)
  | .csrr d n => some (32, packA 120 d.code.toNat (n.toNat / 64) (n.toNat % 64) 3)
  | .csrw s n => some (32, packA 120 s.code.toNat (n.toNat / 64) (n.toNat % 64) 4)
  | .csrs s n => some (32, packA 120 s.code.toNat (n.toNat / 64) (n.toNat % 64) 5)
  | .csrc s n => some (32, packA 120 s.code.toNat (n.toNat / 64) (n.toNat % 64) 6)
  | .tlbinv a b => some (32, packA 120 0 a.code.toNat b.code.toNat 7)
  | .tlbsync => some (32, packA 120 0 0 0 8)
  | .wfi => some (32, packA 120 0 0 0 9)
  | .potw d a b => some (32, packA 120 d.code.toNat a.code.toNat b.code.toNat 10)
  | .ctxsave d a b => some (32, packA 120 d.code.toNat a.code.toNat b.code.toNat 11)
  | .ctxload d a b => some (32, packA 120 d.code.toNat a.code.toNat b.code.toNat 12)
  | .fdivD d a b => some (32, packA 124 d.code.toNat a.code.toNat b.code.toNat 0)
  | .fsqrtD d a => some (32, packA 124 d.code.toNat a.code.toNat 0 1)
  | .fdivS d a b => some (32, packA 124 d.code.toNat a.code.toNat b.code.toNat 2)
  | .fsqrtS d a => some (32, packA 124 d.code.toNat a.code.toNat 0 3)
  | .mul128 d a b => some (32, packA 124 d.code.toNat a.code.toNat b.code.toNat 4)
  | .clmul d a b => some (32, packA 124 d.code.toNat a.code.toNat b.code.toNat 5)
  | .submissionDoorbell _ _ _ => none
  | .launchAdmission _ => none
  | .leafStart _ _ => none
  | .taskDispatch _ => none
  | .messageArrival _ => none
  | .barrierPhaseRelease _ _ => none
  | .launchEnd _ => none
  | .engineBeat _ _ => none
  | .engineCommandCompletion _ => none
  | .kStepBoundary _ => none
  | .lbldStart _ => none
  | .lbldCompletion _ => none
  | .ldrnCompletion _ => none
  | .ldrnStart _ => none
  | .lzeroStart _ => none
  | .lswapExchange _ => none
  | .lstatStart _ => none
  | .deadlineExpiry _ => none
  | .wrapUpBudgetOverrun _ => none
  | .gateBudgetOverrun _ _ => none
  | .cleanupBudgetOverrun _ => none
  | .gateWrapUpOverrun _ => none
  | .watchdogExpiry _ => none
  | .allasleepTrap _ => none
  | .sleepTimeLimit _ => none
  | .pauseExpiry _ => none
  | .handlerStart _ => none
  | .impreciseFaultStop _ => none
  | .taskSuspension _ => none
  | .colourCutClose _ => none
  | .flightSaveComplete _ => none
  | .flightRestoreComplete _ => none
  | .timeSliceStart _ => none
  | .timeSliceEnd _ => none
  | .awaitLoadTimeout _ => none
  | .sendForwardingExpiry _ => none
  | .invalidationAcknowledge _ => none
  | .atsInvalidationCompletion => none
  | .timelineWake _ _ _ => none
  | .remoteAtomic _ _ _ _ => none
  | .apertureAccess _ _ _ => none
  | .apertureAtomicop _ _ _ => none
  | .apertureDomainWrite _ _ => none
  | .partitionEnable _ => none
  | .partitionDisable _ => none
  | .moveOffer _ _ => none
  | .moveCancel => none
  | .removalAcknowledge _ => none
  | .scrubbingComplete => none
  | .registerWrite _ _ _ => none
  | .hotReset => none
  | .packageReset => none
  | .powerOnBoot _ => none
  | .firmwareUpdate _ _ => none
  | .thermalTrip => none
  | .throttleStep _ => none
  | .ptpSynchronisation _ _ _ => none
  | .holdover _ => none
  | .flitReceive _ _ _ => none
  | .negativeAcknowledge _ _ => none
  | .portRetrain _ _ => none
  | .attestationRequest _ _ => none
  | .ill b => some (32, b.toNat)
  | .egressBucketRefill _ _ _ => none
  | .queueEnable _ _ => none
  | .debugAttach _ _ => none
  | .logCheckpointRequest _ => none
  | .remoteAccess _ _ _ => none

/-- The bits of an instruction as trap records show them (R59): its word, zero-extended. -/
def Instr.bits (i : Instr) : Nat :=
  match encode i with
  | some (_, w) => w
  | none => 0

/-- The instruction the decoder reads from the bits w, numbered as spec/opcode_table.json numbers them. -/
def decodeTableWord (_nbits w : Nat) : Option Instr :=
  match decode w with
  | .ok i => some i
  | .enc _ => none

/-- The major opcode of a 32-bit instruction (R73); 16-bit ones, by bits 15:11 (R64), stand at 128 and above, and an event has
none. -/
def Instr.major (i : Instr) : Option Nat :=
  match encode i with
  | some (32, w) => some (w / 2 % 128)
  | some (_, w) => some (128 + w / 2048 % 32)
  | none => none

/-- Whether an instruction belongs to the vector stream (R45, R73). -/
def Instr.vector (i : Instr) : Bool :=
  match i.major with
  | some op => op == 0x45 || (0x50 ≤ op && op ≤ 0x60) || op == 0x63
  | none => false

/-- Whether an instruction is FMT or REP (R71, R177): it makes the instructions after it what they are. -/
def Instr.isControl (i : Instr) : Bool := i.major == some 0x45 || i.major == some 0x60

/-- Whether an instruction enters a command into the loft queue (R213): any of the LOFT group but LPRI and LFENCE. -/
def Instr.entersLoft (i : Instr) : Bool :=
  match i with
  | .lpri _ _ | .lfence => false
  | _ => i.major == some 0x63

/-- What a scalar-stream instruction reaches beside its context: nothing but registers and the PC, an address by a plain load or
store, or more (R45, R46). -/
inductive Reach where
  | registers | access | more
  deriving DecidableEq, Repr

def Instr.reach (i : Instr) : Reach :=
  match i.major with
  | none => .more
  | some op =>
    if op ≤ 0x27 || (0x40 ≤ op && op ≤ 0x44) || op == 0x47 then .registers
    else if op ≤ 0x34 || op == 0x46 || (140 ≤ op && op ≤ 143) then .access
    else if 128 ≤ op && op != 148 then .registers
    else match i with
      | .csrr _ _ | .csrw _ _ | .csrs _ _ | .csrc _ _ | .trapI _ | .breakI _ | .tstate _ _ _ | .pause _ | .rstat _ | .hwait _
      | .selfId _ | .domid _ _ | .ginfo _ _ _ | .timeI _ _ | .dlread _ _ => .registers
      | _ => .more

end Sys2Proof
end
end

