-- ==== Sys2Proof/Machine/Rotate.lean ====
section
/-!
DEFINITION. The rotation of register fields inside a REP body (R23, R179), and an instruction's bits before rotation.
-/
noncomputable section
namespace Sys2Proof.Machine

/-- The amount added on this pass. -/
def Rep.shift (r : Rep) : Nat := r.pass * r.stride.toNat

/-- A v field of position k (2, 3 or 4, the flag's bit), rotated. -/
def Rep.v (r : Rep) (k : Nat) (x : VReg) : VReg :=
  if r.flags.getLsbD k && r.flags.getLsbD 1 then x + BitVec.ofNat 4 r.shift else x

/-- A w number of position k, rotated. -/
def Rep.wn (r : Rep) (k : Nat) (x : WReg) : WReg :=
  if r.flags.getLsbD k && r.flags.getLsbD 0 then x + BitVec.ofNat 5 r.shift else x

/-- A specifier of position k: a w specifier rotates, any other stays. -/
def Rep.w (r : Rep) (k : Nat) (x : Opnd) : Opnd :=
  match x with
  | .w n => .w (r.wn k n)
  | y => y

/-- An instruction of a REP body as it executes on the repetition's pass (R179). Instructions that no body may hold,
and those without a field that can rotate, stay as they are. DESIGN CHOICE (log 54): a field that the instruction does not use
stays zero. -/
def rotate (rp : Rep) : Instr → Instr
  | .mov16 d s => .mov16 (rp.wn 2 d) (rp.wn 3 s)
  | .add16 d s => .add16 (rp.wn 2 d) (rp.wn 4 s)
  | .addi16 d i => .addi16 (rp.wn 2 d) i
  | .sub16 d s => .sub16 (rp.wn 2 d) (rp.wn 4 s)
  | .and16 d s => .and16 (rp.wn 2 d) (rp.wn 4 s)
  | .or16 d s => .or16 (rp.wn 2 d) (rp.wn 4 s)
  | .xor16 d s => .xor16 (rp.wn 2 d) (rp.wn 4 s)
  | .shli16 d n => .shli16 (rp.wn 2 d) n
  | .shri16 d n => .shri16 (rp.wn 2 d) n
  | .srai16 d n => .srai16 (rp.wn 2 d) n
  | .li16 d i => .li16 (rp.wn 2 d) i
  | .ld16 d o => .ld16 (rp.wn 2 d) o
  | .st16 s o => .st16 (rp.wn 2 s) o
  | .lds16 d o => .lds16 (rp.wn 2 d) o
  | .sts16 s o => .sts16 (rp.wn 2 s) o
  | .add d a b => .add (rp.w 2 d) (rp.w 3 a) (rp.w 4 b)
  | .sub d a b => .sub (rp.w 2 d) (rp.w 3 a) (rp.w 4 b)
  | .andI d a b => .andI (rp.w 2 d) (rp.w 3 a) (rp.w 4 b)
  | .orI d a b => .orI (rp.w 2 d) (rp.w 3 a) (rp.w 4 b)
  | .xorI d a b => .xorI (rp.w 2 d) (rp.w 3 a) (rp.w 4 b)
  | .andn d a b => .andn (rp.w 2 d) (rp.w 3 a) (rp.w 4 b)
  | .shl d a b => .shl (rp.w 2 d) (rp.w 3 a) (rp.w 4 b)
  | .shr d a b => .shr (rp.w 2 d) (rp.w 3 a) (rp.w 4 b)
  | .sra d a b => .sra (rp.w 2 d) (rp.w 3 a) (rp.w 4 b)
  | .rol d a b => .rol (rp.w 2 d) (rp.w 3 a) (rp.w 4 b)
  | .ror d a b => .ror (rp.w 2 d) (rp.w 3 a) (rp.w 4 b)
  | .slt d a b => .slt (rp.w 2 d) (rp.w 3 a) (rp.w 4 b)
  | .sltu d a b => .sltu (rp.w 2 d) (rp.w 3 a) (rp.w 4 b)
  | .minI d a b => .minI (rp.w 2 d) (rp.w 3 a) (rp.w 4 b)
  | .maxI d a b => .maxI (rp.w 2 d) (rp.w 3 a) (rp.w 4 b)
  | .minu d a b => .minu (rp.w 2 d) (rp.w 3 a) (rp.w 4 b)
  | .maxu d a b => .maxu (rp.w 2 d) (rp.w 3 a) (rp.w 4 b)
  | .mul d a b => .mul (rp.w 2 d) (rp.w 3 a) (rp.w 4 b)
  | .mulh d a b => .mulh (rp.w 2 d) (rp.w 3 a) (rp.w 4 b)
  | .mulhu d a b => .mulhu (rp.w 2 d) (rp.w 3 a) (rp.w 4 b)
  | .divI d a b => .divI (rp.w 2 d) (rp.w 3 a) (rp.w 4 b)
  | .divu d a b => .divu (rp.w 2 d) (rp.w 3 a) (rp.w 4 b)
  | .remI d a b => .remI (rp.w 2 d) (rp.w 3 a) (rp.w 4 b)
  | .remu d a b => .remu (rp.w 2 d) (rp.w 3 a) (rp.w 4 b)
  | .sel d a b => .sel (rp.w 2 d) (rp.w 3 a) (rp.w 4 b)
  | .addW d a b => .addW (rp.w 2 d) (rp.w 3 a) (rp.w 4 b)
  | .subW d a b => .subW (rp.w 2 d) (rp.w 3 a) (rp.w 4 b)
  | .shlW d a b => .shlW (rp.w 2 d) (rp.w 3 a) (rp.w 4 b)
  | .shrW d a b => .shrW (rp.w 2 d) (rp.w 3 a) (rp.w 4 b)
  | .sraW d a b => .sraW (rp.w 2 d) (rp.w 3 a) (rp.w 4 b)
  | .mulW d a b => .mulW (rp.w 2 d) (rp.w 3 a) (rp.w 4 b)
  | .clz d a => .clz (rp.w 2 d) (rp.w 3 a)
  | .ctz d a => .ctz (rp.w 2 d) (rp.w 3 a)
  | .popc d a => .popc (rp.w 2 d) (rp.w 3 a)
  | .sextB d a => .sextB (rp.w 2 d) (rp.w 3 a)
  | .sextH d a => .sextH (rp.w 2 d) (rp.w 3 a)
  | .sextW d a => .sextW (rp.w 2 d) (rp.w 3 a)
  | .zextB d a => .zextB (rp.w 2 d) (rp.w 3 a)
  | .zextH d a => .zextH (rp.w 2 d) (rp.w 3 a)
  | .zextW d a => .zextW (rp.w 2 d) (rp.w 3 a)
  | .brev d a => .brev (rp.w 2 d) (rp.w 3 a)
  | .bswap d a => .bswap (rp.w 2 d) (rp.w 3 a)
  | .bext d a l p => .bext (rp.w 2 d) (rp.w 3 a) l p
  | .bins d a l p => .bins (rp.w 2 d) (rp.w 3 a) l p
  | .addi d a i => .addi (rp.w 2 d) (rp.w 3 a) i
  | .andImm d a i => .andImm (rp.w 2 d) (rp.w 3 a) i
  | .orImm d a i => .orImm (rp.w 2 d) (rp.w 3 a) i
  | .xorImm d a i => .xorImm (rp.w 2 d) (rp.w 3 a) i
  | .slti d a i => .slti (rp.w 2 d) (rp.w 3 a) i
  | .sltiu d a i => .sltiu (rp.w 2 d) (rp.w 3 a) i
  | .shli d a n => .shli (rp.w 2 d) (rp.w 3 a) n
  | .shri d a n => .shri (rp.w 2 d) (rp.w 3 a) n
  | .srai d a n => .srai (rp.w 2 d) (rp.w 3 a) n
  | .rori d a n => .rori (rp.w 2 d) (rp.w 3 a) n
  | .addiW d a i => .addiW (rp.w 2 d) (rp.w 3 a) i
  | .li d i => .li (rp.w 2 d) i
  | .lis d i => .lis (rp.w 2 d) i
  | .lpc d i => .lpc (rp.w 2 d) i
  | .ldB d b i => .ldB (rp.w 2 d) (rp.w 3 b) i
  | .ldH d b i => .ldH (rp.w 2 d) (rp.w 3 b) i
  | .ldW d b i => .ldW (rp.w 2 d) (rp.w 3 b) i
  | .ldD d b i => .ldD (rp.w 2 d) (rp.w 3 b) i
  | .ldBu d b i => .ldBu (rp.w 2 d) (rp.w 3 b) i
  | .ldHu d b i => .ldHu (rp.w 2 d) (rp.w 3 b) i
  | .ldWu d b i => .ldWu (rp.w 2 d) (rp.w 3 b) i
  | .stB d b i => .stB (rp.w 2 d) (rp.w 3 b) i
  | .stH d b i => .stH (rp.w 2 d) (rp.w 3 b) i
  | .stW d b i => .stW (rp.w 2 d) (rp.w 3 b) i
  | .stD d b i => .stD (rp.w 2 d) (rp.w 3 b) i
  | .ldx d a b z s => .ldx (rp.w 2 d) (rp.w 3 a) (rp.w 4 b) z s
  | .ldxu d a b z s => .ldxu (rp.w 2 d) (rp.w 3 a) (rp.w 4 b) z s
  | .stx d a b z s => .stx (rp.w 2 d) (rp.w 3 a) (rp.w 4 b) z s
  | .faddD d a b r => .faddD (rp.w 2 d) (rp.w 3 a) (rp.w 4 b) r
  | .fsubD d a b r => .fsubD (rp.w 2 d) (rp.w 3 a) (rp.w 4 b) r
  | .fmulD d a b r => .fmulD (rp.w 2 d) (rp.w 3 a) (rp.w 4 b) r
  | .fminD d a b => .fminD (rp.w 2 d) (rp.w 3 a) (rp.w 4 b)
  | .fmaxD d a b => .fmaxD (rp.w 2 d) (rp.w 3 a) (rp.w 4 b)
  | .fcmpeqD d a b => .fcmpeqD (rp.w 2 d) (rp.w 3 a) (rp.w 4 b)
  | .fcmpltD d a b => .fcmpltD (rp.w 2 d) (rp.w 3 a) (rp.w 4 b)
  | .fcmpleD d a b => .fcmpleD (rp.w 2 d) (rp.w 3 a) (rp.w 4 b)
  | .fsgnjD d a b => .fsgnjD (rp.w 2 d) (rp.w 3 a) (rp.w 4 b)
  | .fsgnjnD d a b => .fsgnjnD (rp.w 2 d) (rp.w 3 a) (rp.w 4 b)
  | .fsgnjxD d a b => .fsgnjxD (rp.w 2 d) (rp.w 3 a) (rp.w 4 b)
  | .fclassD d a => .fclassD (rp.w 2 d) (rp.w 3 a)
  | .frcpD d a r => .frcpD (rp.w 2 d) (rp.w 3 a) r
  | .frsqD d a r => .frsqD (rp.w 2 d) (rp.w 3 a) r
  | .faddS d a b r => .faddS (rp.w 2 d) (rp.w 3 a) (rp.w 4 b) r
  | .fsubS d a b r => .fsubS (rp.w 2 d) (rp.w 3 a) (rp.w 4 b) r
  | .fmulS d a b r => .fmulS (rp.w 2 d) (rp.w 3 a) (rp.w 4 b) r
  | .fminS d a b => .fminS (rp.w 2 d) (rp.w 3 a) (rp.w 4 b)
  | .fmaxS d a b => .fmaxS (rp.w 2 d) (rp.w 3 a) (rp.w 4 b)
  | .fcmpeqS d a b => .fcmpeqS (rp.w 2 d) (rp.w 3 a) (rp.w 4 b)
  | .fcmpltS d a b => .fcmpltS (rp.w 2 d) (rp.w 3 a) (rp.w 4 b)
  | .fcmpleS d a b => .fcmpleS (rp.w 2 d) (rp.w 3 a) (rp.w 4 b)
  | .fsgnjS d a b => .fsgnjS (rp.w 2 d) (rp.w 3 a) (rp.w 4 b)
  | .fsgnjnS d a b => .fsgnjnS (rp.w 2 d) (rp.w 3 a) (rp.w 4 b)
  | .fsgnjxS d a b => .fsgnjxS (rp.w 2 d) (rp.w 3 a) (rp.w 4 b)
  | .fclassS d a => .fclassS (rp.w 2 d) (rp.w 3 a)
  | .frcpS d a r => .frcpS (rp.w 2 d) (rp.w 3 a) r
  | .frsqS d a r => .frsqS (rp.w 2 d) (rp.w 3 a) r
  | .fmaD d a b r => .fmaD (rp.w 2 d) (rp.w 3 a) (rp.w 4 b) r
  | .fmsD d a b r => .fmsD (rp.w 2 d) (rp.w 3 a) (rp.w 4 b) r
  | .fnmaD d a b r => .fnmaD (rp.w 2 d) (rp.w 3 a) (rp.w 4 b) r
  | .fnmsD d a b r => .fnmsD (rp.w 2 d) (rp.w 3 a) (rp.w 4 b) r
  | .fmaS d a b r => .fmaS (rp.w 2 d) (rp.w 3 a) (rp.w 4 b) r
  | .fmsS d a b r => .fmsS (rp.w 2 d) (rp.w 3 a) (rp.w 4 b) r
  | .fnmaS d a b r => .fnmaS (rp.w 2 d) (rp.w 3 a) (rp.w 4 b) r
  | .fnmsS d a b r => .fnmsS (rp.w 2 d) (rp.w 3 a) (rp.w 4 b) r
  | .fcvt d a r f t => .fcvt (rp.w 2 d) (rp.w 3 a) r f t
  | .vadd d a b m s => .vadd (rp.v 2 d) (rp.v 3 a) (rp.v 4 b) m s
  | .vsub d a b m s => .vsub (rp.v 2 d) (rp.v 3 a) (rp.v 4 b) m s
  | .vmul d a b m s => .vmul (rp.v 2 d) (rp.v 3 a) (rp.v 4 b) m s
  | .vmin d a b m s => .vmin (rp.v 2 d) (rp.v 3 a) (rp.v 4 b) m s
  | .vmax d a b m s => .vmax (rp.v 2 d) (rp.v 3 a) (rp.v 4 b) m s
  | .vand d a b m s => .vand (rp.v 2 d) (rp.v 3 a) (rp.v 4 b) m s
  | .vor d a b m s => .vor (rp.v 2 d) (rp.v 3 a) (rp.v 4 b) m s
  | .vxor d a b m s => .vxor (rp.v 2 d) (rp.v 3 a) (rp.v 4 b) m s
  | .vandn d a b m s => .vandn (rp.v 2 d) (rp.v 3 a) (rp.v 4 b) m s
  | .vshl d a b m s => .vshl (rp.v 2 d) (rp.v 3 a) (rp.v 4 b) m s
  | .vshr d a b m s => .vshr (rp.v 2 d) (rp.v 3 a) (rp.v 4 b) m s
  | .vsra d a b m s => .vsra (rp.v 2 d) (rp.v 3 a) (rp.v 4 b) m s
  | .vabs d a m s => .vabs (rp.v 2 d) (rp.v 3 a) m s
  | .vneg d a m s => .vneg (rp.v 2 d) (rp.v 3 a) m s
  | .vsel d a b m s => .vsel (rp.v 2 d) (rp.v 3 a) (rp.v 4 b) m s
  | .vmov d a m s => .vmov (rp.v 2 d) (rp.v 3 a) m s
  | .vmulh d a b m s => .vmulh (rp.v 2 d) (rp.v 3 a) (rp.v 4 b) m s
  | .vadds d a b m s => .vadds (rp.v 2 d) (rp.v 3 a) (rp.v 4 b) m s
  | .vsubs d a b m s => .vsubs (rp.v 2 d) (rp.v 3 a) (rp.v 4 b) m s
  | .vfma d a b m s r => .vfma (rp.v 2 d) (rp.v 3 a) (rp.v 4 b) m s r
  | .vfms d a b m s r => .vfms (rp.v 2 d) (rp.v 3 a) (rp.v 4 b) m s r
  | .vfnma d a b m s r => .vfnma (rp.v 2 d) (rp.v 3 a) (rp.v 4 b) m s r
  | .vfnms d a b m s r => .vfnms (rp.v 2 d) (rp.v 3 a) (rp.v 4 b) m s r
  | .vcmp n a b m s c => .vcmp n (rp.v 3 a) (rp.v 4 b) m s c
  | .vredadd d a m s => .vredadd (rp.v 2 d) (rp.v 3 a) m s
  | .vredmin d a m s => .vredmin (rp.v 2 d) (rp.v 3 a) m s
  | .vredmax d a m s => .vredmax (rp.v 2 d) (rp.v 3 a) m s
  | .vredamax d a m s => .vredamax (rp.v 2 d) (rp.v 3 a) m s
  | .vredor d a m s => .vredor (rp.v 2 d) (rp.v 3 a) m s
  | .vredand d a m s => .vredand (rp.v 2 d) (rp.v 3 a) m s
  | .vbcast d s z => .vbcast (rp.v 2 d) (rp.w 3 s) z
  | .vins d s i z => .vins (rp.v 2 d) (rp.w 3 s) (rp.w 4 i) z
  | .vextr d s i z => .vextr (rp.v 2 d) (rp.w 3 s) (rp.w 4 i) z
  | .vperm d a b s => .vperm (rp.v 2 d) (rp.v 3 a) (rp.v 4 b) s
  | .vslideup d a b s => .vslideup (rp.v 2 d) (rp.v 3 a) (rp.v 4 b) s
  | .vslidedn d a b s => .vslidedn (rp.v 2 d) (rp.v 3 a) (rp.v 4 b) s
  | .vzip d a b s => .vzip (rp.v 2 d) (rp.v 3 a) (rp.v 4 b) s
  | .vunzip d a b s => .vunzip (rp.v 2 d) (rp.v 3 a) (rp.v 4 b) s
  | .viota d s => .viota (rp.v 2 d) s
  | .vcvt d a u t => .vcvt (rp.v 2 d) (rp.v 3 a) u t
  | .vcvtLo d a u t => .vcvtLo (rp.v 2 d) (rp.v 3 a) u t
  | .vcvtHi d a u t => .vcvtHi (rp.v 2 d) (rp.v 3 a) u t
  | .vcvtNarrow d a b u t => .vcvtNarrow (rp.v 2 d) (rp.v 3 a) (rp.v 4 b) u t
  | .vpack d a p => .vpack (rp.v 2 d) (rp.v 3 a) p
  | .vunpkLo d a => .vunpkLo (rp.v 2 d) (rp.v 3 a)
  | .vunpkHi d a => .vunpkHi (rp.v 2 d) (rp.v 3 a)
  | .vdeq d a p => .vdeq (rp.v 2 d) (rp.v 3 a) p
  | .vscale d a => .vscale (rp.v 2 d) (rp.v 3 a)
  | .vqnt d a b p => .vqnt (rp.v 2 d) (rp.v 3 a) (rp.v 4 b) p
  | .vrcp d a m s => .vrcp (rp.v 2 d) (rp.v 3 a) m s
  | .vrsq d a m s => .vrsq (rp.v 2 d) (rp.v 3 a) m s
  | .vexp2 d a m s => .vexp2 (rp.v 2 d) (rp.v 3 a) m s
  | .vlog2 d a m s => .vlog2 (rp.v 2 d) (rp.v 3 a) m s
  | .vld d s o m => .vld (rp.v 2 d) (rp.w 3 s) o m
  | .vst d s o m => .vst (rp.v 2 d) (rp.w 3 s) o m
  | .vlds d s i z m => .vlds (rp.v 2 d) (rp.w 3 s) (rp.w 4 i) z m
  | .vsts d s i z m => .vsts (rp.v 2 d) (rp.w 3 s) (rp.w 4 i) z m
  | .vgath d s x z m => .vgath (rp.v 2 d) (rp.w 3 s) (rp.v 4 x) z m
  | .vscat d s x z m => .vscat (rp.v 2 d) (rp.w 3 s) (rp.v 4 x) z m
  | .vldt d t r c => .vldt (rp.v 2 d) t r c
  | .vstt d t r c => .vstt (rp.v 2 d) t r c
  | .lstat d => .lstat (rp.w 2 d)
  | i => i

/-- The bits of the instruction as it stands in memory: those of i with the rotation undone (R55, R452). -/
def Ctx.bits (c : Ctx) (i : Instr) : Nat :=
  match c.rep with
  | none => i.bits
  | some r => (rotate { r with stride := 0 - r.stride } i).bits

end Sys2Proof.Machine
end
end

