-- ==== Sys2Proof/Machine/Ops.lean ====
section
/-!
DEFINITION. The shared operations of the meanings: the access log and the egress governor, loads and stores of the
issuing context, releases and acquires, the life of a task, taking an exception and returning from one, and the
frame of every instruction's meaning (`issue`: the causes of R76, then the body; `retire`: what retirement does).
-/
noncomputable section
namespace Sys2Proof.Machine

/-- The outcome of a step of this machine. -/
abbrev Out := Host.Outcome State Fault Refusal

/-- The code of a cause (R59). -/
def Cause.code : Cause → Nat
  | .und => 1 | .enc => 2 | .priv => 3 | .align => 4 | .xltFetch => 5 | .xltLoad => 6 | .xltStore => 7 | .pot => 8
  | .trap => 9 | .brk => 10 | .gate => 11 | .tile => 12 | .loft => 13 | .msgdone => 14 | .wdog => 15 | .macFail => 16
  | .eccUe => 17 | .deadlineHard => 18 | .allasleep => 19 | .migrFail => 21 | .engine => 22 | .link => 23

/-- Causes 1 to 13 are precise (R59). -/
def Cause.precise (c : Cause) : Bool := c.code ≤ 13

/-- The waits in which a context counts as asleep (R292). -/
def Wait.asleep : Wait → Bool
  | .queue | .hwait | .tlwait | .tlwaitRemote | .done => true
  | .sleep l => l.isNone
  | _ => false

/-! ### Order of arrival, free values -/

/-- The next number of the order of arrivals. -/
def State.stamp (s : State) : State := { s with seq := s.seq + 1 }

/-! ### What hardware writes -/

/-- The releases in a range of keys are no longer to be read: hardware has written it (R50, R306). -/
def State.forgetRels (s : State) (lo n : Nat) : State :=
  { s with rels := s.rels.filter fun p => !(lo ≤ p.1 && p.1 < lo + n) }

/-- Hardware writes bytes from a key on. -/
def State.hwBytes (s : State) (k : Nat) (b : List Byte) : State :=
  { s with mem := Memory.setBytes s.mem k b }.forgetRels k b.length

/-! ### The access log (R382 to R385) -/

/-- The bytes of a log record (R383). -/
def logBytes (seq time : Nat) (code who : Nat) (gond : Bool) (acting other : Dom) (a0 a1 a2 : Word)
    (chain : BitVec 512) : List Byte :=
  natLe 8 seq ++ natLe 8 time ++
  natLe 8 (code + 2 ^ 8 * who + (if gond then 2 ^ 21 else 0) + 2 ^ 32 * acting.toNat + 2 ^ 44 * other.toNat) ++
  natLe 8 a0.toNat ++ natLe 8 a1.toNat ++ natLe 8 a2.toNat ++ (natLe 64 chain.toNat).take 16

/-- The bad line in which the consumer index of a die's ring stands, if it is bad (R371): its cause, key and owner. -/
def State.consumerBad (s : State) (die : Nat) : Option (Cause × Nat × Dom) :=
  let key := s.chip.toNat * 2 ^ 46 + (s.die die).log.consumer
  let owner := potOwner (s.potEntry (key / 2 ^ 19))
  if s.sec.booted then (s.lineBad { key := key, owner := owner, metered := false }).map (·, key, owner) else none

/-- The consumer index of a die's ring as its log writer reads it (R382). DESIGN CHOICE (log 65): of a bad line it takes zero, so
that it overwrites nothing. -/
def State.consumed (s : State) (die : Nat) : Nat :=
  if (s.consumerBad die).isSome then 0 else (s.phys (s.die die).log.consumer).toNat

/-- Whether the ring of a die has no room for n records (R382): the consumer index in memory trails by a whole ring, or records of
hardware wait for room. -/
def State.logShort (s : State) (die n : Nat) : Bool :=
  let l := (s.die die).log
  !l.waiting.isEmpty || s.consumed die + 2 ^ l.k < l.seq + n

/-- Whether the ring of a die is full (R382). -/
def State.logFull (s : State) (die : Nat) : Bool := s.logShort die 1

/-- The bytes of a checkpoint (R385). -/
def checkpoint (seq time : Nat) (chain : BitVec 512) : List Byte :=
  let head := natLe 8 seq ++ natLe 8 time ++ natLe 64 chain.toNat
  head ++ (List.range 512).map (Config.sign head)

/-- The log writer of a die adds a checkpoint to the checkpoint area (R385). -/
def State.addCheckpoint (s : State) (die : Nat) : State :=
  let d := s.die die
  let base := s.chip.toNat * 2 ^ 46
  (s.hwBytes (base + d.log.area + 592 * d.log.points) (checkpoint (d.log.seq - 1) d.time d.log.chain)).setDie die
    { d with log := { d.log with points := d.log.points + 1 } }

/-- Appends a record to the log of a die (R382 to R385). -/
def State.logAt (s : State) (die who : Nat) (gond : Bool) (code : Nat) (acting other : Dom) (a0 a1 a2 : Word) : State :=
  let d := s.die die
  let l := d.log
  let b := logBytes l.seq d.time code who gond acting other a0 a1 a2 l.chain
  let base := s.chip.toNat * 2 ^ 46
  let s1 := (s.hwBytes (base + l.base + 64 * (l.seq % 2 ^ l.k)) b).setDie die
    { d with log := { l with seq := l.seq + 1, chain := Config.sha512 (natLe 64 l.chain.toNat ++ b) } }
  if (l.seq + 1) % 4096 == 0 then s1.addCheckpoint die else s1

def State.logRec (s : State) (die : Nat) (r : LogRec) : State := s.logAt die r.who r.gond r.code r.acting r.other r.a0 r.a1 r.a2

/-- A record of an event of hardware, which is made as soon as the ring has room (R382). -/
def State.logLater (s : State) (die : Nat) (r : LogRec) : State :=
  if s.logFull die then
    let d := s.die die
    s.setDie die { d with log := { d.log with waiting := d.log.waiting ++ [r] } }
  else s.logRec die r

/-- Records that wait for room in the ring of a die are made, as far as it has room (R382). -/
def State.logsOn (s : State) (die : Nat) : List LogRec → State
  | [] => s
  | r :: l =>
    let d := s.die die
    let t := s.setDie die { d with log := { d.log with waiting := [] } }
    if t.logFull die then s
    else
      let u := t.logRec die r
      (u.setDie die { u.die die with log := { (u.die die).log with waiting := l } }).logsOn die l

/-- A record of an event of the issuing context. -/
def State.log (s : State) (code : Nat) (acting other : Dom) (a0 a1 a2 : Word) : State :=
  s.logAt (ctxDie s.cur) (coreOf s.cur) (isG s.cur) code acting other a0 a1 a2

/-- Whether the issuing context's log ring is full. -/
def State.myLogFull (s : State) : Bool := s.logFull (ctxDie s.cur)

/-! ### The egress governor (R378 to R381) -/

/-- The key of a domain's bucket and counter for a port class. -/
def egKey (d : Dom) (cls : Nat) : Nat := 4 * d.toNat + cls

/-- A bucket that is enabled and empty (R379, R380): whether it faults. -/
def State.egBlocked (s : State) (d : Dom) (cls : Nat) : Option Bool :=
  match find? s.egress (egKey d cls) with
  | none => none
  | some b => if b.enable && b.level ≤ 0 then some b.fault else none

/-- n bytes leave domain d through a port class (R378, R379, R381). -/
def State.charge (s : State) (d : Dom) (cls n : Nat) : State :=
  if n == 0 then s
  else
    let k := egKey d cls
    let s1 := { s with egressBytes := put s.egressBytes k (find s.egressBytes k 0 + n) }
    match find? s1.egress k with
    | none => s1
    | some b => if b.enable then { s1 with egress := put s1.egress k { b with level := b.level - n } } else s1

/-- The bytes at some places, by owner. -/
def perOwner (l : List Where) : List (Dom × Nat) :=
  ((l.map (·.owner)).eraseDups).map fun d => (d, (l.filter (·.owner == d)).length)

/-- What an access charges its domain for what it sends over the link (R378). -/
def State.sentOut (s : State) (who : Dom) (l : List Where) : List (Dom × Nat × Nat) :=
  let away := l.filter fun p => p.key < 2 ^ 64 && p.key / 2 ^ 46 != s.chip.toNat
  if away.isEmpty then [] else [(who, 2, away.length)]

/-- What an access charges (R378): the domain, the class and the bytes. Host memory is class 1, another chip's class 2; a
read charges each owner of metered pages. -/
def State.egressOf (s : State) (who : Dom) (store : Bool) (l : List Where) : List (Dom × Nat × Nat) :=
  let host := l.filter fun p => isHost p.key
  let foreign := l.filter fun p => p.key < 2 ^ 64 && p.owner != who
  if store then
    (if foreign.isEmpty then [] else [(who, 0, foreign.length)]) ++ (if host.isEmpty then [] else [(who, 1, host.length)]) ++
      s.sentOut who l
  else (perOwner (foreign.filter (·.metered))).map fun p => (p.1, 0, p.2)

def State.chargeAll (s : State) : List (Dom × Nat × Nat) → State
  | [] => s
  | (d, c, n) :: r => (s.charge d c n).chargeAll r

/-- The first empty bucket among the charges of an access. -/
def State.egFirst (s : State) : List (Dom × Nat × Nat) → Option (Dom × Nat × Bool)
  | [] => none
  | (d, c, _) :: r =>
    match s.egBlocked d c with
    | some f => some (d, c, f)
    | none => s.egFirst r

def State.egLevel (s : State) (d : Dom) (c : Nat) : Word := .ofInt 64 ((find s.egress (egKey d c) .idle).level)

/-! ### Loads and stores of the issuing context -/

/-- What an access of an instruction comes to. -/
inductive Mem (α : Type) where
  | ok (a : α) (s : State)
  | trap (c : Cause) (tval : Word) (s : State)
  /-- a store whose translation failed (R307) -/
  | park (tval : Word) (s : State)
  | fatal (c : Cause) (tval : Word) (s : State)
  | wait (w : Wait) (s : State)

/-- The most flits that a port holds unacknowledged (R493). -/
def portLimit : Nat := 2048

/-- Whether a port holds flits of a channel to a chip. -/
def Port.holds (p : Port) (dest : BitVec 18) (vc : BitVec 2) : Bool := p.unacked.any fun f => f.dest == dest && f.vc == vc

/-- The port that carries what goes to a chip in a channel (R492, R494): while flits of that channel are not acknowledged, the one
that holds them, so that their order stands, and none while such a port is down; else the first of the route that is up. -/
def State.portFor (s : State) (chip : BitVec 18) (vc : BitVec 2) : Option (Nat × Port) :=
  match s.ports.filter fun q => q.2.holds chip vc with
  | [] => s.reach chip.toNat
  | q :: l => if (q :: l).all (·.2.up) then some q else none

/-- That port, if it has room for one more flit (R493). -/
def State.carrier (s : State) (chip : BitVec 18) (vc : BitVec 2) : Option (Nat × Port) :=
  (s.portFor chip vc).filter fun q => q.2.unacked.length < portLimit

/-- A flit of a launch, or of none, leaves through a port, which holds it until it is acknowledged (R492, R493). -/
def State.transmit (s : State) (n : Nat) (p : Port) (dest : BitVec 18) (vc : BitVec 2) (payload : List Byte) (launch : Nat) : State :=
  let f : Flit :=
    { crcOk := true, seq := p.txSeq, ack := p.rxSeq - 1, kind := 0, vc := vc, dest := dest, payload := payload, launch := launch }
  { s with ports := put s.ports n { p with txSeq := p.txSeq + 1, unacked := p.unacked ++ [f], sent := f :: p.sent } }

/-- A payload whose layout the spec does not give, that of every transaction but a message: free bytes (log 32). -/
def State.freePayload (s : State) : List Byte := (List.range 14).flatMap fun i => natLe 8 (Config.freeWord (s.freeCount + i)).toNat

/-- The chip on which one of some places stands, if it is another one. -/
def State.awayChip (s : State) (l : List Where) : Option (BitVec 18) :=
  (l.find? fun p => p.key < 2 ^ 64 && p.key / 2 ^ 46 != s.chip.toNat).map fun q => .ofNat 18 (q.key / 2 ^ 46)

/-- The state once the request of an access has left over the link, if it has to; none while no port can carry it (R492,
R493). One to a chip that no port reaches goes on, to meet LINK. It goes for a launch, or for none (0). -/
def State.linkOut (s : State) (l : List Where) (vc : BitVec 2) (launch : Nat) : Option State :=
  match s.awayChip l with
  | none => some s
  | some chip =>
    if (s.reach chip.toNat).isNone then some s
    else (s.carrier chip vc).map fun q => { s with freeCount := s.freeCount + 14 }.transmit q.1 q.2 chip vc s.freePayload launch

/-- An access to another chip sends its request over the link, and waits, in s0, while the port holds all the flits it can. -/
def State.overLink {α : Type} (s s0 : State) (l : List Where) (vc : BitVec 2) (k : State → Mem α) : Mem α :=
  match s.linkOut l vc s.me.t.launch with
  | some t => k t
  | none => .wait .send s0

/-- Whether the answer to another chip can leave (R493). -/
def State.portRoom (s : State) (chip : BitVec 18) : Bool := (s.carrier chip 1).isSome

/-- The answer to a request of another chip leaves for it, in the response channel (R492). -/
def State.respond (s : State) (chip : BitVec 18) : State :=
  match s.carrier chip 1 with
  | none => s
  | some (n, p) => { s with freeCount := s.freeCount + 14 }.transmit n p chip 1 s.freePayload 0

/-- A request that must wait comes again in the next cycle. -/
def State.again (s : State) (i : Instr) : State := { s with inputs := (s.cycle + 1, i) :: s.inputs }

/-- The 512 KiB units that n bytes from an address touch. -/
def units (ea : Word) (n : Nat) : List Nat := ((addrs ea n).map (· / 2 ^ 19)).eraseDups

/-- Whether a parked store is a task's. -/
def Parked.ofTask (p : Parked) (k serial : Nat) : Bool := p.ctx == k && p.serial == serial

/-- The byte addresses of a parked store, in order. -/
def Parked.addrs (p : Parked) : List Nat := p.parts.flatMap fun q => q.2.map fun b => (q.1.toNat + b.1) % 2 ^ 64

/-- Whether the replay queue of the issuing task's core holds a store of it. DESIGN CHOICE (log 19): a task on a gondola thread
uses that of its home core. -/
def State.hasParked (s : State) : Bool :=
  (s.core (homeOf s.cur s.me)).replay.any (·.ofTask s.cur s.me.c.serial)

/-- Whether an access of the task in a context touches a unit of a parked store of that task (R307). -/
def State.unitHeld (s : State) (k : Nat) (c : Ctx) (ea : Word) (n : Nat) : Bool :=
  (s.core (homeOf k c)).replay.any fun p =>
    p.ofTask k c.c.serial && p.addrs.any fun a => (units ea n).any (· == a / 2 ^ 19)

/-- The same of the issuing task. -/
def State.unitParked (s : State) (ea : Word) (n : Nat) : Bool := s.hasParked && s.unitHeld s.cur s.me ea n

/-- Whether an engine command, or a loft command, that the issuing task issued is not complete (R310). -/
def State.engBusy (s : State) : Bool :=
  (s.core s.homeCore).eng.queue.any fun c => c.ctx == s.cur && c.task == s.me.c.serial
def State.loftBusy (s : State) : Bool :=
  s.me.vs.any (fun v => v.cmd.isSome || v.later.any (·.ins.entersLoft)) || (s.core s.homeCore).loftq.any fun c => c.ctx == s.cur && c.task == s.me.c.serial

/-- What an incomplete vector-stream instruction, the oldest of its stream, waits on. -/
def Behind.on (v : Behind) : Wait :=
  match v.later with
  | some l => (match l.st with
    | .waiting w => w
    | _ => .queue)
  | none => if v.cmd.isSome then .loft else .queue

/-- Whether the vector stream has instructions that it has not executed. -/
def Ctx.stalled (c : Ctx) : Bool := c.vs.any (·.later.isSome)

/-- What an instruction that must see every older vector-stream instruction complete still waits for (R31, R46, R47). -/
def State.behind (s : State) : Option Wait :=
  match s.me.vs with
  | v :: _ => some v.on
  | [] => if s.loftBusy then some .loft else none

/-- The egress of an access that has passed its checks (R379, R380): stall, fault, or charge. A fault is logged as it is raised,
once every older instruction is complete (R46). -/
def State.egressGate {α : Type} (s : State) (ea : Word) (l : List (Dom × Nat × Nat)) (k : State → Mem α) : Mem α :=
  match s.egFirst l with
  | some (d, c, true) =>
    match s.behind with
    | some w => .wait w s
    | none => if s.myLogFull then .wait .log s else .trap .pot ea (s.log 6 d 0 (.ofNat 64 c) ea (s.egLevel d c))
  | some (d, c, false) =>
    if s.me.st == .waiting .egress then .wait .egress s
    else if s.myLogFull then .wait .log s
    else .wait .egress (s.log 5 d 0 (.ofNat 64 c) ea (s.egLevel d c))
  | none => k (s.chargeAll l)

/-- A bad line enters the error log (R387). DESIGN CHOICE (log 59): each MAC_FAIL and ECC_UE met does. -/
def State.noteError (s : State) (c : Cause) (key : Nat) : State :=
  if c == .macFail || c == .eccUe then { s with errLog := (key / 64, c) :: s.errLog } else s

/-- A MAC failure that an agent of a die meets is logged with the line's physical address and owner (R371, R384). -/
def State.logMacAt (s : State) (die who : Nat) (gond : Bool) (acting : Dom) (c : Cause) (key : Nat) (owner : Dom) : State :=
  let s := s.noteError c key
  if c == .macFail then s.logAt die who gond 9 acting owner (.ofNat 64 (key % 2 ^ 46 / 64 * 64)) 0 0 else s

/-- A bad line that hardware meets of itself enters the error log, and the access log once its ring has room (R371, R382,
R384). -/
def State.hwMac (s : State) (die who : Nat) (gond : Bool) (acting : Dom) (c : Cause) (key : Nat) (owner : Dom) : State :=
  let s := s.noteError c key
  if c == .macFail then
    s.logLater die { who := who, gond := gond, code := 9, acting := acting, other := owner, a0 := .ofNat 64 (key % 2 ^ 46 / 64 * 64),
                     a1 := 0, a2 := 0 }
  else s

/-- Hardware's read of a table of 0x000 meets a bad line (R371). -/
def State.noteTable (s : State) (die who : Nat) (acting : Dom) (pa : Nat) : State :=
  match s.tableBad pa with
  | none => s
  | some c => s.hwMac die who false acting c (s.chip.toNat * 2 ^ 46 + pa) 0

/-- The same of the task in a context, in the domain it acts for. -/
def State.logMacOf (s : State) (k : Nat) (acting : Dom) (c : Cause) (key : Nat) (owner : Dom) : State :=
  s.logMacAt (ctxDie k) (coreOf k) (isG k) acting c key owner

def State.logMac (s : State) (c : Cause) (key : Nat) (owner : Dom) : State := s.logMacOf s.cur s.me.c.dom c key owner

/-- The buckets and counters as they stood in t: an access that never performs counts nothing (R379). -/
def State.uncharged (s t : State) : State := { s with egress := t.egress, egressBytes := t.egressBytes }

/-- An access that began in s and meets a bad line, in the state s1 in which it has been charged and sent: the cause, or a wait in
s while the ring that takes its record is full (R371, R382). -/
def State.badMem {α : Type} (s s1 : State) (c : Cause) (k : Nat) (owner : Dom) (ea : Word) : Mem α :=
  if c == .macFail && s.myLogFull then .wait .log s else .fatal c ea ((s1.uncharged s).logMac c k owner)

/-- An access whose check fails: a precise trap, or the bad line that its walk has met (R371, R447). -/
def State.refused {α : Type} (s : State) (c : Cause) (a : Word) : Mem α :=
  if c.precise then .trap c a s
  else match s.walkBad s.who a.toNat with
    | some (e, k, o) => s.badMem s e k o a
    | none => .fatal c a s

/-- Whether some places are words of the v or m registers in the issuing task's own workspace while its vector stream has
instructions that it has not executed, which read and write those registers first (R34, R46). -/
def State.vecHeld (s : State) (l : List Where) : Bool :=
  s.me.stalled && (wsKey s.cur s.me).any fun a => l.any fun p => a + 0x100 ≤ p.key && p.key < a + 0x540

/-- How many instructions of a task the scalar stream has passed that have not retired: from the oldest that the vector stream has
not executed on (R46). -/
def Ctx.passed (c : Ctx) : Nat :=
  match c.vs.filterMap (·.later) with
  | [] => 0
  | l :: _ => (c.c.ret - l.ret).toNat

/-- What an access waits on that such an instruction holds back. -/
def State.vecWait (s : State) : Wait := (s.me.vs.head?.map Behind.on).getD .queue

/-- Loads n bytes from ea (R138 to R141, R351, R371). -/
def State.load (s : State) (ea : Word) (n : Nat) : Mem (List Byte) :=
  if s.unitParked ea n then .wait .replay s
  else match s.check s.who .load ea n with
    | .error (c, a) => s.refused c a
    | .ok l =>
      if s.vecHeld l then .wait s.vecWait s else
      s.egressGate ea (s.egressOf s.me.c.dom false l) fun s1 => s1.overLink s l 0 fun s1 =>
        match s1.linesBad l with
        | some (c, k, o) => s.badMem s1 c k o ea
        | none => .ok (s1.peeks l) (s1.keepTlbs s1.who .load ea n)

/-- The stores of places that merge into a line or cover it (R372, R501), by an access that began in s0. -/
def State.storeAt (s s0 : State) (ea : Word) (l : List Where) (b : List Byte) : Mem Unit :=
  let whole := b.length == 64 && ea.toNat % 64 == 0
  match if whole && !l.any s.unreached then none else s.linesBad l with
  | some (c, k, o) => s0.badMem s c k o ea
  | none =>
    let s1 := if whole then l.foldl State.sealLine s else s
    .ok () ((s1.pokes l b).keepTlbs s1.who .store ea b.length)

/-- Stores bytes from ea (R138 to R141); a store that fails its translation is for the replay queue (R307). -/
def State.store (s : State) (ea : Word) (b : List Byte) : Mem Unit :=
  if s.unitParked ea b.length then .wait .replay s
  else match s.check s.who .store ea b.length with
    | .error (c, a) => if c == .xltStore && stepOf a.toNat c == 2 then .park a s else s.refused c a
    | .ok l =>
      if s.vecHeld l then .wait s.vecWait s else
      s.egressGate ea (s.egressOf s.me.c.dom true l) fun s1 => s1.overLink s l 0 fun s1 => s1.storeAt s ea l b

/-- The checks of the write and of the read of an atomic access as one (R141, R316): translation before ownership in either, and a
missing translation is XLT_STORE (R447). -/
def rmwChecked (write read : Except (Cause × Word) (List Where)) : Except (Cause × Word) (List Where) :=
  let storing := fun (c : Cause) => if c == .xltLoad then .xltStore else c
  match write, read with
  | .error (.pot, a), .error (c, b) => if c == .pot then .error (.pot, a) else .error (storing c, b)
  | .error x, _ => .error x
  | .ok _, .error (c, a) => .error (storing c, a)
  | .ok l, .ok _ => .ok l

/-- An atomic access to n bytes at ea (R316): f gives the new bytes, or none for a read only. It reads and writes, so the
leaf must permit both; its read and its write are each charged, and what it sends to another chip although it writes nothing
(R378). The device requests no AtomicOps of the host (R479): DESIGN CHOICE (log 58), an atomic access to host memory raises
POT. -/
def State.rmw (s : State) (ea : Word) (n : Nat) (f : List Byte → Option (List Byte)) : Mem (List Byte) :=
  if s.unitParked ea n then .wait .replay s
  else match rmwChecked (s.check s.who .store ea n) (s.check s.who .load ea n) with
    | .error (c, a) => s.refused c a
    | .ok l =>
      if l.any fun p => isHost p.key then .trap .pot ea s else
      if s.vecHeld l then .wait s.vecWait s else
      let old := s.peeks l
      let reads := s.egressOf s.me.c.dom false l
      match f old with
      | none =>
        s.egressGate ea (reads ++ s.sentOut s.me.c.dom l) fun s1 => s1.overLink s l 2 fun s1 =>
          match s1.linesBad l with
          | some (c, k, o) => s.badMem s1 c k o ea
          | none => .ok old (s1.keepTlbs s1.who .store ea n)
      | some b =>
        s.egressGate ea (reads ++ s.egressOf s.me.c.dom true l) fun s1 => s1.overLink s l 2 fun s1 =>
          match s1.storeAt s ea l b with
          | .ok _ s2 => .ok old s2
          | .trap c a s2 => .trap c a s2
          | .park a s2 => .trap .xltStore a s2
          | .fatal c a s2 => .fatal c a s2
          | .wait w s2 => .wait w s2

/-! ### Acquires and releases (R303, R306) -/

/-- The agents of R296 by number: contexts by key; engines 2^18 + core; lofts 2^19 + octet; barrier units
2^20 + flight; the host 2^21. -/
def coreInst (a : Nat) : Option Nat := if a < 2 ^ 17 then some (a / 16) else if a < 2 ^ 18 then some (2 ^ 17 + a) else none
def flightInst (a : Nat) : Option Nat :=
  if a < 2 ^ 17 then some (a / 16 / 32)
  else if a < 2 ^ 18 then some (gFlight ((a - 2 ^ 17) / 4))
  else if a < 2 ^ 19 then some ((a - 2 ^ 18) / 32)
  else if a < 2 ^ 20 then some ((a - 2 ^ 19) / 4)
  else if a < 2 ^ 21 then some (a - 2 ^ 20)
  else none

/-- Whether two agents belong to one instance of a scope (R297). A box is one agent on its lead core. -/
def inScope (scope : BitVec 3) (a b : Nat) : Bool :=
  a == b ||
  match scope.toNat with
  | 0 => (coreInst a).isSome && coreInst a == coreInst b
  | 1 => (flightInst a).isSome && flightInst a == flightInst b
  | 2 => (flightInst a).isSome && (flightInst a).map (· / 64) == (flightInst b).map (· / 64)
  | 3 => (flightInst a).isSome && (flightInst b).isSome
  | _ => true

/-- The releases that an acquire of the bytes at some places reads (R306). -/
def relsAt (m : List (Nat × List Rel)) (l : List Where) : List Rel :=
  ((l.flatMap fun p => find m p.key []).map fun r => { r with byte := none }).eraseDups

/-- Bytes have been written by a store that is a release (r), or by a read-modify-write, which keeps the releases of
`before` and may add one. -/
def State.chain (s : State) (before : List (Nat × List Rel)) (l : List Where) (r : Option Rel) : State :=
  let all := (r.toList ++ relsAt before l).eraseDups
  let at_ := fun (k : Nat) => if isSpad k then all.map fun r => { r with byte := some (s.peek k) } else all
  if all.isEmpty then s else { s with rels := l.foldl (fun m p => put m p.key (at_ p.key)) s.rels }

/-- The places of the n bytes at an address, for the record of releases: of a page that may be read, or only written. -/
def State.relPlaces (s : State) (ea : Word) (n : Nat) : List Where :=
  match s.check s.who .load ea n with
  | .ok l => l
  | .error _ =>
    match s.check s.who .store ea n with
    | .ok l => l
    | .error _ => []

/-- The release of a task in a context at a scope. -/
def relOf (k : Nat) (c : Ctx) (scope : BitVec 3) : Rel := { agent := k, task := c.c.serial, box := c.c.bx, scope := scope }
def State.myRel (s : State) (scope : BitVec 3) : Rel := relOf s.cur s.me scope

/-- The release of a unit, of hardware or of another chip, at a scope. -/
def unitRel (agent : Nat) (scope : BitVec 3) : Rel := { agent := agent, task := 0, box := false, scope := scope }

/-- Whether an acquire of a task of an agent, a box or not, at a scope misses a release (R306). A box is an agent of its own,
and its own core instance (R296); a task that composes or decomposes one stays ordered with itself. -/
def Rel.missed (r : Rel) (agent task : Nat) (box : Bool) (scope : BitVec 3) : Bool :=
  let incl := fun (sc : BitVec 3) => inScope sc r.agent agent && !(sc == 0 && (r.box || box))
  !(r.agent == agent && (r.box == box || r.task == task)) && !(incl r.scope && incl scope)

/-- An acquire at a scope of n bytes at ea, as the releases stood before: a dropped synchronisation sets psw.XS (R306). -/
def State.acquire (s : State) (before : List (Nat × List Rel)) (ea : Word) (n : Nat) (scope : BitVec 3) : State :=
  if (relsAt before (s.relPlaces ea n)).any (·.missed s.cur s.me.c.serial s.me.c.bx scope) then s.onCsr (·.setXs) else s

/-! ### Launches -/

/-- A launch starts to end abnormally (R273); the first abnormal end stands. -/
def State.endLaunch (s : State) (n : Nat) (e : EndStatus) (code : Nat) : State :=
  s.onLaunch n fun l => match l.ending with
    | some _ => l
    | none => { l with ending := some (e, code), cut := if e == .killed then some false else none }

/-- The wake latches of the contexts of a core that satisfy p are set (R149). DESIGN CHOICE (log 60): the core of a task that has
migrated to a gondola thread is its home core, where its slots stay. -/
def State.wakeCore (s : State) (core : Nat) (p : Nat → Ctx → Bool) : State :=
  { s with me := if homeOf s.cur s.me == core && p s.cur s.me then { s.me with wake := true } else s.me,
           ctxs := s.ctxs.map fun (k, c) =>
             if homeOf k c == core && p k c then (k, { c with wake := true }) else (k, c) }

/-- A context of the launch left an asleep wait (R477). -/
def State.noteWoke (s : State) (launch flight : Nat) : State :=
  s.onLaunch launch fun l => if l.woke.any (· == flight) then l else { l with woke := flight :: l.woke }

/-! ### Starting a task (R29, R35 to R37) -/

/-- The stochastic-rounding state of a seed and four payload words (R114). -/
def seedSr (seed p1 p2 p3 p4 : Word) : Word :=
  let one := fun (x p : Word) => (x ^^^ p) * 0x9E3779B97F4A7C15
  let x := one (one (one (one seed p1) p2) p3) p4
  if x == 0 then 1 else x

/-- The address-space entry of a domain (R448): c.ttb and c.asid. -/
def State.space (s : State) (part : Nat) (d : Dom) : Word × BitVec 16 :=
  let b := (s.part part).spaceBase + 16 * d.toNat
  (s.tableWord b &&& 0x00003FFFFFFF0000, (s.tableWord (b + 8)).setWidth 16)

/-- A pool workspace of a core that no task uses (R35): the lowest-numbered. -/
def freeWs (used : List Nat) (i fuel : Nat) : Option Nat :=
  match fuel with
  | 0 => none
  | k + 1 => if used.any (· == i) then freeWs used (i + 1) k else some i

/-- The l and o files at task start (R37): each zero, or what an earlier task of the domain left in the context. -/
def leftOver (n : Nat) (same : Bool) (old : Word) : Word := if same && Config.keepsOld n then old else 0

/-- sc1 to sc7 at task start hold 1.0 (R110). -/
def freshSc : Vector (BitVec 32) 8 := .replicate 8 0x3F800000

/-- What is left of the watchdog of a task that starts in a context after its core's tasks have been asked to stop (R468). -/
def State.watchOf (s : State) (k : Nat) : Option Nat :=
  let core := coreOf k
  let f := s.flight (flightOf core)
  let left := fun (since limit : Nat) => some (limit - (s.cycle - since))
  if isG k || (numOf k == 10 && s.isService core) then none
  else if f.st == .stopping then left f.asked f.limit
  else match (s.core core).mode with
    | .saving _ _ _ since limit => left since limit
    | _ => none

/-- A task starts in a context (R37): the state of the context from its entry, payload, launch and domain. -/
def State.startTask (s : State) (k : Nat) (entry p1 p2 p3 p4 : Word) (dom : Dom) (lrec : Word) (t : Task)
    (psw : BitVec 19) : State :=
  let old := s.ctx k
  let core := coreOf k
  let x := s.core core
  let i := (freeWs x.used 0 16).getD 0
  let wp := localWindow (0x3A000 + 1536 * i)
  let same := old.last == dom
  let n := s.freeCount
  let (ttb, asid) := s.space (s.flightPart (flightOf core)) dom
  let r : Regs := { Regs.zero with
    w := (((Regs.zero.w.set 1 p1).set 2 p2).set 3 p3).set 4 p4,
    l := Vector.ofFn fun j => leftOver (n + j) same old.r.l[j],
    o := Vector.ofFn fun j => leftOver (n + 4 + j) same old.r.o[j],
    sc := freshSc, cb := .replicate 4 0 }
  let c : Csr := { old.c with
    psw := psw, wp := wp, dom := dom, asid := asid, ttb := ttb, serial := x.serial + 1, lrec := lrec,
    cyc := 0, ret := 0, swin := 0, sr := seedSr old.c.seed p1 p2 p3 p4 }
  let new : Ctx := { Ctx.idle with
    st := .ready, pc := entry &&& ~~~ 1, r := r, c := c, t := { t with seen := s.past.length, watch := s.watchOf k }, last := dom, since := s.cycle }
  let x1 := { x with serial := x.serial + 1, used := i :: x.used, pool := put x.pool i { valid := true, dom := dom } }
  -- the workspace words of a new task: zero, the entry and the psw (R33, R35)
  let off := spadKey core (0x3A000 + 1536 * i)
  let m := Memory.clear s.mem off 1536
  let m := Memory.setWord (Memory.setWord m (off + 0x540) (entry &&& ~~~ 1)) (off + 0x548) (psw.setWidth 64)
  (({ s with mem := m, freeCount := n + 12 }.forgetRels off 1536 |>.setCore core x1).setCtx k new).shareRegs k

/-- The psw of a task that starts (R25, R37): IE alone, with WU and BX where they apply and S for a handler. -/
def startPsw (wu bx sup : Bool) : BitVec 19 :=
  setBit (setBit (setBit (BitVec.twoPow 19 17) 11 wu) 12 bx) 0 sup

/-! ### Messages and run queues (R274 to R281) -/

/-- The lead core that takes the entries of a core (R406): its own, or that of the box it is a member of. -/
def State.leadOf (s : State) (core : Nat) : Nat :=
  match (s.core core).box with
  | some (l, _) => l
  | none => core

/-- Whether a core's run queue has room (R274, R276). -/
def State.runqRoom (s : State) (core : Nat) : Bool := (s.core core).runq.length < 64 + (s.core core).overflow

/-- An entry enters the run queue of a core, which wakes sleepers there (R149, R406). -/
def State.enqueue (s : State) (core : Nat) (e : Entry) : State :=
  let c := s.leadOf core
  ((s.stamp).onCore c fun x => { x with runq := x.runq ++ [{ e with seq := s.seq, target := c }] }).wakeCore c fun _ _ => true

/-! ### The box (R405, R409, R414, R420) -/

/-- The members of the box of size k led by a core (R413). -/
def boxMembers (lead k : Nat) : List Nat :=
  match k with
  | 2 => [lead, lead + 1]
  | 4 => [lead, lead + 1, lead + 8, lead + 9]
  | 8 => [lead, lead + 1, lead + 2, lead + 3, lead + 8, lead + 9, lead + 10, lead + 11]
  | _ => []

/-- Releases the members of the box led by a core (R420). The box's registers are held with its thread in the
model, so nothing is written back (log 13). -/
def State.unbox (s : State) (lead : Nat) : State :=
  match (s.core lead).box with
  | none => s
  | some (l, k) => (boxMembers l k).foldl (fun s c => s.onCore c fun x => { x with box := none }) s

/-! ### Ending a task (R31, R147 to R149, R257) -/

/-- The workspace of a task returns to the pool, zeroed and untagged (R35). -/
def State.freePoolWs (s : State) (k : Nat) : State :=
  let c := s.ctx k
  let core := homeOf k c
  match windowKey core c.c.wp.toNat with
  | none => s
  | some a =>
    let off := spadOff a
    if off < 0x3A000 then s
    else
      let i := (off - 0x3A000) / 1536
      let a := spadKey core (0x3A000 + 1536 * i)
      ({ s with mem := Memory.clear s.mem a 1536 }.forgetRels a 1536).onCore core fun x =>
        { x with used := x.used.filter (· != i), pool := put x.pool i { valid := true, dom := 0 } }

/-- Where the trap record of a replay entry stands (R452). -/
def replayKey (core entry : Nat) : Nat := spadKey core (0x38400 + 64 * entry)

/-- The trap record's valid bit is cleared as the trap is disposed of (R452). -/
def State.clearRecord (s : State) (key : Nat) : State :=
  { s with mem := Memory.set s.mem (key + 0x3A) (Memory.get s.mem (key + 0x3A) &&& 0xFE) }.forgetRels (key + 0x38) 8

/-- The parked stores of a task are discarded, and so disposed of (R309, R452, R456). -/
def State.dropParked (s : State) (k serial : Nat) : State :=
  let core := homeOf k (s.ctx k)
  let l := (s.core core).replay.filter (·.ofTask k serial)
  if l.isEmpty then s
  else (l.foldl (fun (s : State) p => s.clearRecord (replayKey core p.id)) s).onCore core fun x =>
    { x with replay := x.replay.filter fun p => !p.ofTask k serial }

/-- A join count loses one with release at flight scope; at zero with registered set the continuation is placed (R257, R327).
The record is reached by its core-window or DRAM address in the ended task's space; where it no longer can be, or stands in
host memory (log 58), the launch ends FAULT with the cause (log 24). A record on another chip is reached over the link
(R492); DESIGN CHOICE (log 65): as hardware's stores do, it does not wait for a port. A core that CTXLOAD has moved stands
for the one it moved to (R476). -/
def State.joinDec (s : State) (who : Who) (a : Word) (e : Entry) (r : Rel) : State :=
  match s.check who .store a 32 with
  | .error (c, x) =>
    match if c.precise then none else s.walkBad who x.toNat with
    | some (b, k, o) => (s.hwMac (who.flight / 64) who.core false who.dom b k o).endLaunch e.launch .fault b.code
    | none => s.endLaunch e.launch .fault c.code
  | .ok l =>
    if l.any fun p => isHost p.key then s.endLaunch e.launch .fault Cause.pot.code else
    match s.linesBad l with
    | some (c, k, o) => (s.hwMac (who.flight / 64) who.core false who.dom c k o).endLaunch e.launch .fault c.code
    | none =>
    let b := s.peeks l
    let count : Word := .ofNat 64 (leNat (b.take 8)) - 1
    let sent := s.chargeAll (s.egressOf who.dom true (l.take 8))
    let s1 := ((sent.linkOut l 2 e.launch).getD sent).pokes (l.take 8) (natLe 8 count.toNat)
    let s2 := s1.chain s.rels (l.take 8) (some r)
    let reg := leNat ((b.drop 16).take 8)
    if count == 0 && reg.testBit 63 then
      let e := match find? s2.joins ((l.map (·.key)).headD 0) with
        | some j => { e with launch := j.launch, group := j.group, dom := j.dom }
        | none => e
      let core := ((s2.launch? e.launch).bind fun x => find? x.moved (reg % 2 ^ 13)).getD (reg % 2 ^ 13)
      { s2 with msgs := s2.msgs ++ [{ e with
          entry := BitVec.ofNat 64 (leNat ((b.drop 8).take 8)) &&& ~~~ 1, p0 := a, p1 := 0, p2 := 0, p3 := 0, kind := .continuation,
          target := core, join := none, seq := s2.seq }] }.stamp
    else s2

/-- The partition whose cut a core takes part in. -/
def State.corePart (s : State) (core : Nat) : Nat := s.flightPart (flightOf core)

/-- The colour bit of a core (R471): its partition's, but for a core that has flipped in the cut under way. -/
def State.colourOf (s : State) (core : Nat) : Bool := (s.part (s.corePart core)).colour ^^ (s.core core).flipped

/-- Whether a context holds no task, or a suspended one. -/
def Ctx.stopped (c : Ctx) : Bool := !c.live || c.st == .waiting .suspended

/-- Whether a kill of a launch of a partition waits for a cut (R273, R471). -/
def State.killCut (s : State) (part : Nat) : Bool := s.launches.any fun p => p.2.part == part && p.2.cut.isSome

/-- Whether the task in a context counts as live for the cut of its core (R471). DESIGN CHOICE (logs 34, 37): a suspended
task does not, nor does one of a launch whose kill waits for the cut; nor, while a kill waits, one that is HELD or whose
GREVOKE_KILL waits, so that a handler's kill does not wait for the task that its trap holds. -/
def State.cutLive (s : State) (k : Nat) (c : Ctx) : Bool :=
  !c.stopped && !((c.st == .held || c.kill.isSome) && s.killCut (s.corePart (coreOf k))) &&
    !(numOf k == 10 && s.isService (coreOf k)) && !(s.launch? c.t.launch).any (·.cut.isSome)

/-- Whether a core holds no live task of its flight's partition, so that it flips at once (R471). -/
def State.coreEmpty (s : State) (core : Nat) : Bool :=
  s.allCtxs.all fun p => isG p.1 || coreOf p.1 != core || !s.cutLive p.1 p.2

/-- Whether a core has flipped in the cut under way on its flight. -/
def State.hasFlipped (s : State) (core : Nat) : Bool := (s.core core).flipped || s.coreEmpty core

/-- A core flips its colour while a cut is under way on its flight (R471). -/
def State.flipAt (s : State) (core : Nat) : State :=
  if (s.flight (flightOf core)).cutting then s.onCore core fun x => { x with flipped := true } else s

/-- An entry that carries a task's launch, domain and group (R271, R277). -/
def State.entryOf (s : State) (k : Nat) (entry p0 p1 p2 p3 : Word) (kind : TaskKind) : Entry :=
  let c := s.ctx k
  let core := if isG k then (c.t.home.map coreOf).getD (coreOf k) else coreOf k
  { entry := entry &&& ~~~ 1, p0 := p0, p1 := p1, p2 := p2, p3 := p3, senderChip := s.chip, targetChip := s.chip,
    kind := kind, sender := core, target := 0, group := c.t.group, colour := s.colourOf core, dom := c.c.dom, launch := c.t.launch,
    fromCtx := k, fromSerial := c.c.serial, join := none, leaf := c.t.leaf, wu := false, box := 0, seq := s.seq }

/-- The task in a context is gone: its context FREE, its queues empty, its workspace returned, its parked stores
discarded, its box released (R31, R148, R309). Sleepers that it wakes are woken (R149). -/
def State.removeTask (s : State) (k : Nat) : State :=
  let c := s.ctx k
  let s := if c.c.bx then s.unbox (coreOf k) else s
  let s := (s.freePoolWs k).dropParked k c.c.serial
  let s := if c.t.kind == .helper then
      s.wakeCore (homeOf k c) fun _ x => x.live && x.c.serial == c.t.starter else s
  let r := { c.r with q0 := [], q1 := [], q2 := [], q3 := [] }
  let s := s.setCtx k { Ctx.idle with r := r, c := { c.c with psw := setBit c.c.psw 12 false }, t := .none, last := c.last }
  -- a core flips its colour at a task's end during a cut (R471)
  if isG k then s else s.flipAt (coreOf k)

/-- The task in a context has ended normally (R24, R31, R257): its join count falls, and it is removed. -/
def State.taskEnded (s : State) (k : Nat) : State :=
  let c := s.ctx k
  let s := match c.t.join with
    | some a => s.joinDec (s.whoOf k) a (s.entryOf k 0 0 0 0 0 .continuation) (relOf k c 1)
    | none => s
  s.removeTask k

/-- A context leaves a wait or a trap to run other code: an incomplete REP and a pending prefix are discarded (R181,
R238, R342, R403), and with them what its vector stream has not executed and the loft commands that have not entered their queue
(R236; DESIGN CHOICE, log 55). -/
def Ctx.unblock (c : Ctx) : Ctx :=
  { c with st := .ready, rep := none, wokeBy := none, imp := none, c := c.c.setPp false,
           vs := c.vs.filter fun v => v.later.isNone && v.cmd.isNone }

/-- A task ends other than by its own END (R363, R438): its stack is unwound first. -/
def State.endTask (s : State) (k : Nat) : State :=
  let c := s.ctx k
  if c.frames.isEmpty then s.taskEnded k
  else s.setCtx k { c.unblock with unwind := [{ why := .ends, depth := 1 }] }

/-! ### Traps and handlers (R451 to R458) -/

/-- Where the trap record of a context stands (R452). Log 18: a gondola thread's stands with the service core of its
flight, beside the replay entries'. -/
def State.recordKey (s : State) (k : Nat) : Nat :=
  if isG k then spadKey (s.serviceCore (s.servedBy k)) (0x38600 + 64 * numOf k)
  else spadKey (coreOf k) (0x38000 + 64 * numOf k)

/-- The bytes of a trap record (R452). -/
def recordBytes (cause xpc xpsw tval : Word) (bits code : Nat) (resume : Word) (serial : Nat) (dom : Dom) (ctx : Nat) :
    List Byte :=
  natLe 8 cause.toNat ++ natLe 8 xpc.toNat ++ natLe 8 xpsw.toNat ++ natLe 8 tval.toNat ++
  natLe 8 (bits % 2 ^ 32 + 2 ^ 32 * (code % 2 ^ 12)) ++ natLe 8 resume.toNat ++ natLe 8 serial ++
  natLe 8 (dom.toNat + 2 ^ 12 * (ctx % 16) + 2 ^ 16)

/-- The weight of a domain at the service cores (R486, R487): 0 is taken as 1. -/
def State.domWeight (s : State) (part : Nat) (d : Dom) : Nat :=
  let pa := (s.part part).domWeights.toNat + d.toNat
  let b := if (s.tableBad pa).isSome then 0 else (Memory.get s.mem (s.chip.toNat * 2 ^ 46 + pa)).toNat
  if b == 0 then 1 else b

/-- The domains with requests in a queue or waiting. -/
def reqDoms (f : Flight) : List Dom := ((f.supq ++ f.supWait).map (·.dom)).eraseDups

/-- Whether a domain may put one more request into a supervisor queue (R487). -/
def State.supRoom (s : State) (f : Flight) (d : Dom) : Bool :=
  let part := (f.part).getD 0
  let ds := if (reqDoms f).any (· == d) then reqDoms f else d :: reqDoms f
  let w := s.domWeight part d
  let tot := (ds.map (s.domWeight part)).sum
  f.supq.length < 64 && (f.supq.filter (·.dom == d)).length < max 1 (64 * w / tot)

/-- Virtual time counts in the least common multiple of the weights, so that cycles ÷ w is exact (R487). -/
def wfqUnit : Nat := (List.range 255).foldl (fun n i => Nat.lcm n (i + 1)) 1

/-- A request enters the supervisor queue: its finish time is the later of its domain's previous one and the queue's virtual
time, plus its handler's cycles ÷ w (R487); the cycles that its handler will take are free (log 33). -/
def State.enterSup (s : State) (f : Flight) (r : Request) : Flight :=
  let fin := max (find f.finish r.dom.toNat 0) f.vtime +
    Config.handlerCycles r.seq * (wfqUnit / s.domWeight (f.part.getD 0) r.dom)
  { f with supq := f.supq ++ [{ r with fin := fin }], finish := put f.finish r.dom.toNat fin }

/-- A handler request goes to the service core of a flight, or waits at its source (R454, R487). -/
def State.request (s : State) (r : Request) : State :=
  let s := s.stamp
  let r := { r with seq := s.seq }
  s.onFlight r.flight fun f =>
    if s.supRoom f r.dom then s.enterSup f r else { f with supWait := f.supWait ++ [r] }

/-- A trap record is written, with release at flight scope (R452). -/
def State.writeRecord (s : State) (key : Nat) (b : List Byte) (r : Rel) : State :=
  { s with mem := Memory.setBytes s.mem key b,
           rels := (List.range b.length).foldl (fun m i => put m (key + i) [r]) s.rels }

/-- ERET 1 (R438, R456): the linked task ends and its parked stores are discarded. -/
def State.disposeEnd (s : State) (t : TrapRef) : State :=
  match t with
  | .ctx k serial no =>
    let c := s.ctx k
    if c.live && c.c.serial == serial && c.st == .held && c.trapNo == no then
      (((s.clearRecord (s.recordKey k)).dropParked k serial).endTask k) else s
  | .replay core e no =>
    match (s.core core).replay.find? (fun p => p.id == e && p.no == no) with
    | none => s
    | some p =>
      let c := s.ctx p.ctx
      let s := s.clearRecord (replayKey core e)
      let s := s.dropParked p.ctx p.serial
      if c.live && c.c.serial == p.serial then s.endTask p.ctx else s

/-- A supervisor task that faults ends; its linked trap is disposed of as ERET 1 does, and the event is logged (R458). -/
def State.supervisorFault (s : State) (k : Nat) : State :=
  let c := s.ctx k
  let s := s.logAt (ctxDie k) (coreOf k) (isG k) 10 0 0 0 0 0
  let s := s.removeTask k
  match c.t.trap with
  | some t => s.disposeEnd t
  | none => s

/-- The pending prefix word is written into the hardware save area of the workspace, at its start (R32, R238; log 61). -/
def State.keepPrefix (s : State) : State :=
  match wsKey s.cur s.me with
  | none => s
  | some a => s.hwBytes (a + 0x550) (natLe 4 s.me.fmt.toNat)

/-- Taking a precise exception (R451): the control registers and the trap record are written, the context becomes
HELD, and a request goes to the service core of its flight. `xpc` is the instruction's own PC, but for a trace BREAK
(R461). A task with psw.S = 1 ends instead (R458), once the log has room for its record (R382). -/
def State.takeTrap (s : State) (c : Cause) (tval xpc resume : Word) (bits code : Nat) : State :=
  if s.me.c.s then
    if s.myLogFull then { s with me := { s.me with st := .waiting .fatal, imp := some c } } else s.supervisorFault s.cur
  else
    let cause : Word := .ofNat 64 c.code
    let xpsw : Word := s.me.c.psw.setWidth 64
    let csr := { s.me.c with cause := cause, xpc := xpc, xpsw := xpsw, tval := tval }
    let rk := s.recordKey s.cur
    let s := if s.me.c.pp then s.keepPrefix else s
    let s1 := { s with me := { s.me with st := .held, c := csr, resume := resume, trapNo := s.seq } }.writeRecord rk
      (recordBytes cause xpc xpsw tval bits code resume csr.serial csr.dom (numOf s.cur)) (s.myRel 1)
    s1.request
      { trap := .ctx s.cur csr.serial s.seq, core := coreOf s.cur, ctx := numOf s.cur, cause := c, tval := tval,
        code := .ofNat 12 code, dom := csr.dom, die := ctxDie s.cur, flight := s.servedBy s.cur, seq := 0, fin := 0 }

/-- The value of c.tval for a cause (R55): the instruction for UND and ENC, else the address given. -/
def tvalOf (c : Cause) (bits : Nat) (a : Word) : Word :=
  match c with
  | .und | .enc => .ofNat 64 bits
  | .align | .xltFetch | .xltLoad | .xltStore | .pot => a
  | _ => 0

/-- An imprecise fatal cause reaches the task of a context (R457): it stops where it stands, and its launch ends
FAULT; a supervisor task ends (R458), once the log has room. A trap that held it is disposed of. -/
def State.imprecise (s : State) (k : Nat) (c : Cause) (tval : Word) : State :=
  let x := s.ctx k
  let s := if x.st == .held then s.clearRecord (s.recordKey k) else s
  if x.c.s && !s.logFull (ctxDie k) then s.supervisorFault k
  else
    let csr := { x.c with
      cause := BitVec.ofNat 64 (2 ^ 63 + c.code), xpc := x.pc, xpsw := x.c.psw.setWidth 64,
      tval := if c == .macFail || c == .eccUe then tval else 0 }
    (s.setCtx k { x with st := .waiting .fatal, imp := some c, c := csr })

/-- The address-space entry that hardware has read for a context stands in a bad line, which is fatal there (R371, R448). -/
def State.spaceFault (s : State) (k part : Nat) (d : Dom) : State :=
  let pa := (s.part part).spaceBase + 16 * d.toNat
  match s.tableBad pa with
  | none => s
  | some c => (s.hwMac (ctxDie k) (coreOf k) (isG k) d c (s.chip.toNat * 2 ^ 46 + pa) 0).imprecise k c (.ofNat 64 pa)

/-- A task starts in a context, which loads its domain's address-space entry (R37, R371, R448). -/
def State.beginTask (s : State) (k : Nat) (entry p1 p2 p3 p4 : Word) (dom : Dom) (lrec : Word) (t : Task)
    (psw : BitVec 19) : State :=
  (s.startTask k entry p1 p2 p3 p4 dom lrec t psw).spaceFault k (s.flightPart (flightOf (coreOf k))) dom

/-! ### The frame of a meaning -/

/-- What the body of a meaning comes to. -/
inductive Res where
  /-- the instruction retires and the PC advances past it -/
  | done (s : State)
  /-- the instruction retires and the PC becomes pc -/
  | goto (pc : Word) (s : State)
  /-- a precise cause with an address; s holds what is kept although the instruction has no effect -/
  | trap (c : Cause) (tval : Word) (s : State)
  /-- TRAP and BREAK with their code (R461) -/
  | code (c : Cause) (n : Nat)
  /-- the instruction waits; s holds what is kept -/
  | wait (w : Wait) (s : State)
  /-- an imprecise fatal cause (R371, R457) -/
  | fatal (c : Cause) (tval : Word) (s : State)
  /-- the instruction has done its own accounting (it ended, moved or replaced the task) -/
  | whole (s : State)

/-- A context waits (R27); `since` is the cycle at which this wait began. -/
def State.waiting (s : State) (w : Wait) : State :=
  { s with me := { s.me with st := .waiting w, since := if s.me.st == .waiting w then s.me.since else s.cycle } }

/-- What follows a repetition's instruction (R178): the next one of the body, the next pass, or the end. -/
def Rep.next (r : Rep) (pc next : Word) : Option Rep × Word :=
  if r.index + 1 < r.n then (some { r with index := r.index + 1 }, next)
  else if r.pass + 1 < r.count then (some { r with index := 0, pass := r.pass + 1 }, r.body)
  else (none, let _ := pc; next)

/-- Whether a launch's counter of retired instructions runs (R402, R423). -/
def Launch.counting (l : Launch) : Bool := l.mode == 2 && !l.expired && l.ending.isNone

/-- The launch's retired-instruction counter rises (R402, R423). An instruction behind one that the vector stream has not executed
retires when that one does. -/
def State.countRetired (s : State) : State :=
  if s.me.t.launch == 0 || s.me.stalled then s
  else s.onLaunch s.me.t.launch fun l => if l.counting then { l with counter := l.counter + 1 } else l

/-- Whether the issuing context leaves an asleep wait as it goes on. -/
def Ctx.wasAsleep (c : Ctx) : Bool :=
  match c.st with
  | .waiting w => w.asleep
  | _ => false

/-- Counts one retired instruction (R58, R402) and clears a pending prefix and a wait. -/
def State.retired (s : State) (keepPp : Bool) : State :=
  let s := if s.me.wasAsleep then s.noteWoke s.me.t.launch (ctxFlight s.cur) else s
  let s := s.countRetired
  let c := s.me.c
  { s with me := { s.me with
      st := .ready, c := { c with ret := c.ret + 1, psw := if keepPp then c.psw else setBit c.psw 1 false },
      vs := s.me.vs.map fun v => { v with age := v.age + 1 } } }

/-- Retirement (R39, R58, R178, R461): the count, the PC, a repetition's progress, and the trace BREAK. -/
def State.retireQuiet (s : State) (keepPp : Bool) (jump : Option Word) (len : Nat) : State :=
  let s := s.retired keepPp
  let next := s.me.pc + .ofNat 64 len
  let (rep, pc) := match s.me.rep, jump with
    | some r, none => r.next s.me.pc next
    | some _, some p => (none, p)
    | none, some p => (none, p)
    | none, none => (none, next)
  { s with me := { s.me with pc := pc, rep := rep } }

/-- The trace BREAK after an instruction that has set the PC (R461). -/
def State.traced (s : State) : State :=
  if s.me.c.tr && s.me.st == .ready then s.takeTrap .brk 0 s.me.pc s.me.pc 0 0xFFF else s

def State.retire (s : State) (keepPp : Bool) (jump : Option Word) (len : Nat) : State :=
  (s.retireQuiet keepPp jump len).traced

/-- Whether the instruction is unavailable where it issues (R30, R72, R76, R78, R79). -/
def State.unavailable (s : State) (g : Grp) : Bool :=
  let gond := isG s.cur
  let helper := !gond && numOf s.cur != 0
  let bx := s.me.c.bx
  (s.me.c.pp && g != .prefixed && g != .needsPrefix) ||
  match g with
  | .plain => false
  | .smallOnly | .prefixed => gond
  | .needsPrefix => gond || !s.me.c.pp
  | .repeats => gond || bx
  | .control => gond || helper || bx
  | .noBox => bx
  | .never => true

/-- The causes UND, ENC and PRIV of R76, in that order. FMT and REP are UND inside a REP body, where a later pass finds one too
(R72, R178). DESIGN CHOICE (log 51): a GMATH on a small core takes them in this order
too, UND of a box, then ENC of a nonzero unused field, and the GATE of a gate after both (R77 gives none). -/
def State.precheck (s : State) (i : Instr) : Option Cause :=
  if s.unavailable i.grp || (i.isControl && s.me.rep.isSome) then some .und
  else if !i.wf then some .enc
  else if i.needsS && !s.me.c.s then some .priv
  else none

/-- The length of an instruction in bytes (R60). -/
def ilen (i : Instr) : Nat :=
  match encode i with
  | some (16, _) => 2
  | _ => 4

/-- The trap of an instruction at the issuing context's PC. TRAP and BREAK resume after themselves (R452). -/
def State.trapAt (s : State) (i : Instr) (c : Cause) (tval : Word) (code : Nat) : State :=
  let pc := s.me.pc
  let s := if s.me.wasAsleep then s.noteWoke s.me.t.launch (ctxFlight s.cur) else s
  s.takeTrap c (tvalOf c (s.me.bits i) tval) pc (if c == .trap || c == .brk then pc + .ofNat 64 (ilen i) else pc)
    (s.me.bits i) code

/-! ### The two streams (R41, R45 to R47) -/

/-- Whether an instruction can be left to the vector stream, so that the scalar stream goes on while it waits: any of that stream
but FMT and REP, which make the instructions after them what they are (log 55). With psw.TR set each instruction completes
before the next (R461). -/
def Ctx.leaves (c : Ctx) (i : Instr) : Bool := i.vector && !i.isControl && !c.c.tr

/-- A vector-stream instruction that waits is left to its stream, and the scalar stream goes on past it (R41, R46). -/
def State.leave (s : State) (i : Instr) (w : Wait) : State :=
  let c := s.me
  let l : Later := { ins := i, st := .waiting w, pc := c.pc, r := c.r, psw := c.c.psw, sr := c.c.sr, fmt := c.fmt, rep := c.rep, ret := c.c.ret }
  let v : Behind := { push := none, cmd := none, later := some l, pop0 := 0, pop1 := 0, age := 0 }
  { s with me := { c with vs := c.vs ++ [v] } }.retireQuiet false none (ilen i)

/-- The stream of an instruction that cannot complete waits (R27, R41). -/
def State.blocked (s : State) (i : Instr) (w : Wait) : State := if s.me.leaves i then s.leave i w else s.waiting w

/-- Whether an instruction may raise a cause or reach memory or a slot when the vector stream comes to it, so that a younger
instruction must leave nothing behind that could not be undone (R46, R47). -/
def Later.risky (l : Later) : Bool :=
  match l.ins with
  | .lswap | .lstat _ | .lpri _ _ | .lfence => false
  | i => i.grp == .needsPrefix || (i.major.any fun op => 0x59 ≤ op)

/-- Whether an instruction may take draws under SR (R114, R115) when the vector stream comes to it. -/
def Later.mayDraw (l : Later) : Bool :=
  5 ≤ (l.psw.extractLsb' 3 3).toNat || (l.psw.getLsbD 1 && 5 ≤ (l.fmt.extractLsb' 17 3).toNat) ||
  match l.ins with
  | .vfma _ _ _ _ _ r | .vfms _ _ _ _ _ r | .vfnma _ _ _ _ _ r | .vfnms _ _ _ _ _ r => r == .sr
  | _ => false

/-- The entries of q0 or q1 that an instruction which has not been executed is to take (R41, R161). -/
def Later.pops (l : Later) (n : BitVec 2) : Nat :=
  let one := fun (x : Opnd) => if x == .q n then 1 else 0
  match l.ins with
  | .vbcast _ a _ => one a
  | .vins _ a b _ => one a + one b
  | .vextr _ _ b _ => one b
  | .vlds _ _ k _ _ | .vsts _ _ k _ _ => one k
  | _ => 0

/-- The entries of q0 or q1 that the instructions which the vector stream has not executed are to take, before any younger one
(R41). -/
def Ctx.owed (c : Ctx) (n : BitVec 2) : Nat := ((c.vs.filterMap (·.later)).map (·.pops n)).sum

/-- Whether the instruction at the PC waits behind the instructions that the vector stream has not executed (R46, R47; log
55): one of the same stream in its order, REP where its count is to come from a queue and is not there; one of the scalar
stream where it reaches more than registers and one of them is risky, where it is no plain access and LFENCE is among them
(R217), and where it may take a draw before one of them does (R115). -/
def Ctx.heldBack (c : Ctx) (i : Instr) : Bool :=
  c.stalled &&
  if i.vector then
    match i with
    | .rep _ (.q n) _ _ => (c.r.getQ n).length ≤ c.owed n
    | _ => !i.isControl
  else
    let l := c.vs.filterMap (·.later)
    match i.reach with
    | .registers => (i.major.any fun op => 0x40 ≤ op && op ≤ 0x44) && l.any Later.mayDraw
    | .access => l.any Later.risky
    | .more => l.any fun x => x.risky || x.ins == .lfence

/-- The queue q2 or q3 of the scalar stream. -/
def scalarQ (q3 : Bool) : BitVec 2 := if q3 then 3 else 2

/-- Whether the queues of a context are still those of the LSTAT's issue: GCALL and GRET have emptied none since (R38). -/
def Ctx.awaits (x : Ctx) (c : LoftCmd) : Bool := x.live && x.c.serial == c.task && x.frames.length == c.depth

/-- Whether an LSTAT of a context finds no room in its queue, as the registers r stand (R243). -/
def Ctx.lstatFull (x : Ctx) (r : Regs) (c : LoftCmd) (q3 : Bool) : Bool := x.awaits c && 8 ≤ (r.getQ (scalarQ q3)).length

/-- Whether the vector stream of a context is blocked, as its registers r stand: an LSTAT of its task that could start finds its
queue full (R231, R243). -/
def State.lstatBlocks (s : State) (k : Nat) (r : Regs) : Bool :=
  match (s.core (coreOf k)).loftq with
  | c :: _ => (match c.op with
    | .lstat q3 => c.ctx == k && (s.ctx k).lstatFull r c q3
    | _ => false)
  | [] => false

/-- Whether the instruction at the PC may not issue yet for what the vector stream has yet to do (R46, R47), or is of that stream
while an LSTAT blocks it (R243). -/
def State.heldBack (s : State) (i : Instr) : Bool :=
  s.me.heldBack i || (i.vector && !i.isControl && s.lstatBlocks s.cur s.me.r)

/-- A precise cause is raised once every older instruction is complete (R46). -/
def State.raise (s : State) (i : Instr) (c : Cause) (tval : Word) (code : Nat) : State :=
  match s.behind with
  | none => s.trapAt i c tval code
  | some w => s.blocked i w

/-- Whether the scalar stream is 64 instructions ahead of an incomplete vector-stream instruction (R46). -/
def Ctx.tooFar (c : Ctx) : Bool :=
  match c.vs with
  | [] => false
  | v :: _ => 64 < v.age

/-- What the body of a meaning comes to, as the outcome of the step. -/
def State.finish (s : State) (i : Instr) (r : Res) : Out :=
  match r with
  | .done t => .next (t.retire false none (ilen i))
  | .goto pc t => .next (t.retire false (some pc) (ilen i))
  | .trap c a t => .next (t.raise i c a 0)
  | .code c n => .next (s.raise i c 0 n)
  | .wait w t => .next (t.blocked i w)
  | .fatal c a t => .next (t.imprecise t.cur c a)
  | .whole t => .next t

/-- The meaning of an instruction: the causes of R76, the order of the two streams (R46, R47), then its body. -/
def issue (i : Instr) (s : State) (body : State → Res) : Out :=
  match s.precheck i with
  | some c => .next (s.raise i c 0 0)
  | none =>
    if s.me.tooFar then .next (s.waiting .queue)
    else if s.heldBack i then .next (s.blocked i s.vecWait)
    else s.finish i (body s)

/-- A body over a memory access. -/
def Mem.then {α : Type} (m : Mem α) (k : α → State → Res) : Res :=
  match m with
  | .ok a s => k a s
  | .trap c t s => .trap c t s
  | .park t s => .trap .xltStore t s
  | .fatal c t s => .fatal c t s
  | .wait w s => .wait w s

/-- The lowest-numbered free entry of a replay queue of 8 (R307). -/
def freeEntry (l : List Parked) (i fuel : Nat) : Option Nat :=
  match fuel with
  | 0 => none
  | k + 1 => if l.any (·.id == i) then freeEntry l (i + 1) k else some i

/-- A store of the task in context k that failed its translation takes an entry of its core's replay queue: its trap
record is written and a request is made, for the domain whose store it is (R307, R362, R452, R454). None where the queue
is full. A gondola thread's task uses its home core's queue (log 19). -/
def State.parkIn (s : State) (k : Nat) (w : Who) (fail : Word) (vec : Bool) (parts : List (Word × List (Nat × Byte))) (bits : Nat)
    (xpc : Word) (payer : Option Dom) : Option State :=
  let x := s.ctx k
  let core := homeOf k x
  match freeEntry (s.core core).replay 0 8 with
  | none => none
  | some e =>
    let c := x.c
    let p : Parked :=
      { id := e, no := s.seq, ord := s.seq, ctx := k, serial := c.serial, fail := fail, parts := parts, vec := vec, dom := w.dom,
        s := w.s, asid := w.asid, ttb := w.ttb, xpc := xpc, psw := c.psw, bits := .ofNat 32 bits, cause := .xltStore,
        go := false, stalled := false, payer := payer }
    let s1 := s.onCore core fun x => { x with replay := x.replay ++ [p] }
    let b := recordBytes 7 xpc (c.psw.setWidth 64) fail bits 0 xpc c.serial w.dom (numOf k)
    some ((s1.writeRecord (replayKey core e) b (relOf k x 1)).request
      { trap := TrapRef.replay core e s.seq, core := core, ctx := numOf k, cause := .xltStore, tval := fail, code := 0,
        dom := w.dom, die := ctxDie k, flight := flightOf core, seq := 0, fin := 0 })

/-- A store of the issuing task that failed its translation parks, and the instruction retires (R307). -/
def State.parkStore (s : State) (i : Instr) (fail : Word) (vec : Bool) (parts : List (Word × List (Nat × Byte))) : Res :=
  if 8192 ≤ homeOf s.cur s.me then .trap .xltStore fail s
  else match s.parkIn s.cur s.who fail vec parts (s.me.bits i) s.me.pc none with
    | none => .wait .replay s
    | some t => .done t

/-- The bytes of one element with their offsets. -/
def numbered (b : List Byte) : List (Nat × Byte) := (List.range b.length).zip b

/-- A body over a store of bytes at one address, which may park. -/
def Mem.stored (m : Mem Unit) (i : Instr) (ea : Word) (b : List Byte) : Res :=
  match m with
  | .park t s => s.parkStore i t false [(ea, numbered b)]
  | .ok _ s => .done s
  | .trap c t s => .trap c t s
  | .fatal c t s => .fatal c t s
  | .wait w s => .wait w s

end Sys2Proof.Machine
end
end

