-- ==== Sys2Proof/Machine/Fetch.lean ====
section
/-!
DEFINITION. Fetching an instruction (R60, R61, R74) and the body of a REP (R178).
-/
noncomputable section
namespace Sys2Proof.Machine

/-- What a fetch comes to: the bits, or a cause at an address. -/
inductive Fetched where
  | bits (w : Nat)
  | trap (c : Cause) (tval : Word)
  | fatal (c : Cause) (tval : Word) (key : Nat) (owner : Dom)
  deriving DecidableEq, Repr

/-- What a halfword at a key held before the stores that came after the first `seen` of the machine, if there were any: before
the latest, before the one that it followed, and so on; h is what it holds now. The stores of one cycle count as one. -/
def State.olderHalves (s : State) (seen k h : Nat) : List Nat :=
  let m := (s.past.take (s.past.length - seen)).filter fun e => e.1 == k || e.1 == k + 1
  (m.map (·.2.1)).eraseDups.map fun t =>
    (m.filter (t ≤ ·.2.1)).foldl (fun h e => if e.1 == k then h / 256 * 256 + e.2.2.toNat else h % 256 + 256 * e.2.2.toNat) h

/-- A halfword as a fetch returns it (R300): what it holds, or what it held before a store that was made after the task's
dispatch and its latest FENCE.xlt (R321); which of them is free (log 14). -/
def State.fetched (s : State) (k h : Nat) : Nat :=
  match s.olderHalves s.me.t.seen k h with
  | [] => h
  | l => (h :: l).getD (Config.fetchChoice s.cur s.cycle k % (l.length + 1)) h

/-- One halfword. -/
def State.halfword (s : State) (pc : Word) : Fetched :=
  match s.check s.who .fetch pc 2 with
  | .error (c, a) =>
    match if c.precise then none else s.walkBad s.who a.toNat with
    | some (e, k, o) => .fatal e pc k o
    | none => .trap c (.ofNat 64 (a.toNat / 2 * 2))
  | .ok l =>
    match s.linesBad l with
    | some (c, k, o) => .fatal c pc k o
    | none => .bits (s.fetched ((l.head?.map Where.key).getD 0) (leNat (s.peeks l)))

/-- The bits of the instruction at the PC: one halfword, or two when bit 0 is set (R60). -/
def State.fetch (s : State) : Fetched :=
  match s.halfword s.me.pc with
  | .bits h =>
    if h % 2 == 0 then .bits h
    else match s.halfword (s.me.pc + 2) with
      | .bits h2 => .bits (h + 2 ^ 16 * h2)
      | r => r
  | r => r

/-- The request of a fetch from another chip has left over the link (R492); none while no port can carry it. An instruction that
waited has been fetched before. -/
def State.fetchSent (s : State) (n : Nat) : Option State :=
  match s.me.st, s.check s.who .fetch s.me.pc n with
  | .ready, .ok l => s.linkOut l 0 s.me.t.launch
  | .waiting .send, .ok l => s.linkOut l 0 s.me.t.launch
  | _, _ => some s

/-- The decoder on fetched bits; a first halfword 0xFFFF has the major opcode 0x7F, undecodable whatever follows (R74). -/
def decodeFetched (w : Nat) : Decoded := decode w

/-- Whether an instruction may stand in a REP body, by its bits (R178). -/
def bodyOk (w : Nat) : Bool :=
  if w % 2 == 0 then
    let op := w / 2 ^ 11
    (1 ≤ op && op ≤ 15) || op == 22
  else
    let op := w / 2 % 128
    (0x01 ≤ op && op ≤ 0x0C) || (0x10 ≤ op && op ≤ 0x12) || (0x28 ≤ op && op ≤ 0x33) || (0x40 ≤ op && op ≤ 0x44) ||
      (0x50 ≤ op && op ≤ 0x5F) || op == 0x63

/-- What fetching a REP body comes to: its length in bytes, or a cause. -/
inductive Body where
  | ok (next : Word)
  | bad (f : Fetched)
  | und
  deriving DecidableEq, Repr

/-- Fetches n body instructions from an address on (R178): the address after them, or the first that has a cause. -/
def State.body (s : State) (pc : Word) : Nat → Body
  | 0 => .ok pc
  | n + 1 =>
    match { s with me := { s.me with pc := pc } }.fetch with
    | .bits w => if bodyOk w then s.body (pc + if w % 2 == 0 then 2 else 4) n else .und
    | r => .bad r

end Sys2Proof.Machine
end
end

