-- ==== Sys2Proof/Machine/Operands.lean ====
section
/-!
DEFINITION. Operands: reading and writing 6-bit specifiers (R66, R67), the queue registers between the two streams
(R41, R46), the push into the last-result file (R39), and the shapes that meanings share.
-/
noncomputable section
namespace Sys2Proof.Machine

/-! ### Sources -/

/-- The value of a source specifier; none when it names an empty queue (R41, R66, R67). -/
def Regs.val (r : Regs) (x : Opnd) : Option Word :=
  match x with
  | .w n => some (r.getW n)
  | .o n => some (r.getO n)
  | .l n => some (r.getL n)
  | .q n => (r.getQ n).head?
  | .imm i => some (i.signExtend 64)

/-- The registers after a source specifier has been read: a queue loses its first entry. -/
def Regs.popped (r : Regs) (x : Opnd) : Regs :=
  match x with
  | .q n => r.setQ n (r.getQ n).tail
  | _ => r

/-- What a vector-stream instruction that goes past those not yet executed reads of a source: of a queue the entry after
those that they are to take (R41). -/
def Ctx.entry (c : Ctx) (x : Opnd) : Option Word :=
  match x with
  | .q n => (c.r.getQ n)[c.owed n]?
  | _ => c.r.val x

/-- The registers after it has been read. -/
def Ctx.entryTaken (c : Ctx) (x : Opnd) : Regs :=
  match x with
  | .q n => c.r.setQ n ((c.r.getQ n).eraseIdx (c.owed n))
  | _ => c.r

/-- The values of two sources, a before b (R67). -/
def Regs.val2 (r : Regs) (a b : Opnd) : Option (Word × Word) :=
  match r.val a, (r.popped a).val b with
  | some x, some y => some (x, y)
  | _, _ => none

/-- The old value of a destination field that is also read (R124). -/
def Regs.old (r : Regs) (d : Opnd) : Word :=
  match d with
  | .w n => r.getW n
  | .o n => r.getO n
  | _ => 0

/-! ### The queues and the vector stream (R41, R46) -/

/-- Whether an LSTAT of the task in a context that is to push into q2 or q3 has not done so: a younger push waits (R41, R243). -/
def State.lstatPending (s : State) (k : Nat) (q3 : Bool) : Bool :=
  (s.core (coreOf k)).loftq.any fun c => c.op == .lstat q3 && c.ctx == k && c.task == (s.ctx k).c.serial

/-- Entries pushed into q2 (false) and q3 (true), in order. -/
def Regs.fed (r : Regs) (l : List (Bool × Word)) : Regs :=
  l.foldl (fun r p => r.setQ (scalarQ p.1) (r.getQ (scalarQ p.1) ++ [p.2])) r

/-- What stands at the place of an instruction that has not been executed changes with what an older one does. -/
def Behind.onLater (f : Later → Later) (v : Behind) : Behind := { v with later := v.later.map f }

/-- Entries that an older instruction pushes stand in q2 and q3 at the place of a younger one. -/
def Behind.fed (l : List (Bool × Word)) (v : Behind) : Behind := v.onLater fun x => { x with r := x.r.fed l }

/-- Entries are pushed into q2 and q3 of a context. -/
def Ctx.fed (c : Ctx) (l : List (Bool × Word)) : Ctx := { c with r := c.r.fed l, vs := c.vs.map (Behind.fed l) }

/-- The incomplete instructions of a vector stream that can complete do, in order: a push takes place once its queue, which holds
n2 or n3 entries, has room and no older LSTAT is to push into it (p2, p3). The pushes, and what stays incomplete. -/
def settle (p2 p3 : Bool) (n2 n3 : Nat) : List Behind → List (Bool × Word) × List Behind
  | [] => ([], [])
  | v :: l =>
    if v.later.isSome || v.cmd.isSome then ([], v :: l)
    else match v.push with
      | none => settle p2 p3 n2 n3 l
      | some (q3, x) =>
        if (if q3 then p3 else p2) || 8 ≤ (if q3 then n3 else n2) then ([], v :: l)
        else
          let q := settle p2 p3 (if q3 then n2 else n2 + 1) (if q3 then n3 + 1 else n3) l
          ((q3, x) :: q.1, q.2)

/-- The registers and the vector stream of the task in a context, of which what can complete does; none while an LSTAT blocks the
stream (R243). -/
def State.settled (s : State) (k : Nat) (r : Regs) (vs : List Behind) : Regs × List Behind :=
  if s.lstatBlocks k r then (r, vs) else
  let q := settle (s.lstatPending k false) (s.lstatPending k true) r.q2.length r.q3.length vs
  (r.fed q.1, if q.1.isEmpty then q.2 else q.2.map (Behind.fed q.1))

/-- The issuing context with other registers and a vector stream, of which what can complete does. -/
def State.flow (s : State) (r : Regs) (vs : List Behind) : State :=
  let q := s.settled s.cur r vs
  { s with me := { s.me with r := q.1, vs := q.2 } }

/-- A source has been read. -/
def State.pop (s : State) (a : Opnd) : State := s.flow (s.me.r.popped a) s.me.vs

/-- Two sources have been read. -/
def State.pop2 (s : State) (a b : Opnd) : State := s.flow ((s.me.r.popped a).popped b) s.me.vs

/-- Whether a destination can be written: a full queue cannot (R41). Entries whose pop waits in the vector stream still
occupy q0 and q1. -/
def Ctx.room (c : Ctx) (d : Opnd) : Bool :=
  match d with
  | .q n =>
    (c.r.getQ n).length + (c.vs.map fun v => if n == 0 then v.pop0 else if n == 1 then v.pop1 else 0).sum < 8
  | _ => true

/-- A vector-stream instruction has had its effect but for a push or the entry of a loft command; it stays incomplete while an
older one is, or while these have no room. -/
def State.vectoredWith (s : State) (push : Option (Bool × Word)) (cmd : Option LoftCmd) (pops : List Opnd) : State :=
  let v : Behind := { push := push, cmd := cmd, later := none, pop0 := (pops.filter (· == .q 0)).length,
                      pop1 := (pops.filter (· == .q 1)).length, age := 0 }
  s.flow s.me.r (s.me.vs ++ [v])

/-- A vector-stream instruction has had its whole effect. -/
def State.vectored (s : State) (pops : List Opnd) : State := s.vectoredWith none none pops

/-! ### Destinations -/

/-- Writes a destination register (R66); the l file is not pushed. -/
def Regs.write (r : Regs) (d : Opnd) (x : Word) : Regs :=
  match d with
  | .w n => r.setW n x
  | .o n => r.setO n x
  | .q n => r.setQ n (r.getQ n ++ [x])
  | _ => r

/-- The result of a scalar-stream instruction: the destination and the push into the l file (R39). -/
def State.result (s : State) (d : Opnd) (x : Word) : State := s.onRegs fun r => (r.write d x).pushL x

/-- The result of an M-form instruction. -/
def State.resultW (s : State) (d : WReg) (x : Word) : State := s.result (.w d) x

/-- w(n) of the issuing context. -/
def State.w (s : State) (n : WReg) : Word := s.me.r.getW n

/-! ### Shapes -/

/-- An instruction that computes d from A and B. -/
def alu2 (i : Instr) (d a b : Opnd) (s : State) (f : Word → Word → Word) : Out :=
  issue i s fun s =>
    match s.me.r.val2 a b with
    | none => .wait .queue s
    | some (x, y) => if s.me.room d then .done ((s.pop2 a b).result d (f x y)) else .wait .queue s

/-- An instruction that computes d from A. -/
def alu1 (i : Instr) (d a : Opnd) (s : State) (f : Word → Word) : Out :=
  issue i s fun s =>
    match s.me.r.val a with
    | none => .wait .queue s
    | some x => if s.me.room d then .done ((s.pop a).result d (f x)) else .wait .queue s

/-- An instruction that computes d from nothing. -/
def alu0 (i : Instr) (d : Opnd) (s : State) (x : State → Word) : Out :=
  issue i s fun s => if s.me.room d then .done (s.result d (x s)) else .wait .queue s

/-- A load into d: the address from the values of the sources, the value from the bytes (R139, R141). -/
def State.loadTo (s : State) (d : Opnd) (pops : State → State) (ea : Word) (n : Nat) (f : Nat → Word) : Res :=
  if s.me.room d then
    (s.load ea n).then fun b t => .done ((pops t).result d (f (leNat b)))
  else .wait .queue s

/-- A store of the low n bytes of x (R139, R141, R307). -/
def State.storeFrom (s : State) (i : Instr) (pops : State → State) (ea : Word) (n : Nat) (x : Word) : Res :=
  match s.store ea (natLe n x.toNat) with
  | .ok _ t => .done (pops t)
  | .park a t =>
    match t.parkStore i a false [(ea, numbered (natLe n x.toNat))] with
    | .done u => .done (pops u)
    | r => r
  | .trap c a t => .trap c a t
  | .fatal c a t => .fatal c a t
  | .wait w t => .wait w t

end Sys2Proof.Machine
end
end

