-- ==== Sys2Proof/Machine/Integer.lean ====
section
/-!
DEFINITION. Integer instructions (R123 to R133) and their 16-bit equivalents (R64): the functions on 64-bit words, then
one meaning for each instruction.
-/
noncomputable section
namespace Sys2Proof.Machine

/-! ### Functions (R125, R127 to R129) -/

/-- 1 or 0. -/
def flagWord (b : Bool) : Word := if b then 1 else 0

/-- The shift amount of a 64-bit operand. -/
def amount (y : Word) : Nat := y.toNat % 64

/-- Bits 31:0, sign-extended through bit 63. -/
def sext32 (x : Word) : Word := (x.setWidth 32).signExtend 64

/-- The quotient of DIV; division by zero gives all ones, the overflow gives the dividend (R127). -/
def divS (a b : Word) : Word := if b == 0 then BitVec.allOnes 64 else BitVec.ofInt 64 (a.toInt.tdiv b.toInt)

/-- The remainder of REM, with the sign of the dividend (R127). -/
def remS (a b : Word) : Word := if b == 0 then a else BitVec.ofInt 64 (a.toInt.tmod b.toInt)

def divU (a b : Word) : Word := if b == 0 then BitVec.allOnes 64 else a / b
def remU (a b : Word) : Word := if b == 0 then a else a % b

/-- Bits 127:64 of the exact product, signed and unsigned. -/
def mulHigh (a b : Word) : Word := BitVec.ofInt 64 (a.toInt * b.toInt / 2 ^ 64)
def mulHighU (a b : Word) : Word := BitVec.ofNat 64 (a.toNat * b.toNat / 2 ^ 64)

/-- Zero bits above the highest set bit. -/
def clz64 (a : Word) : Word := if a == 0 then 64 else BitVec.ofNat 64 (63 - a.toNat.log2)

/-- Zero bits below the lowest set bit among bits i and above, counting from i. -/
def ctzFrom (a : Word) (i : Nat) : Nat → Nat
  | 0 => i
  | n + 1 => if a.getLsbD i then i else ctzFrom a (i + 1) n

def ctz64 (a : Word) : Word := BitVec.ofNat 64 (ctzFrom a 0 64)

/-- The number of set bits. -/
def popCount (a : Word) : Word := BitVec.ofNat 64 ((List.range 64).filter a.getLsbD).length

/-- Bit i of the result is bit 63 - i. -/
def bitRev (a : Word) : Word := a.reverse

/-- Byte i of the result is byte 7 - i. -/
def byteSwap (a : Word) : Word :=
  byteOf a 0 ++ byteOf a 1 ++ byteOf a 2 ++ byteOf a 3 ++ byteOf a 4 ++ byteOf a 5 ++ byteOf a 6 ++ byteOf a 7

/-- The mask of a bit field of len + 1 bits at pos; bits above 63 do not exist (R129). -/
def fieldMask (len pos : BitVec 6) : Word := BitVec.ofNat 64 (2 ^ (len.toNat + 1) - 1) <<< pos.toNat

def bitExtract (len pos : BitVec 6) (a : Word) : Word := (a &&& fieldMask len pos) >>> pos.toNat

def bitInsert (len pos : BitVec 6) (old a : Word) : Word :=
  (old &&& ~~~ fieldMask len pos) ||| ((a <<< pos.toNat) &&& fieldMask len pos)

/-! ### IALU (R125, R126) -/

/-- ADD (R125). -/
def execAdd (d a b : Opnd) (s : State) : Out := alu2 (.add d a b) d a b s (fun x y => x + y)

/-- SUB (R125). -/
def execSub (d a b : Opnd) (s : State) : Out := alu2 (.sub d a b) d a b s (fun x y => x - y)

/-- AND (R125). -/
def execAndI (d a b : Opnd) (s : State) : Out := alu2 (.andI d a b) d a b s (fun x y => x &&& y)

/-- OR (R125). -/
def execOrI (d a b : Opnd) (s : State) : Out := alu2 (.orI d a b) d a b s (fun x y => x ||| y)

/-- XOR (R125). -/
def execXorI (d a b : Opnd) (s : State) : Out := alu2 (.xorI d a b) d a b s (fun x y => x ^^^ y)

/-- ANDN (R125). -/
def execAndn (d a b : Opnd) (s : State) : Out := alu2 (.andn d a b) d a b s (fun x y => x &&& ~~~ y)

/-- SHL (R125). -/
def execShl (d a b : Opnd) (s : State) : Out := alu2 (.shl d a b) d a b s (fun x y => x <<< amount y)

/-- SHR (R125). -/
def execShr (d a b : Opnd) (s : State) : Out := alu2 (.shr d a b) d a b s (fun x y => x >>> amount y)

/-- SRA (R125). -/
def execSra (d a b : Opnd) (s : State) : Out := alu2 (.sra d a b) d a b s (fun x y => x.sshiftRight (amount y))

/-- ROL (R125). -/
def execRol (d a b : Opnd) (s : State) : Out := alu2 (.rol d a b) d a b s (fun x y => x.rotateLeft (amount y))

/-- ROR (R125). -/
def execRor (d a b : Opnd) (s : State) : Out := alu2 (.ror d a b) d a b s (fun x y => x.rotateRight (amount y))

/-- SLT (R125). -/
def execSlt (d a b : Opnd) (s : State) : Out := alu2 (.slt d a b) d a b s (fun x y => flagWord (x.slt y))

/-- SLTU (R125). -/
def execSltu (d a b : Opnd) (s : State) : Out := alu2 (.sltu d a b) d a b s (fun x y => flagWord (x.ult y))

/-- MIN (R125). -/
def execMinI (d a b : Opnd) (s : State) : Out := alu2 (.minI d a b) d a b s (fun x y => if x.sle y then x else y)

/-- MAX (R125). -/
def execMaxI (d a b : Opnd) (s : State) : Out := alu2 (.maxI d a b) d a b s (fun x y => if y.sle x then x else y)

/-- MINU (R125). -/
def execMinu (d a b : Opnd) (s : State) : Out := alu2 (.minu d a b) d a b s (fun x y => if x.ule y then x else y)

/-- MAXU (R125). -/
def execMaxu (d a b : Opnd) (s : State) : Out := alu2 (.maxu d a b) d a b s (fun x y => if y.ule x then x else y)

/-- MUL (R125). -/
def execMul (d a b : Opnd) (s : State) : Out := alu2 (.mul d a b) d a b s (fun x y => x * y)

/-- MULH (R125). -/
def execMulh (d a b : Opnd) (s : State) : Out := alu2 (.mulh d a b) d a b s mulHigh

/-- MULHU (R125). -/
def execMulhu (d a b : Opnd) (s : State) : Out := alu2 (.mulhu d a b) d a b s mulHighU

/-- DIV (R125). -/
def execDivI (d a b : Opnd) (s : State) : Out := alu2 (.divI d a b) d a b s divS

/-- DIVU (R125). -/
def execDivu (d a b : Opnd) (s : State) : Out := alu2 (.divu d a b) d a b s divU

/-- REM (R125). -/
def execRemI (d a b : Opnd) (s : State) : Out := alu2 (.remI d a b) d a b s remS

/-- REMU (R125). -/
def execRemu (d a b : Opnd) (s : State) : Out := alu2 (.remu d a b) d a b s remU

/-- ADD_W (R125). -/
def execAddW (d a b : Opnd) (s : State) : Out := alu2 (.addW d a b) d a b s (fun x y => sext32 (x + y))

/-- SUB_W (R125). -/
def execSubW (d a b : Opnd) (s : State) : Out := alu2 (.subW d a b) d a b s (fun x y => sext32 (x - y))

/-- SHL_W (R125). -/
def execShlW (d a b : Opnd) (s : State) : Out := alu2 (.shlW d a b) d a b s (fun x y => sext32 (x <<< (y.toNat % 32)))

/-- SHR_W (R125). -/
def execShrW (d a b : Opnd) (s : State) : Out := alu2 (.shrW d a b) d a b s (fun x y => sext32 (((x.setWidth 32) >>> (y.toNat % 32)).setWidth 64))

/-- SRA_W (R125). -/
def execSraW (d a b : Opnd) (s : State) : Out := alu2 (.sraW d a b) d a b s (fun x y => ((x.setWidth 32).sshiftRight (y.toNat % 32)).signExtend 64)

/-- MUL_W (R125). -/
def execMulW (d a b : Opnd) (s : State) : Out := alu2 (.mulW d a b) d a b s (fun x y => sext32 (x * y))

/-- SEL (R126): the condition is the old d. -/
def execSel (d a b : Opnd) (s : State) : Out :=
  alu2 (.sel d a b) d a b s fun x y => if s.me.r.old d != 0 then x else y

/-! ### IUNARY (R128) -/

/-- CLZ (R128). -/
def execClz (d a : Opnd) (s : State) : Out := alu1 (.clz d a) d a s clz64

/-- CTZ (R128). -/
def execCtz (d a : Opnd) (s : State) : Out := alu1 (.ctz d a) d a s ctz64

/-- POPC (R128). -/
def execPopc (d a : Opnd) (s : State) : Out := alu1 (.popc d a) d a s popCount

/-- SEXT_B (R128). -/
def execSextB (d a : Opnd) (s : State) : Out := alu1 (.sextB d a) d a s (fun x => (x.setWidth 8).signExtend 64)

/-- SEXT_H (R128). -/
def execSextH (d a : Opnd) (s : State) : Out := alu1 (.sextH d a) d a s (fun x => (x.setWidth 16).signExtend 64)

/-- SEXT_W (R128). -/
def execSextW (d a : Opnd) (s : State) : Out := alu1 (.sextW d a) d a s sext32

/-- ZEXT_B (R128). -/
def execZextB (d a : Opnd) (s : State) : Out := alu1 (.zextB d a) d a s (fun x => (x.setWidth 8).setWidth 64)

/-- ZEXT_H (R128). -/
def execZextH (d a : Opnd) (s : State) : Out := alu1 (.zextH d a) d a s (fun x => (x.setWidth 16).setWidth 64)

/-- ZEXT_W (R128). -/
def execZextW (d a : Opnd) (s : State) : Out := alu1 (.zextW d a) d a s (fun x => (x.setWidth 32).setWidth 64)

/-- BREV (R128). -/
def execBrev (d a : Opnd) (s : State) : Out := alu1 (.brev d a) d a s bitRev

/-- BSWAP (R128). -/
def execBswap (d a : Opnd) (s : State) : Out := alu1 (.bswap d a) d a s byteSwap

/-! ### Bit fields and immediates (R129 to R133) -/

/-- BEXT (R129). -/
def execBext (d a : Opnd) (l p : BitVec 6) (s : State) : Out := alu1 (.bext d a l p) d a s (bitExtract l p)

/-- BINS (R129). -/
def execBins (d a : Opnd) (l p : BitVec 6) (s : State) : Out :=
  alu1 (.bins d a l p) d a s (bitInsert l p (s.me.r.old d))

/-- ADDI (R130). -/
def execAddi (d a : Opnd) (i : BitVec 12) (s : State) : Out := alu1 (.addi d a i) d a s fun x => x + i.signExtend 64

/-- ANDI (R130). -/
def execAndImm (d a : Opnd) (i : BitVec 12) (s : State) : Out := alu1 (.andImm d a i) d a s fun x => x &&& i.signExtend 64

/-- ORI (R130). -/
def execOrImm (d a : Opnd) (i : BitVec 12) (s : State) : Out := alu1 (.orImm d a i) d a s fun x => x ||| i.signExtend 64

/-- XORI (R130). -/
def execXorImm (d a : Opnd) (i : BitVec 12) (s : State) : Out := alu1 (.xorImm d a i) d a s fun x => x ^^^ i.signExtend 64

/-- SLTI (R130). -/
def execSlti (d a : Opnd) (i : BitVec 12) (s : State) : Out := alu1 (.slti d a i) d a s fun x => flagWord (x.slt (i.signExtend 64))

/-- SLTIU (R130). -/
def execSltiu (d a : Opnd) (i : BitVec 12) (s : State) : Out := alu1 (.sltiu d a i) d a s fun x => flagWord (x.ult (i.signExtend 64))

/-- ADDI_W (R132). -/
def execAddiW (d a : Opnd) (i : BitVec 12) (s : State) : Out := alu1 (.addiW d a i) d a s fun x => sext32 (x + i.signExtend 64)

/-- SHLI (R131). -/
def execShli (d a : Opnd) (n : BitVec 6) (s : State) : Out := alu1 (.shli d a n) d a s fun x => x <<< n.toNat

/-- SHRI (R131). -/
def execShri (d a : Opnd) (n : BitVec 6) (s : State) : Out := alu1 (.shri d a n) d a s fun x => x >>> n.toNat

/-- SRAI (R131). -/
def execSrai (d a : Opnd) (n : BitVec 6) (s : State) : Out := alu1 (.srai d a n) d a s fun x => x.sshiftRight n.toNat

/-- RORI (R131). -/
def execRori (d a : Opnd) (n : BitVec 6) (s : State) : Out := alu1 (.rori d a n) d a s fun x => x.rotateRight n.toNat

/-- LI (R133). -/
def execLi (d : Opnd) (i : BitVec 18) (s : State) : Out := alu0 (.li d i) d s fun _ => i.signExtend 64

/-- LIS (R133): d is read. -/
def execLis (d : Opnd) (i : BitVec 18) (s : State) : Out :=
  alu0 (.lis d i) d s fun t => (t.me.r.old d <<< 18) + i.setWidth 64

/-- LPC (R133). -/
def execLpc (d : Opnd) (i : BitVec 18) (s : State) : Out :=
  alu0 (.lpc d i) d s fun t => t.me.pc + (i.signExtend 64 <<< 1)

/-! ### 16-bit forms (R64) -/

/-- MOV_16 (R64): as OR d, s, w0. -/
def execMov16 (d a : WReg) (s : State) : Out := alu1 (.mov16 d a) (.w d) (.w a) s id

/-- ADD_16 (R64). -/
def execAdd16 (d a : WReg) (s : State) : Out := alu2 (.add16 d a) (.w d) (.w d) (.w a) s fun x y => x + y

/-- SUB_16 (R64). -/
def execSub16 (d a : WReg) (s : State) : Out := alu2 (.sub16 d a) (.w d) (.w d) (.w a) s fun x y => x - y

/-- AND_16 (R64). -/
def execAnd16 (d a : WReg) (s : State) : Out := alu2 (.and16 d a) (.w d) (.w d) (.w a) s fun x y => x &&& y

/-- OR_16 (R64). -/
def execOr16 (d a : WReg) (s : State) : Out := alu2 (.or16 d a) (.w d) (.w d) (.w a) s fun x y => x ||| y

/-- XOR_16 (R64). -/
def execXor16 (d a : WReg) (s : State) : Out := alu2 (.xor16 d a) (.w d) (.w d) (.w a) s fun x y => x ^^^ y

/-- ADDI_16 (R64). -/
def execAddi16 (d : WReg) (i : BitVec 5) (s : State) : Out :=
  alu1 (.addi16 d i) (.w d) (.w d) s fun x => x + i.signExtend 64

/-- SHLI_16 (R64). -/
def execShli16 (d : WReg) (n : BitVec 4) (s : State) : Out := alu1 (.shli16 d n) (.w d) (.w d) s fun x => x <<< n.toNat

/-- SHRI_16 (R64). -/
def execShri16 (d : WReg) (n : BitVec 4) (s : State) : Out := alu1 (.shri16 d n) (.w d) (.w d) s fun x => x >>> n.toNat

/-- SRAI_16 (R64). -/
def execSrai16 (d : WReg) (n : BitVec 4) (s : State) : Out :=
  alu1 (.srai16 d n) (.w d) (.w d) s fun x => x.sshiftRight n.toNat

/-- LI_16 (R64). -/
def execLi16 (d : WReg) (i : BitVec 5) (s : State) : Out := alu0 (.li16 d i) (.w d) s fun _ => i.signExtend 64

/-- NOP (R64): it retires and counts, and has no other effect. -/
def execNop (s : State) : Out := issue .nop s .done

end Sys2Proof.Machine
end
end

