-- ==== Sys2Proof/Machine/Flags.lean ====
section
/-!
DEFINITION. The exception flags of the psw (R56, R118) and the rounding modes (R113), with the stochastic-rounding
generator (R114).
-/
namespace Sys2Proof.Machine

/-- The flags NX, UF, OF, DZ and NV, in bits 0 to 4 as in psw 10:6. -/
abbrev Flags := BitVec 5

def NX : Flags := 1
def UF : Flags := 2
def OF : Flags := 4
def DZ : Flags := 8
def NV : Flags := 16

/-- The flags f when b holds. -/
def Flags.on (b : Bool) (f : Flags) : Flags := if b then f else 0

/-- The rounding modes (R113). Under SR a rounding has its draw, the top 24 bits of the generator's state (R114). -/
inductive Mode where
  | rne | rtz | rdn | rup | rna
  | sr (draw : Nat)
  deriving DecidableEq, Repr

/-- One step of the generator (R114). -/
def srNext (s : Word) : Word :=
  let s := s ^^^ (s <<< 13)
  let s := s ^^^ (s >>> 7)
  s ^^^ (s <<< 17)

/-- The draw that a state gives. -/
def srDraw (s : Word) : Nat := (s >>> 40).toNat

/-- The number of a rounding mode, as psw.RM: 5 is SR (R56). -/
abbrev RmCode := BitVec 3

/-- The mode of one rounding and the generator's state after it: under SR a rounding takes one draw (R114, R115). -/
def Mode.draw (rm : RmCode) (s : Word) : Mode × Word :=
  match rm.toNat with
  | 0 => (.rne, s)
  | 1 => (.rtz, s)
  | 2 => (.rdn, s)
  | 3 => (.rup, s)
  | 4 => (.rna, s)
  | _ => (.sr (srDraw (srNext s)), srNext s)

/-- What a sequence of roundings leaves: the generator's state and the flags raised. -/
structure Acc where
  sr : Word
  fl : Flags
  deriving DecidableEq, Repr

/-- One rounding under a mode number, in a sequence (R115). -/
def Acc.round {α : Type} (a : Acc) (rm : RmCode) (f : Mode → α × Flags) : α × Acc :=
  let (m, s) := Mode.draw rm a.sr
  let (x, fl) := f m
  (x, { sr := s, fl := a.fl ||| fl })

/-- An operation of a sequence that rounds nothing. -/
def Acc.plain {α : Type} (a : Acc) (r : α × Flags) : α × Acc := (r.1, { a with fl := a.fl ||| r.2 })

end Sys2Proof.Machine
end

