-- ==== Sys2Proof/Machine/Numbers.lean ====
section
/-!
DEFINITION. Number formats (R100 to R112): the value that a pattern encodes, and the one rounding by which an exact
value becomes a pattern (R113 to R119).
-/
namespace Sys2Proof.Machine

/-- The formats of R100, with INT16 (R70) and the unsigned targets of FCVT (R158). -/
inductive Fmt where
  | fp64 | fp32 | bf16 | fp16 | e4m3 | e5m2 | e3m2 | e2m3 | int8 | int4 | c4 | int32 | int64 | uint8 | bool1
  | int16 | uint32 | uint64
  deriving DecidableEq, Repr

/-- A 4-bit format code (R100); none for 15. -/
def Fmt.ofCode (c : BitVec 4) : Option Fmt :=
  match c.toNat with
  | 0 => some .fp64 | 1 => some .fp32 | 2 => some .bf16 | 3 => some .fp16 | 4 => some .e4m3 | 5 => some .e5m2
  | 6 => some .e3m2 | 7 => some .e2m3 | 8 => some .int8 | 9 => some .int4 | 10 => some .c4 | 11 => some .int32
  | 12 => some .int64 | 13 => some .uint8 | 14 => some .bool1 | _ => none

/-- The format of an sz code (R70). -/
def Fmt.ofSz : Sz → Fmt
  | .int8 => .int8 | .int16 => .int16 | .int32 => .int32 | .int64 => .int64 | .bf16 => .bf16 | .fp16 => .fp16
  | .fp32 => .fp32 | .fp64 => .fp64

/-- The format of an FCVT code (R158). -/
def Fmt.ofCvt : Cvt → Fmt
  | .i64 => .int64 | .u64 => .uint64 | .i32 => .int32 | .u32 => .uint32 | .f64 => .fp64 | .f32 => .fp32
  | .bf16 => .bf16 | .f16 => .fp16

/-- The width in bits (R100). -/
def Fmt.bits : Fmt → Nat
  | .fp64 | .int64 | .uint64 => 64
  | .fp32 | .int32 | .uint32 => 32
  | .bf16 | .fp16 | .int16 => 16
  | .e4m3 | .e5m2 | .int8 | .uint8 => 8
  | .e3m2 | .e2m3 => 6
  | .int4 | .c4 => 4
  | .bool1 => 1

/-- The formats to which saturation applies (R100). -/
def Fmt.narrow : Fmt → Bool
  | .e4m3 | .e5m2 | .e3m2 | .e2m3 | .int8 | .int4 | .uint8 | .bool1 => true
  | _ => false

/-- A floating format: exponent bits, mantissa bits, bias, the pattern of the largest finite value, whether it has
infinities and NaNs, its canonical NaN (R101 to R105). -/
structure Float where
  e : Nat
  m : Nat
  bias : Nat
  top : Nat
  inf : Bool
  nan : Option Nat
  deriving DecidableEq, Repr

/-- The floating formats; none for the others. -/
def Fmt.float : Fmt → Option Float
  | .fp64 => some { e := 11, m := 52, bias := 1023, top := 0x7FEFFFFFFFFFFFFF, inf := true, nan := some 0x7FF8000000000000 }
  | .fp32 => some { e := 8, m := 23, bias := 127, top := 0x7F7FFFFF, inf := true, nan := some 0x7FC00000 }
  | .bf16 => some { e := 8, m := 7, bias := 127, top := 0x7F7F, inf := true, nan := some 0x7FC0 }
  | .fp16 => some { e := 5, m := 10, bias := 15, top := 0x7BFF, inf := true, nan := some 0x7E00 }
  | .e4m3 => some { e := 4, m := 3, bias := 7, top := 0x7E, inf := false, nan := some 0x7F }
  | .e5m2 => some { e := 5, m := 2, bias := 15, top := 0x7B, inf := true, nan := some 0x7E }
  | .e3m2 => some { e := 3, m := 2, bias := 3, top := 0x1F, inf := false, nan := none }
  | .e2m3 => some { e := 2, m := 3, bias := 1, top := 0x1F, inf := false, nan := none }
  | _ => none

def Fmt.isFloat (f : Fmt) : Bool := f.float.isSome

/-- An integer format: whether it is signed. -/
def Fmt.signed : Fmt → Bool
  | .int8 | .int4 | .int16 | .int32 | .int64 => true
  | _ => false

/-- The least and the largest value of an integer format (R107, R108). -/
def Fmt.lo (f : Fmt) : Int := if f.signed then -(2 ^ (f.bits - 1) : Nat) else 0
def Fmt.hi (f : Fmt) : Int := if f.signed then (2 ^ (f.bits - 1) : Nat) - 1 else (2 ^ f.bits : Nat) - 1

/-! ### Values -/

/-- What a pattern encodes: a NaN (quiet or signalling), an infinity, or (-1)^neg × m × 2^e. -/
inductive Val where
  | nan (quiet : Bool)
  | inf (neg : Bool)
  | num (neg : Bool) (m : Nat) (e : Int)
  deriving DecidableEq, Repr

/-- The value of a pattern of a floating format (R101, R102, R104, R105). -/
def Float.val (f : Float) (x : Nat) : Val :=
  let neg := x.testBit (f.e + f.m)
  let ex := x / 2 ^ f.m % 2 ^ f.e
  let fr := x % 2 ^ f.m
  let mag := x % 2 ^ (f.e + f.m)
  if mag ≤ f.top then
    if ex == 0 then .num neg fr (1 - (f.bias : Int) - f.m) else .num neg (2 ^ f.m + fr) ((ex : Int) - f.bias - f.m)
  else if f.inf && fr == 0 then .inf neg
  -- every NaN of the 8-bit formats is read as quiet
  else .nan (f.e + f.m < 8 || fr.testBit (f.m - 1))

/-- An integer as a value. -/
def Val.ofInt (i : Int) : Val := .num (i < 0) i.natAbs 0

/-- The value of a pattern (R100 to R108); a C4 pattern is a code, read through its codebook (R109). -/
def Fmt.val (f : Fmt) (x : Nat) : Val :=
  match f.float with
  | some g => g.val x
  | none =>
    let x := x % 2 ^ f.bits
    if f.signed && x.testBit (f.bits - 1) then .num true (2 ^ f.bits - x) 0 else .num false x 0

/-- Whether a value is a NaN whose reading sets NV: the formats wider than 8 bits alone have one (R103, R105). -/
def Val.signalling : Val → Bool
  | .nan q => !q
  | _ => false

def Val.isNan : Val → Bool
  | .nan _ => true
  | _ => false

def Val.isZero : Val → Bool
  | .num _ m _ => m == 0
  | _ => false

def Val.neg : Val → Bool
  | .nan _ => false
  | .inf n => n
  | .num n _ _ => n

def Val.negate : Val → Val
  | .nan q => .nan q
  | .inf n => .inf (!n)
  | .num n m e => .num (!n) m e

def Val.abs : Val → Val
  | .nan q => .nan q
  | .inf _ => .inf false
  | .num _ m e => .num false m e

/-! ### Exact results -/

/-- An exact result: an invalid operation or a NaN, an infinity (and whether it comes from a division by zero), or the
number (-1)^neg × (m + d) × 2^e, where d is 0, or, when more is set, some value strictly between 0 and 1. -/
inductive Exact where
  | nan (invalid : Bool)
  | inf (neg : Bool) (dz : Bool)
  | num (neg : Bool) (m : Nat) (e : Int) (more : Bool)
  deriving DecidableEq, Repr

/-- The magnitude in units of 2^q: the whole units, the rest in units of 2^(q - k), k, and whether there is more. -/
structure Grid where
  n : Nat
  rest : Nat
  k : Nat
  more : Bool
  deriving DecidableEq, Repr

/-- m × 2^e (and more) in units of 2^q. -/
def Grid.of (m : Nat) (e q : Int) (more : Bool) : Grid :=
  if q ≤ e then { n := m <<< (e - q).toNat, rest := 0, k := 0, more := more }
  else
    let k := (q - e).toNat
    { n := m >>> k, rest := m % 2 ^ k, k := k, more := more }

def Grid.exact (g : Grid) : Bool := g.rest == 0 && !g.more

/-- floor(f × 2^24) of R114 for the part of the magnitude above n, and for the part below n + 1. -/
def Grid.above (g : Grid) : Nat := g.rest * 2 ^ 24 / 2 ^ g.k
def Grid.below (g : Grid) : Nat :=
  let x := g.rest * 2 ^ 24
  2 ^ 24 - (x / 2 ^ g.k + if x % 2 ^ g.k == 0 && !g.more then 0 else 1)

/-- Whether the magnitude rounds up (R113, R114): hi for a positive value, lo for a negative one. -/
def Grid.up (g : Grid) (neg : Bool) (mode : Mode) : Bool :=
  if g.exact then false
  else
    let half := 2 * g.rest
    let one := 2 ^ g.k
    match mode with
    | .rne => one < half || (half == one && (g.more || g.n % 2 == 1))
    | .rtz => false
    | .rdn => neg
    | .rup => !neg
    | .rna => one ≤ half
    | .sr d => if neg then !(decide (d < g.below)) else decide (d < g.above)

/-- The chosen magnitude, in units. -/
def Grid.pick (g : Grid) (neg : Bool) (mode : Mode) : Nat := if g.up neg mode then g.n + 1 else g.n

/-- The exponent of the highest bit of m × 2^e. -/
def topExp (m : Nat) (e : Int) : Int := (m.log2 : Int) + e

/-- The exponent of the smallest normal (R101, R104). -/
def Float.emin (f : Float) : Int := 1 - (f.bias : Int)

/-- The exponent of the spacing at the bottom, and at the top binade. -/
def Float.qmin (f : Float) : Int := f.emin - f.m
def Float.qmax (f : Float) : Int := f.qmin + (f.top / 2 ^ f.m : Nat) - 1

/-- The spacing's exponent on the extended grid at m × 2^e (R113). -/
def Float.q (f : Float) (m : Nat) (e : Int) : Int := min (max (topExp m e - (f.m : Int)) f.qmin) f.qmax

/-- A pattern with a sign. -/
def Float.signed (f : Float) (neg : Bool) (x : Nat) : Nat := if neg then 2 ^ (f.e + f.m) + x else x

/-- The pattern of an infinity, for a format that has one. -/
def Float.infPat (f : Float) : Nat := (2 ^ f.e - 1) * 2 ^ f.m

/-- Whether an inexact value is tiny (R118): rounded to the format's precision without a lower exponent limit, it lies
strictly below the smallest normal. DESIGN CHOICE (log 53): under SR this rounding uses the draw of the delivered one. -/
def Float.tiny (f : Float) (neg : Bool) (m : Nat) (e : Int) (more : Bool) (mode : Mode) : Bool :=
  if topExp m e < f.emin then
    let g := Grid.of m e (topExp m e - (f.m : Int)) more
    !(topExp m e == f.emin - 1 && g.pick neg mode == 2 ^ (f.m + 1))
  else false

/-- Whether an overflow delivers an infinity in a format that has one (R117). -/
def Mode.toInf (mode : Mode) (neg : Bool) : Bool :=
  match mode with
  | .rtz => false
  | .rdn => neg
  | .rup => !neg
  | _ => true

/-- The canonical NaN, or +0 in a format without a NaN, for a NaN input or an invalid operation (R103, R117). -/
def Float.invalid (f : Float) (nv : Bool) : Nat × Flags :=
  match f.nan with
  | some x => (x, .on nv NV)
  | none => (0, NV)

/-- One rounding into a floating format (R113, R116 to R119). -/
def Float.round (f : Float) (narrow sat : Bool) (mode : Mode) (x : Exact) : Nat × Flags :=
  match x with
  | .nan nv => f.invalid nv
  | .inf neg dz =>
    let d := Flags.on dz DZ
    if f.inf then (f.signed neg f.infPat, d)
    else if f.nan.isSome && !sat then (f.nan.getD 0, d ||| OF ||| NX)
    else (f.signed neg f.top, d ||| NX ||| .on (!sat) OF)
  | .num neg m e more =>
    if m == 0 && !more then (f.signed neg 0, 0)
    else
      let g := Grid.of m e (f.q m e) more
      let n := g.pick neg mode
      let pat := if n == 0 then 0 else (f.q m e - f.qmin).toNat * 2 ^ f.m + n
      if f.top < pat then
        if sat then (f.signed neg f.top, NX)
        else if !narrow then (f.signed neg (if mode.toInf neg then f.infPat else f.top), OF ||| NX)
        else match f.nan with
          | some c => (c, OF ||| NX)
          | none => (f.signed neg f.top, OF ||| NX)
      else (f.signed neg pat, .on (!g.exact) NX ||| .on (!g.exact && f.tiny neg m e more mode) UF)

/-- Whether an integer format reports overflow with NV (R117). -/
def Fmt.wideInt : Fmt → Bool
  | .int32 | .int64 | .uint32 | .uint64 => true
  | _ => false

/-- The pattern of an integer in an integer format. -/
def Fmt.ofInt (f : Fmt) (i : Int) : Nat := (i % (2 ^ f.bits : Nat)).toNat

/-- One rounding into an integer format (R113, R116, R117); R108 for BOOL1. -/
def Fmt.roundInt (f : Fmt) (sat : Bool) (mode : Mode) (x : Exact) : Nat × Flags :=
  if f == .bool1 then
    match x with
    | .num _ m _ more => (if m == 0 && !more then 0 else 1, 0)
    | _ => (1, 0)
  else
    let far := fun (neg : Bool) => f.ofInt (if neg then f.lo else f.hi)
    match x with
    | .nan _ => (0, NV)
    | .inf neg dz => (far neg, (if f.wideInt then NV else NX ||| .on (!sat) OF) ||| .on dz DZ)
    | .num neg m e more =>
      let g := Grid.of m e 0 more
      let n := g.pick neg mode
      let i : Int := if neg then -n else n
      if f.lo ≤ i && i ≤ f.hi then (f.ofInt i, .on (!g.exact) NX)
      else (far neg, if f.wideInt then NV else NX ||| .on (!sat) OF)

/-- One rounding into a format; `sat` is the sat bit of a prefix, 0 without one (R117). -/
def Fmt.round (f : Fmt) (sat : Bool) (mode : Mode) (x : Exact) : Nat × Flags :=
  match f.float with
  | some g => g.round f.narrow sat mode x
  | none => f.roundInt sat mode x

/-- A value as an exact result: what a conversion starts from. A signalling NaN is invalid (R103). -/
def Val.exact : Val → Exact
  | .nan q => .nan (!q)
  | .inf n => .inf n false
  | .num n m e => .num n m e false

end Sys2Proof.Machine
end

