-- ==== Sys2Proof/Machine/Arith.lean ====
section
/-!
DEFINITION. Exact arithmetic on values: sums, products, fused products, quotients, square roots, powers of two and
logarithms, each as the exact result that one rounding then takes into a format (R113, R119, R155 to R159, R171).
-/
namespace Sys2Proof.Machine

/-! ### Sums and products -/

/-- A signed integer multiple of a power of two. -/
structure Dyad where
  m : Int
  e : Int
  deriving DecidableEq, Repr

/-- The number as a signed integer times 2^q, for q at most its exponent. -/
def scaleTo (neg : Bool) (m : Nat) (e q : Int) : Int :=
  let x : Int := (m <<< (e - q).toNat : Nat)
  if neg then -x else x

/-- The sign of an exact zero sum (R119). -/
def zeroSign (allNeg allPos : Bool) (rdn : Bool) : Bool := if allNeg then true else if allPos then false else rdn

def Mode.isRdn : Mode → Bool
  | .rdn => true
  | _ => false

/-- An exact integer multiple of 2^q, with the sign that a zero takes. -/
def Exact.ofInt (i : Int) (q : Int) (zero : Bool) : Exact := .num (if i == 0 then zero else i < 0) i.natAbs q false

/-- The exact sum of two values (R119). -/
def Val.add (x y : Val) (mode : Mode) : Exact :=
  match x, y with
  | .nan q, b => .nan (!q || b.signalling)
  | _, .nan q => .nan (!q)
  | .inf n, .inf k => if n == k then .inf n false else .nan true
  | .inf n, .num _ _ _ => .inf n false
  | .num _ _ _, .inf n => .inf n false
  | .num n a e, .num k b f =>
    let q := min e f
    .ofInt (scaleTo n a e q + scaleTo k b f q) q (zeroSign (n && k) (!n && !k) mode.isRdn)

/-- The exact product of two values. -/
def Val.mul (x y : Val) : Exact :=
  match x, y with
  | .nan q, b => .nan (!q || b.signalling)
  | _, .nan q => .nan (!q)
  | .inf n, .inf k => .inf (n != k) false
  | .inf n, .num k m _ => if m == 0 then .nan true else .inf (n != k) false
  | .num k m _, .inf n => if m == 0 then .nan true else .inf (n != k) false
  | .num n a e, .num k b f => .num (n != k) (a * b) (e + f) false

/-- The exact value of x × y + z; zero times infinity is invalid even when z is a quiet NaN (R157). -/
def Val.fma (x y z : Val) (mode : Mode) : Exact :=
  match x.mul y with
  | .nan v => .nan (v || z.signalling)
  | .inf n _ =>
    match z with
    | .nan q => .nan (!q)
    | .inf k => if n == k then .inf n false else .nan true
    | .num _ _ _ => .inf n false
  | .num n m e _ => Val.add (.num n m e) z mode

/-- The four operations of the FMA family (R157): 0 FMA, 1 FMS, 2 FNMA, 3 FNMS. -/
def Val.fused (op : Nat) (x y z : Val) (mode : Mode) : Exact :=
  match op with
  | 0 => Val.fma x y z mode
  | 1 => Val.fma x y z.negate mode
  | 2 => Val.fma x.negate y z.negate mode
  | _ => Val.fma x.negate y z mode

/-! ### Quotients and square roots -/

/-- Bits that a quotient or a root carries beyond what any rounding looks at. -/
def extra : Nat := 192

/-- The exact quotient of two values (R156, R159): x/0 sets DZ for a finite nonzero x. -/
def Val.div (x y : Val) : Exact :=
  match x, y with
  | .nan q, b => .nan (!q || b.signalling)
  | _, .nan q => .nan (!q)
  | .inf _, .inf _ => .nan true
  | .inf n, .num k _ _ => .inf (n != k) false
  | .num n _ _, .inf k => .num (n != k) 0 0 false
  | .num n a e, .num k b f =>
    if b == 0 then (if a == 0 then .nan true else .inf (n != k) true)
    else
      let t := a <<< extra
      .num (n != k) (t / b) (e - f - extra) (t % b != 0)

/-- The reciprocal (R156). -/
def Val.rcp (x : Val) : Exact := Val.div (.num false 1 0) x

/-- The integer square root: bit i of the root is settled in turn, from the highest. -/
def isqrt (x : Nat) (r : Nat) : Nat → Nat
  | 0 => r
  | i + 1 =>
    let t := r + 2 ^ i
    isqrt x (if t * t ≤ x then t else r) i

/-- floor(sqrt(x)). -/
def sqrtFloor (x : Nat) : Nat := isqrt x 0 (x.log2 / 2 + 1)

/-- m × 2^e with an even exponent and extra bits below. -/
def evenUp (m : Nat) (e : Int) : Nat × Int := if e % 2 == 0 then (m, e) else (2 * m, e - 1)

/-- The square root (R159). -/
def Val.sqrt (x : Val) : Exact :=
  match x with
  | .nan q => .nan (!q)
  | .inf n => if n then .nan true else .inf false false
  | .num n m e =>
    if m == 0 then .num n 0 0 false
    else if n then .nan true
    else
      let (a, f) := evenUp m e
      let t := a <<< (2 * extra)
      let r := sqrtFloor t
      .num false r (f / 2 - extra) (r * r != t)

/-- The reciprocal square root (R156). -/
def Val.rsqrt (x : Val) : Exact :=
  match x with
  | .nan q => .nan (!q)
  | .inf n => if n then .nan true else .num false 0 0 false
  | .num n m e =>
    if m == 0 then .inf n true
    else if n then .nan true
    else
      let (a, f) := evenUp m e
      let k := extra + m.log2
      let r := sqrtFloor (2 ^ (2 * k) / a)
      .num false r (-(f / 2) - k) (r * r * a != 2 ^ (2 * k))

/-! ### Powers of two and logarithms (R171)

Neither is rational but in the exact cases, so a value between two neighbours is never a tie. Both are computed with
more bits than the rounding of any format looks at (log 20). -/

/-- Fraction bits of the computation. -/
def prec : Nat := 320

/-- The sum of x^k / k! from term k on, with 320 fraction bits. -/
def expTerms (x term k : Nat) : Nat → Nat
  | 0 => 0
  | n + 1 => term + expTerms x (((term * x) >>> prec) / (k + 1)) (k + 1) n

/-- The sum of 1 / (k 2^k) from k on, which is ln 2. -/
def ln2Terms (k : Nat) : Nat → Nat
  | 0 => 0
  | n + 1 => 2 ^ prec / (k * 2 ^ k) + ln2Terms (k + 1) n

/-- 2^a (R171). -/
def Val.exp2 (x : Val) : Exact :=
  match x with
  | .nan q => .nan (!q)
  | .inf n => if n then .num false 0 0 false else .inf false false
  | .num n m e =>
    if m == 0 then .num false 1 0 false
    -- an exponent of 2^12 or more in magnitude overflows or underflows in every format
    else if 12 ≤ topExp m e then .num false 1 (if n then -8192 else 8192) true
    else
      let g := Grid.of m e 0 false
      if g.rest == 0 then .num false 1 (if n then -(g.n : Int) else g.n) false
      else
        -- the fraction in units of 2^-320, rounded down; nonzero bits below stand in `more`
        let fr := (g.rest * 2 ^ prec) / 2 ^ g.k
        let (i, f) : Int × Nat := if n then (-(g.n : Int) - 1, 2 ^ prec - 1 - fr) else ((g.n : Int), fr)
        let f := if n && g.rest * 2 ^ prec % 2 ^ g.k == 0 then f + 1 else f
        let r := expTerms ((f * ln2Terms 1 prec) >>> prec) (2 ^ prec) 0 100
        .num false (r >>> 64) (i - (prec - 64 : Nat)) true

/-- One bit of a logarithm is settled by each squaring: y lies in [1, 2) with 320 fraction bits, r holds the bits so
far. -/
def logBits (y r : Nat) : Nat → Nat
  | 0 => r
  | n + 1 =>
    let z := (y * y) >>> prec
    if 2 ^ (prec + 1) ≤ z then logBits (z >>> 1) (2 * r + 1) n else logBits z (2 * r) n

/-- The fraction bits of a logarithm. -/
def logPrec : Nat := 144

/-- log2(a) (R171). -/
def Val.log2 (x : Val) : Exact :=
  match x with
  | .nan q => .nan (!q)
  | .inf n => if n then .nan true else .inf false false
  | .num n m e =>
    if m == 0 then .inf true true
    else if n then .nan true
    else
      let i := topExp m e
      let y := (m <<< prec) >>> m.log2
      if y == 2 ^ prec then Exact.ofInt i 0 false
      else
        let f := logBits y 0 logPrec
        if 0 ≤ i then .num false (i.toNat * 2 ^ logPrec + f) (-(logPrec : Int)) true
        -- i + f lies below 0: the magnitude is -i - f, less something
        else .num true ((-i).toNat * 2 ^ logPrec - f - 1) (-(logPrec : Int)) true

/-! ### Minimum, maximum, comparison, class (R154, R155) -/

/-- x < y for two values that are no NaN, with -0 below +0 when `zeros` is set. -/
def Val.lt (x y : Val) (zeros : Bool) : Bool :=
  match x, y with
  | .inf n, .inf k => n && !k
  | .inf n, _ => n
  | _, .inf k => !k
  | .num n a e, .num k b f =>
    let q := min e f
    let i := scaleTo n a e q
    let j := scaleTo k b f q
    if i == 0 && j == 0 then zeros && n && !k else i < j
  | _, _ => false

/-- Which operand a minimum (or a maximum) returns: 0 the first, 1 the second, 2 the canonical NaN. -/
def Val.pick (max : Bool) (x y : Val) : Nat :=
  if x.isNan then (if y.isNan then 2 else 1)
  else if y.isNan then 0
  else if max then (if x.lt y true then 1 else 0) else (if y.lt x true then 1 else 0)

/-- NV for the operands of an operation of R155 that only reads signalling NaNs. -/
def nvOf (x y : Val) : Flags := .on (x.signalling || y.signalling) NV

/-- FMIN and FMAX on patterns (R155). -/
def Fmt.minMax (f : Fmt) (max : Bool) (a b : Nat) : Nat × Flags :=
  let x := f.val a
  let y := f.val b
  let nan := match f.float with
    | some g => g.nan.getD 0
    | none => 0
  (match Val.pick max x y with
   | 0 => a
   | 1 => b
   | _ => nan, nvOf x y)

/-- The comparisons (R155): 0 equal, 1 less, 2 less or equal. -/
def Val.cmp (op : Nat) (x y : Val) : Bool × Flags :=
  if x.isNan || y.isNan then (false, if op == 0 then nvOf x y else NV)
  else
    (match op with
     | 0 => !x.lt y false && !y.lt x false
     | 1 => x.lt y false
     | _ => !y.lt x false, 0)

/-- The class of a pattern, one-hot (R154). -/
def Fmt.classOf (f : Fmt) (a : Nat) : Nat :=
  let normal : Nat → Bool := fun m => match f.float with
    | some g => decide (2 ^ g.m ≤ m)
    | none => true
  match f.val a with
  | .inf n => if n then 2 ^ 0 else 2 ^ 7
  | .nan q => if q then 2 ^ 9 else 2 ^ 8
  | .num n m _ =>
    if m == 0 then (if n then 2 ^ 3 else 2 ^ 4)
    else if normal m then (if n then 2 ^ 1 else 2 ^ 6)
    else if n then 2 ^ 2 else 2 ^ 5

/-- The sign operations on patterns (R154): 0 FSGNJ, 1 FSGNJN, 2 FSGNJX. -/
def signOp (op bits a b : Nat) : Nat :=
  let sa := a.testBit (bits - 1)
  let sb := b.testBit (bits - 1)
  let s := match op with
    | 0 => sb
    | 1 => !sb
    | _ => sa != sb
  a % 2 ^ (bits - 1) + if s then 2 ^ (bits - 1) else 0

end Sys2Proof.Machine
end

