-- ==== Sys2Proof/Machine/FloatOps.lean ====
section
/-!
DEFINITION. Scalar floating point (R153 to R159): FOP, FMA, FCVT, and the GMATH group with the move to a gondola core
that a small core makes instead (R77).
-/
noncomputable section
namespace Sys2Proof.Machine

/-! ### What they share (R153) -/

/-- The rounding mode number of a select: dynamic is psw.RM at the instruction's position (R70, R153). -/
def Csr.mode (c : Csr) (r : RSel) : RmCode :=
  match r with
  | .dyn => c.rm
  | .rne => 0
  | .rtz => 1
  | .sr => 5

/-- The generator's state and no flag, as a sequence of roundings starts. -/
def State.acc (s : State) : Acc := { sr := s.me.c.sr, fl := 0 }

/-- A sequence of roundings has ended: its draws are taken and its flags accrue (R118). -/
def State.rounded (s : State) (a : Acc) : State := s.onCsr fun c => { c.accrue a.fl with sr := a.sr }

/-- The pattern of an operand: the low bits of its format (R153). -/
def pattern (f : Fmt) (x : Word) : Nat := x.toNat % 2 ^ f.bits

/-- A result of a format, zero-extended to 64 bits (R153). -/
def fpWord (x : Nat) : Word := BitVec.ofNat 64 x

/-- A two-source operation that rounds once. -/
def fop2 (i : Instr) (f : Fmt) (d a b : Opnd) (r : RSel) (s : State) (g : Val → Val → Mode → Exact) : Out :=
  issue i s fun s =>
    match s.me.r.val2 a b with
    | none => .wait .queue s
    | some (x, y) =>
      if s.me.room d then
        let (z, acc) := s.acc.round (s.me.c.mode r) fun m => f.round false m (g (f.val (pattern f x)) (f.val (pattern f y)) m)
        .done (((s.pop2 a b).rounded acc).result d (fpWord z))
      else .wait .queue s

/-- A one-source operation that rounds once. -/
def fop1 (i : Instr) (f : Fmt) (d a : Opnd) (r : RSel) (s : State) (g : Val → Exact) : Out :=
  issue i s fun s =>
    match s.me.r.val a with
    | none => .wait .queue s
    | some x =>
      if s.me.room d then
        let (z, acc) := s.acc.round (s.me.c.mode r) fun m => f.round false m (g (f.val (pattern f x)))
        .done (((s.pop a).rounded acc).result d (fpWord z))
      else .wait .queue s

/-- A two-source operation on patterns that rounds nothing: its result and its flags. -/
def fbits2 (i : Instr) (f : Fmt) (d a b : Opnd) (s : State) (g : Nat → Nat → Nat × Flags) : Out :=
  issue i s fun s =>
    match s.me.r.val2 a b with
    | none => .wait .queue s
    | some (x, y) =>
      if s.me.room d then
        let (z, fl) := g (pattern f x) (pattern f y)
        .done (((s.pop2 a b).onCsr (·.accrue fl)).result d (fpWord z))
      else .wait .queue s

/-- The comparisons as 0 or 1. -/
def cmpBits (f : Fmt) (op : Nat) (a b : Nat) : Nat × Flags :=
  let (c, fl) := Val.cmp op (f.val a) (f.val b)
  (if c then 1 else 0, fl)

/-- A fused product and sum: d holds the addend (R157). -/
def fma (i : Instr) (f : Fmt) (op : Nat) (d a b : Opnd) (r : RSel) (s : State) : Out :=
  let c := f.val (pattern f (s.me.r.old d))
  fop2 i f d a b r s fun x y m => Val.fused op x y c m

/-! ### FOP (R154 to R156) -/

/-- FADD_D (R154). -/
def execFaddD (d a b : Opnd) (r : RSel) (s : State) : Out :=
  fop2 (.faddD d a b r) .fp64 d a b r s fun x y m => x.add y m

/-- FSUB_D (R154). -/
def execFsubD (d a b : Opnd) (r : RSel) (s : State) : Out :=
  fop2 (.fsubD d a b r) .fp64 d a b r s fun x y m => x.add y.negate m

/-- FMUL_D (R154). -/
def execFmulD (d a b : Opnd) (r : RSel) (s : State) : Out :=
  fop2 (.fmulD d a b r) .fp64 d a b r s fun x y _ => x.mul y

/-- FMIN_D (R155). -/
def execFminD (d a b : Opnd) (s : State) : Out :=
  fbits2 (.fminD d a b) .fp64 d a b s (Fmt.minMax .fp64 false)

/-- FMAX_D (R155). -/
def execFmaxD (d a b : Opnd) (s : State) : Out :=
  fbits2 (.fmaxD d a b) .fp64 d a b s (Fmt.minMax .fp64 true)

/-- FCMPEQ_D (R155). -/
def execFcmpeqD (d a b : Opnd) (s : State) : Out :=
  fbits2 (.fcmpeqD d a b) .fp64 d a b s (cmpBits .fp64 0)

/-- FCMPLT_D (R155). -/
def execFcmpltD (d a b : Opnd) (s : State) : Out :=
  fbits2 (.fcmpltD d a b) .fp64 d a b s (cmpBits .fp64 1)

/-- FCMPLE_D (R155). -/
def execFcmpleD (d a b : Opnd) (s : State) : Out :=
  fbits2 (.fcmpleD d a b) .fp64 d a b s (cmpBits .fp64 2)

/-- FSGNJ_D (R154). -/
def execFsgnjD (d a b : Opnd) (s : State) : Out :=
  fbits2 (.fsgnjD d a b) .fp64 d a b s fun x y => (signOp 0 (Fmt.bits .fp64) x y, 0)

/-- FSGNJN_D (R154). -/
def execFsgnjnD (d a b : Opnd) (s : State) : Out :=
  fbits2 (.fsgnjnD d a b) .fp64 d a b s fun x y => (signOp 1 (Fmt.bits .fp64) x y, 0)

/-- FSGNJX_D (R154). -/
def execFsgnjxD (d a b : Opnd) (s : State) : Out :=
  fbits2 (.fsgnjxD d a b) .fp64 d a b s fun x y => (signOp 2 (Fmt.bits .fp64) x y, 0)

/-- FCLASS_D (R154). -/
def execFclassD (d a : Opnd) (s : State) : Out :=
  alu1 (.fclassD d a) d a s fun x => fpWord (Fmt.classOf .fp64 (pattern .fp64 x))

/-- FRCP_D (R156). -/
def execFrcpD (d a : Opnd) (r : RSel) (s : State) : Out := fop1 (.frcpD d a r) .fp64 d a r s Val.rcp

/-- FRSQ_D (R156). -/
def execFrsqD (d a : Opnd) (r : RSel) (s : State) : Out := fop1 (.frsqD d a r) .fp64 d a r s Val.rsqrt

/-- FADD_S (R154). -/
def execFaddS (d a b : Opnd) (r : RSel) (s : State) : Out :=
  fop2 (.faddS d a b r) .fp32 d a b r s fun x y m => x.add y m

/-- FSUB_S (R154). -/
def execFsubS (d a b : Opnd) (r : RSel) (s : State) : Out :=
  fop2 (.fsubS d a b r) .fp32 d a b r s fun x y m => x.add y.negate m

/-- FMUL_S (R154). -/
def execFmulS (d a b : Opnd) (r : RSel) (s : State) : Out :=
  fop2 (.fmulS d a b r) .fp32 d a b r s fun x y _ => x.mul y

/-- FMIN_S (R155). -/
def execFminS (d a b : Opnd) (s : State) : Out :=
  fbits2 (.fminS d a b) .fp32 d a b s (Fmt.minMax .fp32 false)

/-- FMAX_S (R155). -/
def execFmaxS (d a b : Opnd) (s : State) : Out :=
  fbits2 (.fmaxS d a b) .fp32 d a b s (Fmt.minMax .fp32 true)

/-- FCMPEQ_S (R155). -/
def execFcmpeqS (d a b : Opnd) (s : State) : Out :=
  fbits2 (.fcmpeqS d a b) .fp32 d a b s (cmpBits .fp32 0)

/-- FCMPLT_S (R155). -/
def execFcmpltS (d a b : Opnd) (s : State) : Out :=
  fbits2 (.fcmpltS d a b) .fp32 d a b s (cmpBits .fp32 1)

/-- FCMPLE_S (R155). -/
def execFcmpleS (d a b : Opnd) (s : State) : Out :=
  fbits2 (.fcmpleS d a b) .fp32 d a b s (cmpBits .fp32 2)

/-- FSGNJ_S (R154). -/
def execFsgnjS (d a b : Opnd) (s : State) : Out :=
  fbits2 (.fsgnjS d a b) .fp32 d a b s fun x y => (signOp 0 (Fmt.bits .fp32) x y, 0)

/-- FSGNJN_S (R154). -/
def execFsgnjnS (d a b : Opnd) (s : State) : Out :=
  fbits2 (.fsgnjnS d a b) .fp32 d a b s fun x y => (signOp 1 (Fmt.bits .fp32) x y, 0)

/-- FSGNJX_S (R154). -/
def execFsgnjxS (d a b : Opnd) (s : State) : Out :=
  fbits2 (.fsgnjxS d a b) .fp32 d a b s fun x y => (signOp 2 (Fmt.bits .fp32) x y, 0)

/-- FCLASS_S (R154). -/
def execFclassS (d a : Opnd) (s : State) : Out :=
  alu1 (.fclassS d a) d a s fun x => fpWord (Fmt.classOf .fp32 (pattern .fp32 x))

/-- FRCP_S (R156). -/
def execFrcpS (d a : Opnd) (r : RSel) (s : State) : Out := fop1 (.frcpS d a r) .fp32 d a r s Val.rcp

/-- FRSQ_S (R156). -/
def execFrsqS (d a : Opnd) (r : RSel) (s : State) : Out := fop1 (.frsqS d a r) .fp32 d a r s Val.rsqrt

/-! ### FMA (R157) -/

/-- FMA_D (R157). -/
def execFmaD (d a b : Opnd) (r : RSel) (s : State) : Out := fma (.fmaD d a b r) .fp64 0 d a b r s

/-- FMS_D (R157). -/
def execFmsD (d a b : Opnd) (r : RSel) (s : State) : Out := fma (.fmsD d a b r) .fp64 1 d a b r s

/-- FNMA_D (R157). -/
def execFnmaD (d a b : Opnd) (r : RSel) (s : State) : Out := fma (.fnmaD d a b r) .fp64 2 d a b r s

/-- FNMS_D (R157). -/
def execFnmsD (d a b : Opnd) (r : RSel) (s : State) : Out := fma (.fnmsD d a b r) .fp64 3 d a b r s

/-- FMA_S (R157). -/
def execFmaS (d a b : Opnd) (r : RSel) (s : State) : Out := fma (.fmaS d a b r) .fp32 0 d a b r s

/-- FMS_S (R157). -/
def execFmsS (d a b : Opnd) (r : RSel) (s : State) : Out := fma (.fmsS d a b r) .fp32 1 d a b r s

/-- FNMA_S (R157). -/
def execFnmaS (d a b : Opnd) (r : RSel) (s : State) : Out := fma (.fnmaS d a b r) .fp32 2 d a b r s

/-- FNMS_S (R157). -/
def execFnmsS (d a b : Opnd) (r : RSel) (s : State) : Out := fma (.fnmsS d a b r) .fp32 3 d a b r s

/-! ### FCVT (R158) -/

/-- A result of FCVT as a 64-bit word: I32 is sign-extended, the others zero-extended (R158). -/
def cvtWord (t : Cvt) (x : Nat) : Word :=
  match t with
  | .i32 => (BitVec.ofNat 32 x).signExtend 64
  | _ => BitVec.ofNat 64 x

/-- FCVT (R158). -/
def execFcvt (d a : Opnd) (r : RSel) (f t : Cvt) (s : State) : Out :=
  issue (.fcvt d a r f t) s fun s =>
    match s.me.r.val a with
    | none => .wait .queue s
    | some x =>
      if s.me.room d then
        let g := Fmt.ofCvt f
        let (z, acc) := s.acc.round (s.me.c.mode r) fun m => (Fmt.ofCvt t).round false m (g.val (pattern g x)).exact
        .done (((s.pop a).rounded acc).result d (cvtWord t z))
      else .wait .queue s

end Sys2Proof.Machine
end
end

