-- ==== Sys2Proof/Machine/LoadStore.lean ====
section
/-!
DEFINITION. Control flow (R134 to R137) and scalar loads and stores (R138 to R143), with their 16-bit equivalents (R64).
-/
noncomputable section
namespace Sys2Proof.Machine

/-! ### Jumps, calls and branches (R134 to R136) -/

/-- Bit 0 of a computed target is cleared (R62). -/
def evenPc (x : Word) : Word := x &&& ~~~ 1

/-- A target at a signed number of halfwords from the instruction (R134, R136, R63). -/
def relPc {n : Nat} (pc : Word) (o : BitVec n) : Word := pc + (o.signExtend 64 <<< 1)

/-- JMP (R134). -/
def execJmp (o : BitVec 24) (s : State) : Out := issue (.jmp o) s fun s => .goto (relPc s.me.pc o) s

/-- CALL (R134): w31 gets the address after the call, which is pushed. -/
def execCall (o : BitVec 24) (s : State) : Out :=
  issue (.call o) s fun s => .goto (relPc s.me.pc o) (s.resultW 31 (s.me.pc + 4))

/-- JR (R135): the target is read before d is written; w0 as d links nothing and pushes nothing. -/
def execJr (d a : Opnd) (i : BitVec 12) (s : State) : Out :=
  issue (.jr d a i) s fun s =>
    match s.me.r.val a with
    | none => .wait .queue s
    | some x =>
      let pc := evenPc (x + i.signExtend 64)
      if d == .w 0 then .goto pc (s.pop a)
      else if s.me.room d then .goto pc ((s.pop a).result d (s.me.pc + 4))
      else .wait .queue s

/-- A branch on a condition of A and B (R136). -/
def branch (i : Instr) (a b : Opnd) (o : BitVec 12) (s : State) (c : Word → Word → Bool) : Out :=
  issue i s fun s =>
    match s.me.r.val2 a b with
    | none => .wait .queue s
    | some (x, y) => if c x y then .goto (relPc s.me.pc o) (s.pop2 a b) else .done (s.pop2 a b)

/-- B_EQ (R136). -/
def execBEq (a b : Opnd) (o : BitVec 12) (s : State) : Out := branch (.bEq a b o) a b o s fun x y => x == y

/-- B_NE (R136). -/
def execBNe (a b : Opnd) (o : BitVec 12) (s : State) : Out := branch (.bNe a b o) a b o s fun x y => x != y

/-- B_LT (R136). -/
def execBLt (a b : Opnd) (o : BitVec 12) (s : State) : Out := branch (.bLt a b o) a b o s fun x y => x.slt y

/-- B_GE (R136). -/
def execBGe (a b : Opnd) (o : BitVec 12) (s : State) : Out := branch (.bGe a b o) a b o s fun x y => !x.slt y

/-- B_LTU (R136). -/
def execBLtu (a b : Opnd) (o : BitVec 12) (s : State) : Out := branch (.bLtu a b o) a b o s fun x y => x.ult y

/-- B_GEU (R136). -/
def execBGeu (a b : Opnd) (o : BitVec 12) (s : State) : Out := branch (.bGeu a b o) a b o s fun x y => !x.ult y

/-- B_BS (R136). -/
def execBBs (a b : Opnd) (o : BitVec 12) (s : State) : Out := branch (.bBs a b o) a b o s fun x y => x.getLsbD (y.toNat % 64)

/-- B_BC (R136). -/
def execBBc (a b : Opnd) (o : BitVec 12) (s : State) : Out := branch (.bBc a b o) a b o s fun x y => !x.getLsbD (y.toNat % 64)

/-- BEQZ (R64): as B.EQ a, w0. -/
def execBeqz (a : WReg) (o : BitVec 5) (s : State) : Out :=
  issue (.beqz a o) s fun s => if s.w a == 0 then .goto (relPc s.me.pc o) s else .done s

/-- BNEZ (R64): as B.NE a, w0. -/
def execBnez (a : WReg) (o : BitVec 5) (s : State) : Out :=
  issue (.bnez a o) s fun s => if s.w a != 0 then .goto (relPc s.me.pc o) s else .done s

/-- J (R64): as JMP. -/
def execJ (o : BitVec 10) (s : State) : Out := issue (.j o) s fun s => .goto (relPc s.me.pc o) s

/-- JR_16 (R64): as JR w0, a, 0. -/
def execJr16 (a : WReg) (s : State) : Out := issue (.jr16 a) s fun s => .goto (evenPc (s.w a)) s

/-! ### Loads and stores (R138 to R141) -/

/-- The effective address of the S form (R138). -/
def State.eaS (s : State) (b : Opnd) (i : BitVec 12) : Word := (s.me.r.val b).getD 0 + i.signExtend 64

/-- The loaded value: n bytes, sign- or zero-extended. -/
def extend (signed : Bool) (n : Nat) (x : Nat) : Word :=
  if signed then (BitVec.ofNat (8 * n) x).signExtend 64 else BitVec.ofNat 64 x

/-- An S-form load of n bytes. -/
def loadS (i : Instr) (d b : Opnd) (o : BitVec 12) (n : Nat) (signed : Bool) (s : State) : Out :=
  issue i s fun s => s.loadTo d id (s.eaS b o) n (extend signed n)

/-- An S-form store of n bytes; the data field is a source (R67). -/
def storeS (i : Instr) (d b : Opnd) (o : BitVec 12) (n : Nat) (s : State) : Out :=
  issue i s fun s =>
    match s.me.r.val d with
    | none => .wait .queue s
    | some x => s.storeFrom i (·.pop d) (s.eaS b o) n x

/-- LD_B (R139). -/
def execLdB (d b : Opnd) (i : BitVec 12) (s : State) : Out := loadS (.ldB d b i) d b i 1 true s

/-- LD_H (R139). -/
def execLdH (d b : Opnd) (i : BitVec 12) (s : State) : Out := loadS (.ldH d b i) d b i 2 true s

/-- LD_W (R139). -/
def execLdW (d b : Opnd) (i : BitVec 12) (s : State) : Out := loadS (.ldW d b i) d b i 4 true s

/-- LD_D (R139). -/
def execLdD (d b : Opnd) (i : BitVec 12) (s : State) : Out := loadS (.ldD d b i) d b i 8 false s

/-- LD_BU (R139). -/
def execLdBu (d b : Opnd) (i : BitVec 12) (s : State) : Out := loadS (.ldBu d b i) d b i 1 false s

/-- LD_HU (R139). -/
def execLdHu (d b : Opnd) (i : BitVec 12) (s : State) : Out := loadS (.ldHu d b i) d b i 2 false s

/-- LD_WU (R139). -/
def execLdWu (d b : Opnd) (i : BitVec 12) (s : State) : Out := loadS (.ldWu d b i) d b i 4 false s

/-- ST_B (R139). -/
def execStB (d b : Opnd) (i : BitVec 12) (s : State) : Out := storeS (.stB d b i) d b i 1 s

/-- ST_H (R139). -/
def execStH (d b : Opnd) (i : BitVec 12) (s : State) : Out := storeS (.stH d b i) d b i 2 s

/-- ST_W (R139). -/
def execStW (d b : Opnd) (i : BitVec 12) (s : State) : Out := storeS (.stW d b i) d b i 4 s

/-- ST_D (R139). -/
def execStD (d b : Opnd) (i : BitVec 12) (s : State) : Out := storeS (.stD d b i) d b i 8 s

/-- The size of MEMX in bytes (R142). -/
def memxSize (z : BitVec 2) : Nat := 2 ^ z.toNat

/-- An indexed load (R142). -/
def loadX (i : Instr) (d a b : Opnd) (z k : BitVec 2) (signed : Bool) (s : State) : Out :=
  issue i s fun s =>
    match s.me.r.val2 a b with
    | none => .wait .queue s
    | some (x, y) => s.loadTo d (·.pop2 a b) (x + (y <<< k.toNat)) (memxSize z) (extend signed (memxSize z))

/-- LDX (R142). -/
def execLdx (d a b : Opnd) (z k : BitVec 2) (s : State) : Out := loadX (.ldx d a b z k) d a b z k true s

/-- LDXU (R142). -/
def execLdxu (d a b : Opnd) (z k : BitVec 2) (s : State) : Out := loadX (.ldxu d a b z k) d a b z k false s

/-- STX (R142): the sources are read in the order a, b, d (log 22). -/
def execStx (d a b : Opnd) (z k : BitVec 2) (s : State) : Out :=
  issue (.stx d a b z k) s fun s =>
    match s.me.r.val2 a b with
    | none => .wait .queue s
    | some (x, y) =>
      match ((s.me.r.popped a).popped b).val d with
      | none => .wait .queue s
      | some v => s.storeFrom (.stx d a b z k) (fun t => (t.pop2 a b).pop d) (x + (y <<< k.toNat)) (memxSize z) v

/-- The effective address of the 16-bit forms: a base plus 8 times the field (R64). -/
def State.ea16 (s : State) (base : WReg) (o : BitVec 5) : Word := s.w base + BitVec.ofNat 64 (8 * o.toNat)

/-- LD_16 (R64): as LD.D d, off(w29). -/
def execLd16 (d : WReg) (o : BitVec 5) (s : State) : Out :=
  issue (.ld16 d o) s fun s => s.loadTo (.w d) id (s.ea16 29 o) 8 (extend false 8)

/-- LDS_16 (R64): as LD.D d, off(w30). -/
def execLds16 (d : WReg) (o : BitVec 5) (s : State) : Out :=
  issue (.lds16 d o) s fun s => s.loadTo (.w d) id (s.ea16 30 o) 8 (extend false 8)

/-- ST_16 (R64): as ST.D s, off(w29). -/
def execSt16 (a : WReg) (o : BitVec 5) (s : State) : Out :=
  issue (.st16 a o) s fun s => s.storeFrom (.st16 a o) id (s.ea16 29 o) 8 (s.w a)

/-- STS_16 (R64): as ST.D s, off(w30). -/
def execSts16 (a : WReg) (o : BitVec 5) (s : State) : Out :=
  issue (.sts16 a o) s fun s => s.storeFrom (.sts16 a o) id (s.ea16 30 o) 8 (s.w a)

end Sys2Proof.Machine
end
end

