-- ==== Sys2Proof/Machine/Atomic.lean ====
section
/-!
DEFINITION. Atomic and ordering instructions (R316 to R323): LDAQ, STRL, AMO, AMO.W, CAS, FENCE, WAITM and PAUSE.
-/
noncomputable section
namespace Sys2Proof.Machine

/-! ### What they share (R316, R308, R310) -/

/-- Whether an ordering field is an acquire, and a release (R70). -/
def isAcq (o : BitVec 2) : Bool := o.getLsbD 0
def isRel (o : BitVec 2) : Bool := o.getLsbD 1

/-- Whether an address is a multiple of n. -/
def aligned (ea : Word) (n : Nat) : Bool := ea.toNat % n == 0

/-! ### LDAQ and STRL (R317) -/

/-- LDAQ (R317). -/
def execLdaq (d a : WReg) (z : BitVec 2) (c : BitVec 3) (s : State) : Out :=
  issue (.ldaq d a z c) s fun s =>
    let ea := s.w a
    let n := 2 ^ z.toNat
    if !aligned ea n then .trap .align ea s
    else (s.load ea n).then fun b t => .done ((t.acquire t.rels ea n c).resultW d (.ofNat 64 (leNat b)))

/-- STRL (R317): it never parks. -/
def execStrl (d a : WReg) (z : BitVec 2) (c : BitVec 3) (s : State) : Out :=
  issue (.strl d a z c) s fun s =>
    let ea := s.w a
    let n := 2 ^ z.toNat
    if !aligned ea n then .trap .align ea s
    else if s.hasParked then .wait .replay s
    else (s.store ea (natLe n (s.w d).toNat)).then fun _ t => .done (t.chain [] (t.relPlaces ea n) (some (t.myRel c)))

/-! ### AMO and AMO.W (R318, R319) -/

/-- What a read-modify-write stores, as a number of its width, with the flags it raises. -/
abbrev AmoOp := Nat → Nat → Nat × Flags

/-- An atomic read-modify-write of n bytes: the operation, and how the old value is extended into d. -/
def amo (i : Instr) (d a b : WReg) (o : BitVec 2) (c : BitVec 3) (n : Nat) (signed : Bool) (s : State) (f : AmoOp) : Out :=
  issue i s fun s =>
    let ea := s.w a
    let v := (s.w b).toNat % 2 ^ (8 * n)
    if !aligned ea n then .trap .align ea s
    else if isRel o && s.hasParked then .wait .replay s
    else
      (s.rmw ea n fun old => some (natLe n (f (leNat old) v).1)).then fun old t =>
        let x := leNat old
        let t := t.chain s.rels (t.relPlaces ea n) (if isRel o then some (t.myRel c) else none)
        let t := if isAcq o then t.acquire s.rels ea n c else t
        let t := t.onCsr (·.accrue (f x v).2)
        .done (t.resultW d (extend signed n x))

/-- An operation on integers of a width: no flag. -/
def amoInt (f : Nat → Nat → Nat) : AmoOp := fun x y => (f x y, 0)

/-- A width-bit number as a signed integer. -/
def asInt (bits x : Nat) : Int := (BitVec.ofNat bits x).toInt

/-- FADD rounds RNE (R319). -/
def amoFadd (f : Fmt) : AmoOp := fun x y => f.round false .rne ((f.val x).add (f.val y) .rne)

/-- FMAX and FMIN (R319). -/
def amoFmm (f : Fmt) (max : Bool) : AmoOp := f.minMax max

/-- FAMAX: the larger magnitude (R319). -/
def amoFamax (f : Fmt) : AmoOp := fun x y =>
  f.minMax true (x % 2 ^ (f.bits - 1)) (y % 2 ^ (f.bits - 1))

/-- AMO_ADD (R318). -/
def execAmoAdd (d a b : WReg) (o : BitVec 2) (c : BitVec 3) (s : State) : Out :=
  amo (.amoAdd d a b o c) d a b o c 8 false s <| amoInt fun x y => (x + y) % 2 ^ 64

/-- AMO_AND (R318). -/
def execAmoAnd (d a b : WReg) (o : BitVec 2) (c : BitVec 3) (s : State) : Out :=
  amo (.amoAnd d a b o c) d a b o c 8 false s <| amoInt fun x y => x &&& y

/-- AMO_OR (R318). -/
def execAmoOr (d a b : WReg) (o : BitVec 2) (c : BitVec 3) (s : State) : Out :=
  amo (.amoOr d a b o c) d a b o c 8 false s <| amoInt fun x y => x ||| y

/-- AMO_XOR (R318). -/
def execAmoXor (d a b : WReg) (o : BitVec 2) (c : BitVec 3) (s : State) : Out :=
  amo (.amoXor d a b o c) d a b o c 8 false s <| amoInt fun x y => x ^^^ y

/-- AMO_MIN (R318). -/
def execAmoMin (d a b : WReg) (o : BitVec 2) (c : BitVec 3) (s : State) : Out :=
  amo (.amoMin d a b o c) d a b o c 8 false s <| amoInt fun x y => if asInt 64 x ≤ asInt 64 y then x else y

/-- AMO_MAX (R318). -/
def execAmoMax (d a b : WReg) (o : BitVec 2) (c : BitVec 3) (s : State) : Out :=
  amo (.amoMax d a b o c) d a b o c 8 false s <| amoInt fun x y => if asInt 64 y ≤ asInt 64 x then x else y

/-- AMO_MINU (R318). -/
def execAmoMinu (d a b : WReg) (o : BitVec 2) (c : BitVec 3) (s : State) : Out :=
  amo (.amoMinu d a b o c) d a b o c 8 false s <| amoInt fun x y => if x ≤ y then x else y

/-- AMO_MAXU (R318). -/
def execAmoMaxu (d a b : WReg) (o : BitVec 2) (c : BitVec 3) (s : State) : Out :=
  amo (.amoMaxu d a b o c) d a b o c 8 false s <| amoInt fun x y => if y ≤ x then x else y

/-- AMO_SWAP (R318). -/
def execAmoSwap (d a b : WReg) (o : BitVec 2) (c : BitVec 3) (s : State) : Out :=
  amo (.amoSwap d a b o c) d a b o c 8 false s <| amoInt fun _ y => y

/-- AMO_FADD (R319). -/
def execAmoFadd (d a b : WReg) (o : BitVec 2) (c : BitVec 3) (s : State) : Out :=
  amo (.amoFadd d a b o c) d a b o c 8 false s <| amoFadd .fp64

/-- AMO_FMAX (R319). -/
def execAmoFmax (d a b : WReg) (o : BitVec 2) (c : BitVec 3) (s : State) : Out :=
  amo (.amoFmax d a b o c) d a b o c 8 false s <| amoFmm .fp64 true

/-- AMO_FMIN (R319). -/
def execAmoFmin (d a b : WReg) (o : BitVec 2) (c : BitVec 3) (s : State) : Out :=
  amo (.amoFmin d a b o c) d a b o c 8 false s <| amoFmm .fp64 false

/-- AMO_FAMAX (R319). -/
def execAmoFamax (d a b : WReg) (o : BitVec 2) (c : BitVec 3) (s : State) : Out :=
  amo (.amoFamax d a b o c) d a b o c 8 false s <| amoFamax .fp64

/-- AMO_W_ADD (R318). -/
def execAmoWAdd (d a b : WReg) (o : BitVec 2) (c : BitVec 3) (s : State) : Out :=
  amo (.amoWAdd d a b o c) d a b o c 4 true s <| amoInt fun x y => (x + y) % 2 ^ 32

/-- AMO_W_AND (R318). -/
def execAmoWAnd (d a b : WReg) (o : BitVec 2) (c : BitVec 3) (s : State) : Out :=
  amo (.amoWAnd d a b o c) d a b o c 4 true s <| amoInt fun x y => x &&& y

/-- AMO_W_OR (R318). -/
def execAmoWOr (d a b : WReg) (o : BitVec 2) (c : BitVec 3) (s : State) : Out :=
  amo (.amoWOr d a b o c) d a b o c 4 true s <| amoInt fun x y => x ||| y

/-- AMO_W_XOR (R318). -/
def execAmoWXor (d a b : WReg) (o : BitVec 2) (c : BitVec 3) (s : State) : Out :=
  amo (.amoWXor d a b o c) d a b o c 4 true s <| amoInt fun x y => x ^^^ y

/-- AMO_W_MIN (R318). -/
def execAmoWMin (d a b : WReg) (o : BitVec 2) (c : BitVec 3) (s : State) : Out :=
  amo (.amoWMin d a b o c) d a b o c 4 true s <| amoInt fun x y => if asInt 32 x ≤ asInt 32 y then x else y

/-- AMO_W_MAX (R318). -/
def execAmoWMax (d a b : WReg) (o : BitVec 2) (c : BitVec 3) (s : State) : Out :=
  amo (.amoWMax d a b o c) d a b o c 4 true s <| amoInt fun x y => if asInt 32 y ≤ asInt 32 x then x else y

/-- AMO_W_MINU (R318). -/
def execAmoWMinu (d a b : WReg) (o : BitVec 2) (c : BitVec 3) (s : State) : Out :=
  amo (.amoWMinu d a b o c) d a b o c 4 true s <| amoInt fun x y => if x ≤ y then x else y

/-- AMO_W_MAXU (R318). -/
def execAmoWMaxu (d a b : WReg) (o : BitVec 2) (c : BitVec 3) (s : State) : Out :=
  amo (.amoWMaxu d a b o c) d a b o c 4 true s <| amoInt fun x y => if y ≤ x then x else y

/-- AMO_W_SWAP (R318). -/
def execAmoWSwap (d a b : WReg) (o : BitVec 2) (c : BitVec 3) (s : State) : Out :=
  amo (.amoWSwap d a b o c) d a b o c 4 true s <| amoInt fun _ y => y

/-- AMO_W_FADD (R319). -/
def execAmoWFadd (d a b : WReg) (o : BitVec 2) (c : BitVec 3) (s : State) : Out :=
  amo (.amoWFadd d a b o c) d a b o c 4 false s <| amoFadd .fp32

/-- AMO_W_FMAX (R319). -/
def execAmoWFmax (d a b : WReg) (o : BitVec 2) (c : BitVec 3) (s : State) : Out :=
  amo (.amoWFmax d a b o c) d a b o c 4 false s <| amoFmm .fp32 true

/-- AMO_W_FMIN (R319). -/
def execAmoWFmin (d a b : WReg) (o : BitVec 2) (c : BitVec 3) (s : State) : Out :=
  amo (.amoWFmin d a b o c) d a b o c 4 false s <| amoFmm .fp32 false

/-- AMO_W_FAMAX (R319). -/
def execAmoWFamax (d a b : WReg) (o : BitVec 2) (c : BitVec 3) (s : State) : Out :=
  amo (.amoWFamax d a b o c) d a b o c 4 false s <| amoFamax .fp32

/-! ### CAS (R320) -/

/-- A compare-and-swap of n bytes: d holds the expected value. One that fails writes nothing. -/
def compareSwap (i : Instr) (d a b : WReg) (o : BitVec 2) (c : BitVec 3) (n : Nat) (signed : Bool) (s : State) : Out :=
  issue i s fun s =>
    let ea := s.w a
    let want := (s.w d).toNat % 2 ^ (8 * n)
    if !aligned ea n then .trap .align ea s
    else if isRel o && s.hasParked then .wait .replay s
    else
      (s.rmw ea n fun old => if leNat old == want then some (natLe n (s.w b).toNat) else none).then fun old t =>
        let x := leNat old
        let t := if x == want then
            t.chain s.rels (t.relPlaces ea n) (if isRel o then some (t.myRel c) else none) else t
        let t := if isAcq o then t.acquire s.rels ea n c else t
        .done (t.resultW d (extend signed n x))

/-- CAS (R320). -/
def execCas (d a b : WReg) (o : BitVec 2) (c : BitVec 3) (s : State) : Out :=
  compareSwap (.cas d a b o c) d a b o c 8 false s

/-- CAS_W (R320). -/
def execCasW (d a b : WReg) (o : BitVec 2) (c : BitVec 3) (s : State) : Out :=
  compareSwap (.casW d a b o c) d a b o c 4 true s

/-! ### FENCE, WAITM, PAUSE (R321 to R323) -/

/-- The fetches of the issuing task observe every store made so far (R300, R321). -/
def State.refetch (s : State) : State := { s with me := { s.me with t := { s.me.t with seen := s.past.length } } }

/-- FENCE (R321): with stores-before it waits for the replay queue, as .eng for the task's engine and loft commands too, and as
.xlt later fetches observe the stores before it. Every access of this model is performed in program order, so it orders nothing
more (log 3). -/
def execFence (f : BitVec 4) (k : BitVec 2) (c : BitVec 3) (s : State) : Out :=
  issue (.fence f k c) s fun s =>
    if f.getLsbD 2 then
      if s.hasParked then .wait .replay s
      else if k == 1 && s.engBusy then .wait .engine s
      else if k == 1 && s.loftBusy then .wait .loft s
      else .done (if k == 2 then s.refetch else s)
    else .done s

/-- The condition of WAITM on the value read and B (R322). -/
def waitCond (c : BitVec 4) (v b : Word) : Bool :=
  match c.toNat with
  | 0 => v != b
  | 1 => v == b
  | 2 => !(v - b).msb
  | _ => (v &&& b) != 0

/-- WAITM (R322): it reads until the condition holds. -/
def execWaitm (d a b : WReg) (k : BitVec 4) (o : BitVec 2) (c : BitVec 3) (s : State) : Out :=
  issue (.waitm d a b k o c) s fun s =>
    let ea := s.w a
    if !aligned ea 8 then .trap .align ea s
    else
      (s.load ea 8).then fun y t =>
        let v : Word := .ofNat 64 (leNat y)
        if waitCond k v (s.w b) then .done ((if isAcq o then t.acquire t.rels ea 8 c else t).resultW d v)
        else .wait .waitm t

/-- A context gives up its issue slots for the n cycles that follow, its next slot alone for 0 (R323): it has retired, and
issues no instruction until then. -/
def State.paused (s : State) (n len : Nat) : State :=
  let t := s.retire false none len
  match t.me.st with
  | .ready =>
    let til := if n == 0 then none else some (s.cycle + n + 1)
    { t with me := { t.me with st := .waiting (.pause til), since := s.cycle } }
  | _ => t

/-- PAUSE (R323). -/
def execPause (n : BitVec 12) (s : State) : Out := issue (.pause n) s fun s => .whole (s.paused n.toNat 4)

/-- PAUSE_16 (R323): as PAUSE 0. -/
def execPause16 (s : State) : Out := issue .pause16 s fun s => .whole (s.paused 0 2)

end Sys2Proof.Machine
end
end

