-- ==== Sys2Proof/Machine/VectorOps.lean ====
section
/-!
DEFINITION. Vector instructions on registers (R160 to R171): lanes and masks, VALU, VFMA, VCMP, VRED, VX, VPERM, VCVT
and VFN.
-/
noncomputable section
namespace Sys2Proof.Machine

/-! ### Lanes and masks (R111, R112, R160) -/

/-- The elements of a register, of a width in bits, lowest first. -/
def elems (bits : Nat) (v : Vec) : List Nat := (List.range (512 / bits)).map fun i => v.toNat >>> (bits * i) % 2 ^ bits

/-- Elements packed from a bit up, as one little-endian number (R111). -/
def packNat (bits : Nat) : List Nat → Nat
  | [] => 0
  | x :: l => x % 2 ^ bits + 2 ^ bits * packNat bits l

/-- The register that holds a list of elements. -/
def ofElems (bits : Nat) (l : List Nat) : Vec := BitVec.ofNat 512 (packNat bits l)

/-- Whether element i of a width is active under a mask field (R40, R160). -/
def Regs.active (r : Regs) (m : MReg) (bits i : Nat) : Bool := m == 0 || (r.getM m).getLsbD (bits / 8 * i)

/-- Element by element in ascending order: active elements become what g gives, the others stay. -/
def sweep (act : Nat → Bool) (g : Nat → Acc → Nat × Acc) : Nat → List Nat → Acc → List Nat × Acc
  | _, [], a => ([], a)
  | i, x :: l, a =>
    let (y, a1) := if act i then g i a else (x, a)
    let (r, a2) := sweep act g (i + 1) l a1
    (y :: r, a2)

/-- The signed integer of an element. -/
def Fmt.int (f : Fmt) (x : Nat) : Int := asSigned f.bits x
where asSigned (bits x : Nat) : Int := if x.testBit (bits - 1) then (x : Int) - (2 ^ bits : Nat) else x

/-- A register of the issuing context as a list of elements. -/
def State.vec (s : State) (bits : Nat) (a : VReg) : List Nat := elems bits (s.me.r.getV a)

/-- A vector result: the destination, the draws taken and the flags raised; the vector stream goes on. -/
def State.vresult (s : State) (d : VReg) (bits : Nat) (l : List Nat) (a : Acc) (pops : List Opnd) : State :=
  (((s.rounded a).onRegs fun r => pops.foldl Regs.popped (r.setV d (ofElems bits l)))).vectored pops

/-- What an element operation gives for two elements under a mode. -/
abbrev LaneOp := Fmt → RmCode → Nat → Nat → Acc → Nat × Acc

/-- A masked operation on elements of va and vb (R160, R163). -/
def vlanes (i : Instr) (d a b : VReg) (m : MReg) (z : Sz) (s : State) (op : LaneOp) : Out :=
  issue i s fun s =>
    let f := Fmt.ofSz z
    let xs := s.vec f.bits a
    let ys := s.vec f.bits b
    let (l, acc) := sweep (s.me.r.active m f.bits) (fun j => op f s.me.c.rm (xs.getD j 0) (ys.getD j 0)) 0
      (s.vec f.bits d) s.acc
    .done (s.vresult d f.bits l acc [])

/-- An integer operation in an integer sz, a rounded one in a floating sz (R164). -/
def laneArith (int : Int → Int → Int) (flt : Val → Val → Mode → Exact) : LaneOp := fun f rm x y a =>
  if f.isFloat then a.round rm fun m => f.round false m (flt (f.val x) (f.val y) m)
  else (f.ofInt (int (f.int x) (f.int y)), a)

/-- An operation on integers alone. -/
def laneInt (int : Fmt → Int → Int → Int) : LaneOp := fun f _ x y a => (f.ofInt (int f (f.int x) (f.int y)), a)

/-- An operation on bits alone. -/
def laneBits (g : Fmt → Nat → Nat → Nat) : LaneOp := fun f _ x y a => (g f x y % 2 ^ f.bits, a)

/-- The minimum or maximum: signed integers, or as FMIN and FMAX (R164). -/
def laneMinMax (max : Bool) : LaneOp := fun f _ x y a =>
  if f.isFloat then a.plain (f.minMax max x y)
  else (if (if max then f.int y ≤ f.int x else f.int x ≤ f.int y) then x else y, a)

/-- A value clamped to the range of an integer format. -/
def Fmt.clamp (f : Fmt) (i : Int) : Int := if i < f.lo then f.lo else if f.hi < i then f.hi else i

/-! ### VALU (R164) -/

/-- VADD (R164). -/
def execVadd (d a b : VReg) (m : MReg) (z : Sz) (s : State) : Out :=
  vlanes (.vadd d a b m z) d a b m z s <| laneArith (· + ·) fun x y m => x.add y m

/-- VSUB (R164). -/
def execVsub (d a b : VReg) (m : MReg) (z : Sz) (s : State) : Out :=
  vlanes (.vsub d a b m z) d a b m z s <| laneArith (· - ·) fun x y m => x.add y.negate m

/-- VMUL (R164). -/
def execVmul (d a b : VReg) (m : MReg) (z : Sz) (s : State) : Out :=
  vlanes (.vmul d a b m z) d a b m z s <| laneArith (· * ·) fun x y _ => x.mul y

/-- VMIN (R164). -/
def execVmin (d a b : VReg) (m : MReg) (z : Sz) (s : State) : Out :=
  vlanes (.vmin d a b m z) d a b m z s <| laneMinMax false

/-- VMAX (R164). -/
def execVmax (d a b : VReg) (m : MReg) (z : Sz) (s : State) : Out :=
  vlanes (.vmax d a b m z) d a b m z s <| laneMinMax true

/-- VAND (R164). -/
def execVand (d a b : VReg) (m : MReg) (z : Sz) (s : State) : Out :=
  vlanes (.vand d a b m z) d a b m z s <| laneBits fun _ x y => x &&& y

/-- VOR (R164). -/
def execVor (d a b : VReg) (m : MReg) (z : Sz) (s : State) : Out :=
  vlanes (.vor d a b m z) d a b m z s <| laneBits fun _ x y => x ||| y

/-- VXOR (R164). -/
def execVxor (d a b : VReg) (m : MReg) (z : Sz) (s : State) : Out :=
  vlanes (.vxor d a b m z) d a b m z s <| laneBits fun _ x y => x ^^^ y

/-- VANDN (R164). -/
def execVandn (d a b : VReg) (m : MReg) (z : Sz) (s : State) : Out :=
  vlanes (.vandn d a b m z) d a b m z s <| laneBits fun f x y => x &&& (2 ^ f.bits - 1 - y)

/-- VSHL (R164). -/
def execVshl (d a b : VReg) (m : MReg) (z : Sz) (s : State) : Out :=
  vlanes (.vshl d a b m z) d a b m z s <| laneBits fun f x y => x <<< (y % f.bits)

/-- VSHR (R164). -/
def execVshr (d a b : VReg) (m : MReg) (z : Sz) (s : State) : Out :=
  vlanes (.vshr d a b m z) d a b m z s <| laneBits fun f x y => x >>> (y % f.bits)

/-- VSRA (R164). -/
def execVsra (d a b : VReg) (m : MReg) (z : Sz) (s : State) : Out :=
  vlanes (.vsra d a b m z) d a b m z s <| laneInt fun f x y => x / 2 ^ (f.ofInt y % f.bits)

/-- VMULH (R164). -/
def execVmulh (d a b : VReg) (m : MReg) (z : Sz) (s : State) : Out :=
  vlanes (.vmulh d a b m z) d a b m z s <| laneInt fun f x y => x * y / (2 ^ f.bits : Nat)

/-- VADDS (R164). -/
def execVadds (d a b : VReg) (m : MReg) (z : Sz) (s : State) : Out :=
  vlanes (.vadds d a b m z) d a b m z s <| laneInt fun f x y => f.clamp (x + y)

/-- VSUBS (R164). -/
def execVsubs (d a b : VReg) (m : MReg) (z : Sz) (s : State) : Out :=
  vlanes (.vsubs d a b m z) d a b m z s <| laneInt fun f x y => f.clamp (x - y)

/-- VABS (R164). -/
def execVabs (d a : VReg) (m : MReg) (z : Sz) (s : State) : Out :=
  vlanes (.vabs d a m z) d a a m z s fun f _ x _ a => (if f.isFloat then x % 2 ^ (f.bits - 1) else f.ofInt (f.int x).natAbs, a)

/-- VNEG (R164). -/
def execVneg (d a : VReg) (m : MReg) (z : Sz) (s : State) : Out :=
  vlanes (.vneg d a m z) d a a m z s fun f _ x _ a => (if f.isFloat then x ^^^ 2 ^ (f.bits - 1) else f.ofInt (-f.int x), a)

/-- VMOV (R164). -/
def execVmov (d a : VReg) (m : MReg) (z : Sz) (s : State) : Out :=
  vlanes (.vmov d a m z) d a a m z s fun _ _ x _ a => (x, a)

/-- VSEL (R164): every element is written, from va where active and from vb elsewhere. -/
def execVsel (d a b : VReg) (m : MReg) (z : Sz) (s : State) : Out :=
  issue (.vsel d a b m z) s fun s =>
    let n := (Fmt.ofSz z).bits
    let xs := s.vec n a
    let (l, acc) := sweep (s.me.r.active m n) (fun j c => (xs.getD j 0, c)) 0 (s.vec n b) s.acc
    .done (s.vresult d n l acc [])

/-! ### VFMA (R165) -/

/-- An integer fused operation, modulo the width (R165). -/
def fusedInt (op : Nat) (x y z : Int) : Int :=
  match op with
  | 0 => x * y + z
  | 1 => x * y - z
  | 2 => -(x * y) - z
  | _ => -(x * y) + z

/-- A masked fused operation; vd holds the addend. -/
def vfused (i : Instr) (op : Nat) (d a b : VReg) (m : MReg) (z : Sz) (r : RSel) (s : State) : Out :=
  issue i s fun s =>
    let f := Fmt.ofSz z
    let xs := s.vec f.bits a
    let ys := s.vec f.bits b
    let cs := s.vec f.bits d
    let one := fun (j : Nat) (acc : Acc) =>
      let x := xs.getD j 0
      let y := ys.getD j 0
      let c := cs.getD j 0
      if f.isFloat then
        acc.round (s.me.c.mode r) fun md => f.round false md (Val.fused op (f.val x) (f.val y) (f.val c) md)
      else (f.ofInt (fusedInt op (f.int x) (f.int y) (f.int c)), acc)
    let (l, acc) := sweep (s.me.r.active m f.bits) one 0 cs s.acc
    .done (s.vresult d f.bits l acc [])

/-- VFMA (R165). -/
def execVfma (d a b : VReg) (m : MReg) (z : Sz) (r : RSel) (s : State) : Out :=
  vfused (.vfma d a b m z r) 0 d a b m z r s

/-- VFMS (R165). -/
def execVfms (d a b : VReg) (m : MReg) (z : Sz) (r : RSel) (s : State) : Out :=
  vfused (.vfms d a b m z r) 1 d a b m z r s

/-- VFNMA (R165). -/
def execVfnma (d a b : VReg) (m : MReg) (z : Sz) (r : RSel) (s : State) : Out :=
  vfused (.vfnma d a b m z r) 2 d a b m z r s

/-- VFNMS (R165). -/
def execVfnms (d a b : VReg) (m : MReg) (z : Sz) (r : RSel) (s : State) : Out :=
  vfused (.vfnms d a b m z r) 3 d a b m z r s

/-! ### VCMP (R166) -/

/-- A condition on two elements: whether it holds, and its flags (R166). -/
def laneCond (f : Fmt) (c : Nat) (x y : Nat) : Bool × Flags :=
  if f.isFloat then
    let a := f.val x
    let b := f.val y
    if a.isNan || b.isNan then
      (c == 1 || c == 10, if 2 ≤ c && c ≤ 5 then NV else nvOf a b)
    else
      (match c with
       | 0 => !a.lt b false && !b.lt a false
       | 1 => a.lt b false || b.lt a false
       | 2 => a.lt b false
       | 3 => !b.lt a false
       | 4 => b.lt a false
       | 5 => !a.lt b false
       | _ => false, 0)
  else
    let a := f.int x
    let b := f.int y
    (match c with
     | 0 => x == y
     | 1 => x != y
     | 2 => decide (a < b)
     | 3 => decide (a ≤ b)
     | 4 => decide (b < a)
     | 5 => decide (b ≤ a)
     | 6 => decide (x < y)
     | 7 => decide (x ≤ y)
     | 8 => decide (y < x)
     | 9 => decide (y ≤ x)
     | _ => false, 0)

/-- VCMP (R166): every bit of an element's bytes. -/
def execVcmp (n : MReg) (a b : VReg) (m : MReg) (z : Sz) (c : BitVec 6) (s : State) : Out :=
  issue (.vcmp n a b m z c) s fun s =>
    let f := Fmt.ofSz z
    let xs := s.vec f.bits a
    let ys := s.vec f.bits b
    let bytes := f.bits / 8
    let one := fun (j : Nat) (acc : Acc) =>
      let (h, fl) := laneCond f c.toNat (xs.getD j 0) (ys.getD j 0)
      (if h then 2 ^ bytes - 1 else 0, { acc with fl := acc.fl ||| fl })
    let (l, acc) := sweep (s.me.r.active m f.bits) one 0 (List.replicate (512 / f.bits) 0) s.acc
    .done (((s.rounded acc).onRegs (·.setM n (BitVec.ofNat 64 (packNat bytes l)))).vectored [])

/-! ### VRED (R122, R167) -/

/-- One level of the tree: node i from nodes 2i and 2i + 1. -/
def treeLevel (g : Nat → Nat → Acc → Nat × Acc) : List Nat → Acc → List Nat × Acc
  | x :: y :: l, a =>
    let (z, a1) := g x y a
    let (r, a2) := treeLevel g l a1
    (z :: r, a2)
  | l, a => (l, a)

/-- The tree, level by level; six levels serve 64 lanes. -/
def tree (g : Nat → Nat → Acc → Nat × Acc) : Nat → List Nat → Acc → List Nat × Acc
  | 0, l, a => (l, a)
  | n + 1, l, a =>
    let (r, a1) := treeLevel g l a
    tree g n r a1

/-- The elements of a register, with identities for inactive lanes. -/
def maskedElems (act : Nat → Bool) (identity : Nat) (l : List Nat) : List Nat :=
  l.mapIdx fun j x => if act j then x else identity

/-- A reduction writes element 0 of vd and zeroes the others (R167). -/
def vreduce (i : Instr) (d a : VReg) (m : MReg) (z : Sz) (s : State)
    (g : Fmt → RmCode → (Nat → Bool) → List Nat → Acc → Nat × Acc) : Out :=
  issue i s fun s =>
    let f := Fmt.ofSz z
    let (x, acc) := g f s.me.c.rm (s.me.r.active m f.bits) (s.vec f.bits a) s.acc
    .done (s.vresult d f.bits [x] acc [])

/-- A reduction through the tree with one identity. -/
def treeReduce (identity : Nat) (op : Nat → Nat → Acc → Nat × Acc) (act : Nat → Bool) (l : List Nat) (a : Acc) :
    Nat × Acc :=
  let (r, a1) := tree op 6 (maskedElems act identity l) a
  (r.headD 0, a1)

/-- The active elements of a register. -/
def activeElems (act : Nat → Bool) (l : List Nat) : List Nat :=
  ((l.mapIdx fun j x => (act j, x)).filter (·.1)).map (·.2)

/-- VREDMIN, VREDMAX and VREDAMAX in a floating sz (R167): numbers beat NaNs, NaNs beat the identity. -/
def floatReduce (f : Fmt) (max : Bool) (identity : Nat) (l : List Nat) : Nat × Flags :=
  let nv := Flags.on (l.any fun x => (f.val x).signalling) NV
  match l.filter fun x => !(f.val x).isNan with
  | x :: r => (r.foldl (fun p q => (f.minMax max p q).1) x, nv)
  | [] =>
    (if l.isEmpty then identity else match f.float with
      | some g => g.nan.getD 0
      | none => 0, nv)

/-- The infinity of a floating format. -/
def Fmt.infinity (f : Fmt) (neg : Bool) : Nat :=
  match f.float with
  | some g => g.signed neg g.infPat
  | none => 0

/-- VREDADD (R122, R167). -/
def execVredadd (d a : VReg) (m : MReg) (z : Sz) (s : State) : Out :=
  vreduce (.vredadd d a m z) d a m z s fun f rm act l acc =>
    treeReduce (if f.isFloat then 2 ^ (f.bits - 1) else 0)
      (laneArith (· + ·) (fun x y m => x.add y m) f rm) act l acc

/-- VREDMIN (R122, R167). -/
def execVredmin (d a : VReg) (m : MReg) (z : Sz) (s : State) : Out :=
  vreduce (.vredmin d a m z) d a m z s fun f rm act l acc =>
    if f.isFloat then acc.plain (floatReduce f false (f.infinity false) (activeElems act l))
    else treeReduce (2 ^ (f.bits - 1) - 1) (laneMinMax false f rm) act l acc

/-- VREDMAX (R122, R167). -/
def execVredmax (d a : VReg) (m : MReg) (z : Sz) (s : State) : Out :=
  vreduce (.vredmax d a m z) d a m z s fun f rm act l acc =>
    if f.isFloat then acc.plain (floatReduce f true (f.infinity true) (activeElems act l))
    else treeReduce (2 ^ (f.bits - 1)) (laneMinMax true f rm) act l acc

/-- VREDAMAX (R122, R167): magnitudes, which for integers are unsigned values of the width. -/
def execVredamax (d a : VReg) (m : MReg) (z : Sz) (s : State) : Out :=
  vreduce (.vredamax d a m z) d a m z s fun f _ act l acc =>
    if f.isFloat then
      acc.plain (floatReduce f true 0 ((activeElems act l).map (· % 2 ^ (f.bits - 1))))
    else treeReduce 0 (fun x y c => (max x y, c)) act (l.map fun x => (f.int x).natAbs) acc

/-- VREDOR (R122, R167). -/
def execVredor (d a : VReg) (m : MReg) (z : Sz) (s : State) : Out :=
  vreduce (.vredor d a m z) d a m z s fun _ _ act l acc => treeReduce 0 (fun x y c => (x ||| y, c)) act l acc

/-- VREDAND (R122, R167). -/
def execVredand (d a : VReg) (m : MReg) (z : Sz) (s : State) : Out :=
  vreduce (.vredand d a m z) d a m z s fun f _ act l acc =>
    treeReduce (2 ^ f.bits - 1) (fun x y c => (x &&& y, c)) act l acc

/-! ### VX (R168) -/

/-- VBCAST (R168). -/
def execVbcast (d : VReg) (a : Opnd) (z : Sz) (s : State) : Out :=
  issue (.vbcast d a z) s fun s =>
    match s.me.r.val a with
    | none => .wait .queue s
    | some x =>
      let n := (Fmt.ofSz z).bits
      .done (s.vresult d n (List.replicate (512 / n) (x.toNat % 2 ^ n)) s.acc [a])

/-- VINS (R168). DESIGN CHOICE (log 54): s takes its queue entry before idx does, where both name one queue. -/
def execVins (d : VReg) (a b : Opnd) (z : Sz) (s : State) : Out :=
  issue (.vins d a b z) s fun s =>
    match s.me.r.val2 a b with
    | none => .wait .queue s
    | some (x, j) =>
      let n := (Fmt.ofSz z).bits
      .done (s.vresult d n ((s.vec n d).set (j.toNat % (512 / n)) (x.toNat % 2 ^ n)) s.acc [a, b])

/-- VEXTR (R168): it pushes element idx of the register vd into q2 or q3. -/
def execVextr (d : VReg) (q b : Opnd) (z : Sz) (s : State) : Out :=
  issue (.vextr d q b z) s fun s =>
    match s.me.r.val b with
    | none => .wait .queue s
    | some j =>
      let f := Fmt.ofSz z
      let x := (s.vec f.bits d).getD (j.toNat % (512 / f.bits)) 0
      let v : Word := if f.isFloat then BitVec.ofNat 64 x else BitVec.ofInt 64 (f.int x)
      .done ((s.onRegs (·.popped b)).vectoredWith (some (q != .q 2, v)) none [b])

/-! ### VPERM (R169) -/

/-- A rearrangement: element i of vd from the elements of va and vb, of which there are n. -/
def vpermute (i : Instr) (d a b : VReg) (z : Sz) (s : State) (g : Nat → (Nat → Nat) → (Nat → Nat) → Nat → Nat) : Out :=
  issue i s fun s =>
    let w := (Fmt.ofSz z).bits
    let xs := s.vec w a
    let ys := s.vec w b
    let n := 512 / w
    .done (s.vresult d w ((List.range n).map (g n (xs.getD · 0) (ys.getD · 0))) s.acc [])

/-- VPERM (R169). -/
def execVperm (d a b : VReg) (z : Sz) (s : State) : Out :=
  vpermute (.vperm d a b z) d a b z s fun n x y i => x (y i % n)

/-- VSLIDEUP (R169). -/
def execVslideup (d a b : VReg) (z : Sz) (s : State) : Out :=
  vpermute (.vslideup d a b z) d a b z s fun _ x y i => if y 0 ≤ i then x (i - y 0) else 0

/-- VSLIDEDN (R169). -/
def execVslidedn (d a b : VReg) (z : Sz) (s : State) : Out :=
  vpermute (.vslidedn d a b z) d a b z s fun n x y i => if i + y 0 < n then x (i + y 0) else 0

/-- VZIP (R169). -/
def execVzip (d a b : VReg) (z : Sz) (s : State) : Out :=
  vpermute (.vzip d a b z) d a b z s fun _ x y i => if i % 2 == 0 then x (i / 2) else y ((i - 1) / 2)

/-- VUNZIP (R169). -/
def execVunzip (d a b : VReg) (z : Sz) (s : State) : Out :=
  vpermute (.vunzip d a b z) d a b z s fun n x y i => if i < n / 2 then x (2 * i) else y (2 * (i - n / 2))

/-- VIOTA (R169): the index as a number of the format, which holds it exactly. -/
def execViota (d : VReg) (z : Sz) (s : State) : Out :=
  vpermute (.viota d z) d 0 0 z s fun _ _ _ i => ((Fmt.ofSz z).round false .rne (Val.ofInt i).exact).1

/-! ### VCVT (R170) -/

/-- The conversion of one element: integers keep their low bits or are sign-extended, and round nothing. -/
def laneCvt (f t : Fmt) (rm : RmCode) (x : Nat) (a : Acc) : Nat × Acc :=
  if f.isFloat || t.isFloat then a.round rm fun m => t.round false m (f.val x).exact
  else (t.ofInt (f.int x), a)

/-- A conversion of a list of elements, all written. -/
def vconvert (i : Instr) (d : VReg) (u t : Sz) (s : State) (src : Nat → State → List Nat) : Out :=
  issue i s fun s =>
    let f := Fmt.ofSz u
    let g := Fmt.ofSz t
    let xs := src f.bits s
    let (l, acc) := sweep (fun _ => true) (fun j => laneCvt f g s.me.c.rm (xs.getD j 0)) 0 xs s.acc
    .done (s.vresult d g.bits l acc [])

/-- VCVT (R170). -/
def execVcvt (d a : VReg) (u t : Sz) (s : State) : Out := vconvert (.vcvt d a u t) d u t s fun n s => s.vec n a

/-- VCVT_LO (R170): the low half of the source's elements. -/
def execVcvtLo (d a : VReg) (u t : Sz) (s : State) : Out :=
  vconvert (.vcvtLo d a u t) d u t s fun n s => (s.vec n a).take (512 / n / 2)

/-- VCVT_HI (R170): the high half. -/
def execVcvtHi (d a : VReg) (u t : Sz) (s : State) : Out :=
  vconvert (.vcvtHi d a u t) d u t s fun n s => (s.vec n a).drop (512 / n / 2)

/-- VCVT_NARROW (R170): the elements of va, then those of vb. -/
def execVcvtNarrow (d a b : VReg) (u t : Sz) (s : State) : Out :=
  vconvert (.vcvtNarrow d a b u t) d u t s fun n s => s.vec n a ++ s.vec n b

/-! ### VFN (R171) -/

/-- A function of one element, rounded once. -/
def laneFn (g : Val → Exact) : LaneOp := fun f rm x _ a => a.round rm fun m => f.round false m (g (f.val x))

/-- VRCP (R171). -/
def execVrcp (d a : VReg) (m : MReg) (z : Sz) (s : State) : Out :=
  vlanes (.vrcp d a m z) d a a m z s (laneFn Val.rcp)

/-- VRSQ (R171). -/
def execVrsq (d a : VReg) (m : MReg) (z : Sz) (s : State) : Out :=
  vlanes (.vrsq d a m z) d a a m z s (laneFn Val.rsqrt)

/-- VEXP2 (R171). -/
def execVexp2 (d a : VReg) (m : MReg) (z : Sz) (s : State) : Out :=
  vlanes (.vexp2 d a m z) d a a m z s (laneFn Val.exp2)

/-- VLOG2 (R171). -/
def execVlog2 (d a : VReg) (m : MReg) (z : Sz) (s : State) : Out :=
  vlanes (.vlog2 d a m z) d a a m z s (laneFn Val.log2)

end Sys2Proof.Machine
end
end

