-- ==== Sys2Proof/Machine/Tiles.lean ====
section
/-!
DEFINITION. Tile slots (R53, R54, R183 to R193), the VT-form accesses (R176), and the issue of REEL commands (R196,
R202 to R210).
-/
noncomputable section
namespace Sys2Proof.Machine

/-! ### Slots (R53, R112) -/

/-- The fields of a shape word. -/
def shapeRows (b : Word) : Nat := (b.extractLsb' 0 16).toNat
def shapeCols (b : Word) : Nat := (b.extractLsb' 16 16).toNat
def shapeCode (b : Word) : BitVec 4 := b.extractLsb' 32 4
def shapePitch (b : Word) : Nat := (b.extractLsb' 36 16).toNat

/-- The bits of an element of a format code; 0 for code 15. -/
def codeBits (c : BitVec 4) : Nat := ((Fmt.ofCode c).map Fmt.bits).getD 0

/-- The bytes of a row (R112). -/
def rowBytes (b : Word) : Nat := (shapeCols b * codeBits (shapeCode b) + 7) / 8

def State.slot (s : State) (core : Nat) (t : Slot) : TileSlot := find (s.core core).slots t.toNat .empty

/-- The entry of a slot is set; a change of state wakes the sleepers of the tag's domain (R149). -/
def State.setSlot (s : State) (core : Nat) (t : Slot) (x : TileSlot) : State :=
  let old := s.slot core t
  let s1 := s.onCore core fun c => { c with slots := put c.slots t.toNat x }
  if old.st == x.st then s1
  else s1.wakeCore core fun _ c =>
    c.live && ((x.st != .empty && c.c.dom == x.dom) || (old.st != .empty && c.c.dom == old.dom))

/-- Whether an engine or a loft is using the slot (R184). -/
def SlotState.busy : SlotState → Bool
  | .filling | .draining => true
  | _ => false

/-- Whether a slot belongs to another domain (R54, R183). -/
def TileSlot.foreign (x : TileSlot) (d : Dom) : Bool :=
  match x.st with
  | .empty => false
  | _ => x.dom != d

/-! ### Serials (R204) -/

/-- Command serials that have completed, in any order: the last completed one advances past each in kick order. -/
def advance (done : BitVec 16) (l : List (BitVec 16)) : Nat → BitVec 16 × List (BitVec 16)
  | 0 => (done, l)
  | n + 1 => if l.any (· == done + 1) then advance (done + 1) (l.filter (· != done + 1)) n else (done, l)

/-- A command counts as completed. -/
def Eng.completed (e : Eng) (serial : BitVec 16) : Eng :=
  let l := serial :: e.skipped
  let (d, r) := advance e.doneSerial l l.length
  { e with doneSerial := d, skipped := r }

/-- The commands that satisfy p leave an engine context without being performed (R200, R201): the serial advances past each
that has not released its own, in kick order, and a parked head that leaves is parked no more (R204). -/
def Eng.without (e : Eng) (p : EngCmd → Bool) : Eng :=
  let f := (e.queue.filter fun c => p c && !c.released).foldl (fun e c => e.completed c.serial) e
  { f with queue := e.queue.filter (fun c => !p c), parked := e.parked && !e.queue.head?.any p }

/-- The commands of an engine context change. -/
def Eng.map (e : Eng) (f : EngCmd → EngCmd) : Eng := { e with queue := e.queue.map f }

/-- Whether a loft command has the slot as destination, and whether it names the slot at all. -/
def LoftCmd.drains (c : LoftCmd) (t : Slot) : Bool :=
  match c.op with
  | .ldrn _ => c.slot == t
  | _ => false
def LoftCmd.reads (c : LoftCmd) (t : Slot) : Bool :=
  match c.op with
  | .lbld _ | .lmm _ _ _ => c.slot == t
  | _ => false

/-- Whether a loft command of the core that is not complete still needs the slot as it is (R233). An older vector-stream
instruction of the task that names the slot and has not issued holds the instruction back before (R47, `Ctx.heldBack`). -/
def State.slotHeld (s : State) (t : Slot) : Bool := (s.core s.myCore).loftq.any fun c => c.reads t || c.drains t

/-! ### The TILE group (R187 to R193) -/

/-- Whether a granule may hold a slot's bytes (R188). -/
def State.granuleFree (s : State) (core g : Nat) : Bool :=
  let t := s.granule core g
  t.valid && t.dom == s.me.c.dom && g < 56

/-- The check of a new binding, and its base offset (R188). -/
def State.bindCheck (s : State) (a b : Word) : Except (Cause × Word) Nat :=
  if a.toNat < 0x00FFFFFFFFFC0000 || 2 ^ 56 ≤ a.toNat || a.toNat % 64 != 0 then .error (.tile, 0)
  else
    let off := a.toNat - 0x00FFFFFFFFFC0000
    let rows := shapeRows b
    let pitch := shapePitch b
    if b.extractLsb' 52 12 != 0 || shapeCode b == 15 || rows == 0 || shapeCols b == 0 then .error (.tile, 0)
    else if pitch * 64 < rowBytes b || 2 ^ 18 < off + rows * pitch * 64 then .error (.tile, 0)
    else
      let last := (off + rows * pitch * 64 - 1) / 4096
      match (List.range (last - off / 4096 + 1)).find? fun i => !s.granuleFree s.myCore (off / 4096 + i) with
      | none => .ok off
      | some i => .error (.pot, if i == 0 then a else localWindow ((off / 4096 + i) * 4096))

/-- TSET (R188). -/
def execTset (t : Slot) (a b : Opnd) (s : State) : Out :=
  issue (.tset t a b) s fun s =>
    let x := s.slot s.myCore t
    if s.slotHeld t || x.st.busy then .wait .slot s
    else match s.me.r.val2 a b with
      | none => .wait .queue s
      | some (base, shape) =>
        if x.foreign s.me.c.dom then .trap .tile 0 s
        else match s.bindCheck base shape with
          | .error (c, g) => .trap c g s
          | .ok off =>
            .done ((s.pop2 a b).setSlot s.myCore t
              { shape := shape, st := .ready, dom := s.me.c.dom, base := BitVec.ofNat 18 off, launch := s.me.t.launch })

/-- The state word of a slot (R53). -/
def TileSlot.word (x : TileSlot) : Word :=
  let st : Nat := match x.st with
    | .empty => 0
    | .filling => 1
    | .ready => 2
    | .draining => 3
  BitVec.ofNat 64 (st * 2 ^ 62 + x.dom.toNat * 2 ^ 32 + x.base.toNat)

/-- TSTATE (R189). -/
def execTstate (d : Opnd) (t : Slot) (k : Bool) (s : State) : Out :=
  issue (.tstate d t k) s fun s =>
    let x := s.slot s.myCore t
    if x.foreign s.me.c.dom then .trap .tile 0 s
    else if s.me.room d then .done (s.result d (if k then x.word else x.shape))
    else .wait .queue s

/-- Whether an engine command has the slot of a core in use. -/
def EngCmd.uses (c : EngCmd) (t : Slot) : Bool :=
  match c.op with
  | .rget | .rput | .rgath | .rscat => c.slot == t
  | _ => false

/-- The rows that a loft command declares at its entry (R228). -/
def LoftCmd.declares (c : LoftCmd) (row : Nat) : Option RowType :=
  match c.op with
  | .lmm r _ _ => if r ≤ row && row < r + c.rows then c.types.head? else none
  | .lzero r m => if r ≤ row && row < r + m then some .zero else none
  | _ => none

/-- The declaration of a row: that of the last command of the queue that names it, else what the last completed command
left (R228, R236). -/
def Row.declared (row : Nat) (x : Row) : List LoftCmd → Row
  | [] => { x with ty := x.doneTy, tag := x.doneTag }
  | c :: l =>
    match c.declares row with
    | some t => { x with ty := t, tag := some c.dom }
    | none => Row.declared row x l

/-- Every row of a core takes its declaration anew. -/
def State.redeclare (s : State) (core : Nat) : State :=
  s.onCore core fun k =>
    { k with rows := (List.range 16).foldl (fun l i =>
        let x := find l i .zero
        let y := Row.declared i x k.loftq.reverse
        if y == x then l else put l i y) k.rows }

/-- The slot of a core comes to rest as a command on it completes; from EMPTY there is no such event (R184). -/
def State.restSlot (s : State) (core : Nat) (t : Slot) : State :=
  let x := s.slot core t
  if x.st.busy then s.setSlot core t { x with st := .ready } else s

/-- The head LMM of a loft queue, once every command ahead of it has started (R232). -/
def headLmm : List LoftCmd → Option LoftCmd
  | [] => none
  | c :: l =>
    match c.op with
    | .lmm _ _ _ => some c
    | _ => if c.started then headLmm l else none

/-- The queue with its head LMM changed. -/
def onHeadLmm (f : LoftCmd → LoftCmd) : List LoftCmd → List LoftCmd
  | [] => []
  | c :: l =>
    match c.op with
    | .lmm _ _ _ => f c :: l
    | _ => if c.started then c :: onHeadLmm f l else c :: l

/-- A core's loft queue changes; a new head LMM's wait begins (R232). -/
def State.setLoftq (s : State) (core : Nat) (q : List LoftCmd) : State :=
  s.onCore core fun k => { k with loftq := onHeadLmm (fun c => if c.since.isNone then { c with since := some s.cycle } else c) q }

/-- Commands are removed from a core's loft queue; a removed command's rows revert (R192, R236). If the array was
serving one of them it serves none. -/
def State.removeLoft (s : State) (core : Nat) (p : LoftCmd → Bool) : State :=
  let q := (s.core core).loftq
  let l := s.loft (octetOf core)
  let gone := l.run == some (core % 8) && (headLmm q).any p
  let s := if gone then s.setLoft (octetOf core) { l with run := none, passEnd := none } else s
  (s.setLoftq core (q.filter fun c => !p c)).redeclare core

/-- TDRAIN (R192): a command that has not begun is removed, one that has is waited for. -/
def execTdrain (d : Opnd) (t : Slot) (s : State) : Out :=
  issue (.tdrain d t) s fun s =>
    let core := s.myCore
    let x := s.slot core t
    if (s.core core).loftq.any (·.reads t) then .wait .slot s
    else if !s.me.room d then .wait .queue s
    else if x.st.busy then
      if x.foreign s.me.c.dom then .trap .tile 0 s
      else match (s.core core).eng.queue.find? (·.uses t) with
        | some c =>
          if c.started then .wait .slot s
          else
            let s1 := s.onCore core fun k =>
              let e := { k.eng with
                queue := k.eng.queue.filter (·.serial != c.serial),
                parked := k.eng.parked && !k.eng.queue.head?.any (fun (d : EngCmd) => d.serial == c.serial) }
              { k with eng := e.completed c.serial }
            .done ((s1.setSlot core t { x with st := .ready }).result d 1)
        | none =>
          match (s.core core).loftq.find? (·.drains t) with
          | some c =>
            if c.started then .wait .slot s
            else
              let s1 := s.removeLoft core (·.id == c.id)
              .done ((s1.setSlot core t { x with st := .ready }).result d 1)
          | none => .wait .slot s
    else if x.foreign s.me.c.dom then .trap .tile 0 s
    else .done (s.result d 0)

/-- TFREE (R191). -/
def execTfree (t : Slot) (s : State) : Out :=
  issue (.tfree t) s fun s =>
    let x := s.slot s.myCore t
    if s.slotHeld t || x.st.busy then .wait .slot s
    else if x.foreign s.me.c.dom then .trap .tile 0 s
    else .done (s.setSlot s.myCore t .empty)

/-- TWAIT (R190). -/
def execTwait (t : Slot) (s : State) : Out :=
  issue (.twait t) s fun s =>
    let x := s.slot s.myCore t
    if x.st.busy then .wait .slot s
    else if x.foreign s.me.c.dom then .trap .tile 0 s
    else .done s

/-! ### VLDT and VSTT (R20, R176) -/

/-- The row that a rowspec selects (R20). -/
def State.rowOf (s : State) (r : BitVec 6) : Nat :=
  if r.getLsbD 5 then (s.w (r.extractLsb' 0 5)).toNat else (r.extractLsb' 0 5).toNat

/-- The local-window address of a block of a slot, or why there is none (R176). -/
def State.blockOf (s : State) (t : Slot) (r c : BitVec 6) : Except (Option Wait) Word :=
  let x := s.slot s.myCore t
  if x.st.busy then .error (some .slot)
  else
    let row := s.rowOf r
    if x.st == .empty || x.foreign s.me.c.dom then .error none
    else if shapeRows x.shape ≤ row || rowBytes x.shape ≤ c.toNat * 64 then .error none
    else .ok (localWindow (x.base.toNat + row * shapePitch x.shape * 64 + c.toNat * 64))

/-- VLDT (R176). -/
def execVldt (d : VReg) (t : Slot) (r c : BitVec 6) (s : State) : Out :=
  issue (.vldt d t r c) s fun s =>
    match s.blockOf t r c with
    | .error (some w) => .wait w s
    | .error none => .trap .tile 0 s
    | .ok a =>
      (s.load a 64).then fun b u =>
        .done ((u.onRegs (·.setV d (BitVec.ofNat 512 (leNat b)))).vectored [])

/-- VSTT (R176). -/
def execVstt (d : VReg) (t : Slot) (r c : BitVec 6) (s : State) : Out :=
  issue (.vstt d t r c) s fun s =>
    if (s.core s.myCore).loftq.any (·.reads t) then .wait .slot s
    else match s.blockOf t r c with
    | .error (some w) => .wait w s
    | .error none => .trap .tile 0 s
    | .ok a =>
      (s.store a (natLe 64 (s.me.r.getV d).toNat)).then fun _ u => .done (u.vectored [])

/-! ### REEL commands (R196, R202 to R210) -/

/-- The engine context of the issuing core has room (R196). DESIGN CHOICE (log 56): the running command keeps its entry until it
is complete. -/
def State.engRoom (s : State) : Bool := (s.core s.myCore).eng.queue.length < 8

/-- A command is kicked: it takes the next serial and enters the queue (R196, R204). -/
def State.kick (s : State) (op : EngOp) (t : Slot) (a b : Word) : State :=
  let c := s.me.c
  s.onCore s.myCore fun k =>
    let n := k.eng.lastSerial + 1
    let cmd : EngCmd := { op := op, slot := t, a := a, b := b, dom := c.dom, asid := c.asid, ttb := c.ttb, s := c.s,
                          launch := s.me.t.launch, ctx := s.cur, task := c.serial, depth := c.gd, serial := n,
                          started := false, released := false, pos := 0, desc := [], row := none, held := [],
                          rowHeld := [] }
    { k with eng := { k.eng with queue := k.eng.queue ++ [cmd], lastSerial := n } }

/-- A slot command: the checks of R193 and R184, the replay queue (R308), the queue (R196). -/
def slotCommand (i : Instr) (op : EngOp) (fill : Bool) (t : Slot) (a b : Opnd) (s : State)
    (conv : Word → Word) : Out :=
  issue i s fun s =>
    let core := s.myCore
    let x := s.slot core t
    if s.slotHeld t || x.st.busy then .wait .slot s
    else match s.me.r.val2 a b with
      | none => .wait .queue s
      | some (p, q) =>
        if x.st == .empty || x.foreign s.me.c.dom then .trap .tile 0 s
        else if s.hasParked then .wait .replay s
        else if !s.engRoom then .wait .engine s
        else
          let u := (s.pop2 a b).kick op t (toCoreWindow core p) (conv q)
          .done (u.setSlot core t { x with st := if fill then .filling else .draining })

/-- RGET (R205). -/
def execRget (t : Slot) (a b : Opnd) (s : State) : Out := slotCommand (.rget t a b) .rget true t a b s id

/-- RPUT (R205). -/
def execRput (t : Slot) (a b : Opnd) (s : State) : Out := slotCommand (.rput t a b) .rput false t a b s id

/-- RGATH (R206). -/
def execRgath (t : Slot) (a b : Opnd) (s : State) : Out :=
  slotCommand (.rgath t a b) .rgath true t a b s (toCoreWindow s.myCore)

/-- RSCAT (R206). -/
def execRscat (t : Slot) (a b : Opnd) (s : State) : Out :=
  slotCommand (.rscat t a b) .rscat false t a b s (toCoreWindow s.myCore)

/-- A descriptor command: d gets its serial (R202, R203). -/
def descCommand (i : Instr) (op : EngOp) (d a : Opnd) (s : State) : Out :=
  issue i s fun s =>
    match s.me.r.val a with
    | none => .wait .queue s
    | some p =>
      if !s.me.room d then .wait .queue s
      else if s.hasParked then .wait .replay s
      else if !s.engRoom then .wait .engine s
      else
        let n := (s.core s.myCore).eng.lastSerial + 1
        .done (((s.pop a).kick op 0 (toCoreWindow s.myCore p) 0).result d (n.setWidth 64))

/-- RCOPY (R207). -/
def execRcopy (d a : Opnd) (s : State) : Out := descCommand (.rcopy d a) .rcopy d a s

/-- RRED (R208). -/
def execRred (d a : Opnd) (s : State) : Out := descCommand (.rred d a) .rred d a s

/-- RMCAST (R209). -/
def execRmcast (d a : Opnd) (s : State) : Out := descCommand (.rmcast d a) .rmcast d a s

/-- Whether a die's time lies in the slice of a partition (R485). -/
def State.inSlice (s : State) (part die : Nat) : Bool :=
  let p := s.part part
  let t := (s.die die).time / 1000 % max p.period 1
  p.offset ≤ t && t < p.offset + p.slice

/-- Whether a context of an engine may move a beat (R199, R201, R466): its flight runs, or has been asked to stop within
its partition's slice. -/
def State.engOn (s : State) (core : Nat) : Bool :=
  let f := s.flight (flightOf core)
  s.coreEnabled core &&
    (f.st == .running || (f.st == .stopping && s.inSlice (f.part.getD 0) (core / 2048)))

/-- The status word of an engine context (R204), given whether its flight holds it (R199). DESIGN CHOICE (log 56): the running
command counts among the commands queued until it is complete. -/
def Eng.word (e : Eng) (held : Bool) : Word :=
  e.doneSerial ++ e.lastSerial ++ BitVec.ofNat 4 e.queue.length ++
    BitVec.ofBool (e.parked || (held && !e.queue.isEmpty)) ++
    BitVec.ofBool (e.queue.head?.any (·.started)) ++ (0 : BitVec 2) ++ BitVec.ofNat 8 e.weight ++ e.error ++ (0 : BitVec 8)

/-- RSTAT (R204). -/
def execRstat (d : Opnd) (s : State) : Out :=
  alu0 (.rstat d) d s fun t => (t.core t.myCore).eng.word (!t.engOn t.myCore)

/-- RCTX (R210). -/
def execRctx (d a b : Opnd) (s : State) : Out :=
  issue (.rctx d a b) s fun s =>
    match s.me.r.val2 a b with
    | none => .wait .queue s
    | some (c, v) =>
      if !s.me.room d then .wait .queue s
      else
        let core := 32 * flightOf s.myCore + c.toNat
        if 31 < c.toNat || !s.coreEnabled core || v == 0 || 255 < v.toNat then .done ((s.pop2 a b).result d 1)
        else .done (((s.pop2 a b).onCore core fun k => { k with eng := { k.eng with weight := v.toNat } }).result d 0)

end Sys2Proof.Machine
end
end

