-- ==== Sys2Proof/Machine/Engines.lean ====
section
/-!
DEFINITION. The reel engines' steps (R194 to R209): a beat, the completion of a command, and its failure.
-/
noncomputable section
namespace Sys2Proof.Machine

/-! ### An engine's accesses (R195, R200) -/

/-- How a beat fails: the error code of R204 and the cause raised. -/
structure EngFail where
  error : BitVec 8
  cause : Cause
  addr : Word
  deriving DecidableEq, Repr

/-- What a beat, or a part of it, comes to. A beat that stalls or fails does nothing but append a record (R199, R200). -/
inductive Beat (α : Type) where
  | ok (a : α) (s : State)
  | stall (log : State → State)
  /-- the link has no room for its request (R493) -/
  | hold
  | fail (f : EngFail) (log : State → State)

def Beat.then {α β : Type} (b : Beat α) (k : α → State → Beat β) : Beat β :=
  match b with
  | .ok a s => k a s
  | .stall l => .stall l
  | .hold => .hold
  | .fail f l => .fail f l

/-- The engine as an agent: the space and domain captured at issue, the flight's second-level TLB (R195). -/
def State.engWho (s : State) (core : Nat) (c : EngCmd) : Who :=
  { asid := c.asid, ttb := c.ttb, dom := c.dom, s := c.s, part := s.flightPart (flightOf core), core := core,
    flight := flightOf core, l1 := none, held := c.holding }

/-- The error of a refused check. -/
def engError (c : Cause) (a : Word) : EngFail :=
  { error := if c == .pot then (if inWindows a.toNat then 3 else 2) else 1, cause := .engine, addr := a }

/-- The egress of a beat that began in s0, by whose levels its transfers are judged (R379): stall, or fault with error 6, or
charge (R199, R200). -/
def State.engEgress {α : Type} (s s0 : State) (core : Nat) (a : Word) (l : List (Dom × Nat × Nat)) (k : State → Beat α) :
    Beat α :=
  match s0.egFirst l with
  | some (d, c, hard) =>
    if s.logFull (core / 2048) || (!hard && (s.core core).eng.parked) then .stall id
    else
      let log := fun (t : State) =>
        t.logAt (core / 2048) core false (if hard then 6 else 5) d 0 (BitVec.ofNat 64 c) a (t.egLevel d c)
      if hard then .fail { error := 6, cause := .engine, addr := a } log else .stall log
  | none => k (s.chargeAll l)

/-- The error of a bad line (R200, R204). DESIGN CHOICE (log 57): a line of a chip that cannot be reached counts as an
uncorrectable error with the cause LINK (R495), and the faulting address of MAC_FAIL and ECC_UE is the local physical one. -/
def badLine (c : Cause) (k : Nat) : EngFail :=
  { error := if c == .macFail then 5 else 7, cause := c, addr := BitVec.ofNat 64 (k % 2 ^ 46) }

/-- A beat meets a bad line; while the log ring is full it waits (R382). -/
def State.engBad {α : Type} (s : State) (core : Nat) (d : Dom) (e : Cause) (k : Nat) (o : Dom) : Beat α :=
  if e == .macFail && s.logFull (core / 2048) then .stall id
  else .fail (badLine e k) fun t => t.logMacAt (core / 2048) core false d e k o

/-- An access whose check fails, or whose walk meets a bad line (R371, R447). -/
def State.engRefused {α : Type} (s : State) (core : Nat) (c : EngCmd) (w : Who) (e : Cause) (x : Word) : Beat α :=
  match if e.precise then none else s.walkBad w x.toNat with
  | some (b, k, o) => s.engBad core c.dom b k o
  | none => .fail (engError e x) id

/-- The request of an engine's access leaves over the link, if it has to (R492). -/
def State.engLink {α : Type} (s : State) (c : EngCmd) (l : List Where) (vc : BitVec 2) (k : State → Beat α) : Beat α :=
  match s.linkOut l vc c.launch with
  | some t => k t
  | none => .hold

/-- A load by an engine, in a beat that began in s0; the read of an atomic update goes over the link with the write (R208), and is
refused in host memory (R479; log 58). -/
def State.engLoad (s s0 : State) (core : Nat) (c : EngCmd) (a : Word) (n : Nat) (atomic : Bool := false) : Beat (List Byte) :=
  let w := s.engWho core c
  match s.check w .load a n with
  | .error (e, x) => s.engRefused core c w e x
  | .ok l =>
    if atomic && l.any fun p => isHost p.key then .fail (engError .pot a) id else
    match s.linesBad l with
    | some (e, k, o) => s.engBad core c.dom e k o
    | none =>
      s.engEgress s0 core a (s.egressOf c.dom false l) fun s1 => s1.engLink c (if atomic then [] else l) 0 fun s1 =>
        .ok (s1.peeks l) (s1.keepTlbs w .load a n)

/-- Elements of n bytes have been updated, each keeping the releases that its own update has read (R208, R306). -/
def State.chainEach (s : State) (before : List (Nat × List Rel)) (l : List Where) (n : Nat) : State :=
  (List.range (l.length / n)).foldl (fun t i => t.chain before ((l.drop (n * i)).take n) none) s

/-- A store by an engine, in a beat that began in s0; it never parks. `elem` is the size of the elements of an atomic update,
0 for a plain store (R208). -/
def State.engStore (s s0 : State) (core : Nat) (c : EngCmd) (a : Word) (b : List Byte) (elem : Nat := 0) : Beat Unit :=
  let w := s.engWho core c
  match s.check w .store a b.length with
  | .error (e, x) => s.engRefused core c w e x
  | .ok l =>
    let whole := b.length == 64 && a.toNat % 64 == 0
    match if whole && !l.any s.unreached then none else s.linesBad l with
    | some (e, k, o) => s.engBad core c.dom e k o
    | none =>
      s.engEgress s0 core a (s.egressOf c.dom true l) fun s1 => s1.engLink c l (if elem == 0 then 0 else 2) fun s1 =>
        let s2 := if whole then l.foldl State.sealLine s1 else s1
        let s3 := s2.pokes l b
        .ok () ((s3.chainEach s.rels l elem).keepTlbs w .store a b.length)

/-! ### The descriptor (R202) -/

def EngCmd.word (c : EngCmd) (i : Nat) : Word := c.desc.getD i 0
def EngCmd.len (c : EngCmd) : Nat := ((c.word 2).extractLsb' 0 32).toNat
def EngCmd.replicas (c : EngCmd) : Nat := ((c.word 2).extractLsb' 36 2).toNat + 1
def EngCmd.elem (c : EngCmd) : BitVec 4 := (c.word 2).extractLsb' 32 4
def EngCmd.scope (c : EngCmd) : BitVec 3 := (c.word 2).extractLsb' 40 3

/-- Whether a descriptor holds a reserved or out-of-range value (R200, R202, R208). -/
def EngCmd.badDesc (c : EngCmd) : Bool :=
  let w := c.word 2
  w.extractLsb' 43 21 != 0 || 4 < c.scope.toNat || w.extractLsb' 38 2 != 0 ||
    (c.op != .rmcast && w.extractLsb' 36 2 != 0) ||
    (if c.op == .rred then !(c.elem == 0 || c.elem == 1 || c.elem == 2 || c.elem == 12) else c.elem != 0) ||
    (c.word 3).toNat % 8 != 0 ||
    (c.op == .rred &&
      (let n := codeBits c.elem / 8
       c.len % n != 0 || (c.word 1).toNat % n != 0 || (c.word 0).toNat % n != 0))

/-- Whether a command takes a descriptor. -/
def EngOp.described : EngOp → Bool
  | .rcopy | .rred | .rmcast => true
  | _ => false

/-- The eight words of 64 bytes, with window addresses converted (R202). -/
def descWords (core : Nat) (b : List Byte) : List Word :=
  (List.range 8).map fun i =>
    let x := BitVec.ofNat 64 (leNat ((b.drop (8 * i)).take 8))
    if i == 2 || i == 4 then x else toCoreWindow core x

/-! ### A beat (R198, R205 to R209) -/

/-- Beats of a row of a slot. -/
def beatsPerRow (shape : Word) : Nat := (rowBytes shape + 63) / 64

/-- The beats of a command whose routine has begun. DESIGN CHOICE (log 56): they are those of the slot as it stands, so a command
whose slot was freed by the end of the launch that bound it completes with no further beat, or goes on with the shape that the
slot is bound to now (R184). -/
def EngCmd.beats (c : EngCmd) (x : TileSlot) : Nat :=
  if c.op.described then (c.len + 63) / 64 else shapeRows x.shape * beatsPerRow x.shape

/-- The memory address of row i (R205, R206). -/
def State.engRow (s s0 : State) (core : Nat) (c : EngCmd) (x : TileSlot) (i : Nat) : Beat Word :=
  match c.op with
  | .rgath | .rscat =>
    (s.engLoad s0 core c (c.b + BitVec.ofNat 64 (8 * i)) 8).then fun b t => .ok (c.a + BitVec.ofNat 64 (leNat b)) t
  | _ =>
    let st := if c.b == 0 then BitVec.ofNat 64 (rowBytes x.shape) else c.b
    .ok (c.a + BitVec.ofNat 64 i * st) s

/-- A command of the served core is replaced in the queue. -/
def State.setCmd (s : State) (core : Nat) (c : EngCmd) : State :=
  s.onCore core fun k => { k with eng := { k.eng with parked := false, queue := c :: k.eng.queue.tail } }

/-- The translations that an engine holds for n bytes at an address from now on (R442). -/
def State.holds (s : State) (w : Who) (kind : Kind) (a : Word) (n : Nat) : List TlbEntry :=
  let u := a.toNat / 2 ^ 19
  ((List.range ((a.toNat + n - 1) / 2 ^ 19 - u + 1)).map fun i => 2 ^ 19 * (u + i)).filterMap fun va =>
    if n == 0 || inWindows va then none
    else match s.tlbFind w va with
      | some t =>
        if (t.unit? va).isSome then some t
        else (s.checkUnit w kind t va).toOption.map fun u => { t with units := u :: t.units }
      | none => (s.fill w kind va).toOption.map (·.1)

/-- The accesses whose addresses are fixed as a routine begins (R442): the rows of RGET and RPUT, the table of RGATH and
RSCAT, the operands of a descriptor and its mailbox. -/
def State.fixed (s : State) (core : Nat) (c : EngCmd) : List TlbEntry :=
  let w := s.engWho core c
  let x := s.slot core c.slot
  let rows := List.range (shapeRows x.shape)
  (match c.op with
   | .rget | .rput =>
     let st := if c.b == 0 then BitVec.ofNat 64 (rowBytes x.shape) else c.b
     rows.flatMap fun i =>
       s.holds w (if c.op == EngOp.rget then .load else .store) (c.a + BitVec.ofNat 64 i * st) (rowBytes x.shape)
   | .rgath | .rscat => s.holds w .load c.b (8 * shapeRows x.shape)
   | _ =>
     s.holds w .load (c.word 1) c.len ++ (if c.word 3 == 0 then [] else s.holds w .store (c.word 3) 8) ++
       ((c.word 0) :: ((List.range (c.replicas - 1)).map fun i => c.word (5 + i))).flatMap fun a =>
         s.holds w .store a c.len).eraseDups

/-- One beat of a slot command: the command after it. The address of a row of RGATH or RSCAT is fixed, and translates afresh,
when its table entry is read (R442). -/
def State.slotBeat (s : State) (core : Nat) (c : EngCmd) : Beat EngCmd :=
  let x := s.slot core c.slot
  let n := beatsPerRow x.shape
  let i := c.pos / n
  let k := c.pos % n
  let len := min 64 (rowBytes x.shape - 64 * k)
  let spad := coreWindow core (x.base.toNat + i * shapePitch x.shape * 64 + 64 * k)
  let fill : Bool := match c.op with
    | .rget | .rgath => true
    | _ => false
  (match c.row, k with
   | some r, _ + 1 => Beat.ok r s
   | _, _ => s.engRow s core { c with rowHeld := [] } x i).then fun r t =>
    let mem := r + BitVec.ofNat 64 (64 * k)
    let c := if (c.op == EngOp.rgath || c.op == EngOp.rscat) && k == 0 then
        let w := { t.engWho core c with held := [] }
        { c with rowHeld := t.holds w (if fill then .load else .store) r (rowBytes x.shape) }
      else c
    -- a row whose address a table gives has its own translations alone
    let a := if c.op == EngOp.rgath || c.op == EngOp.rscat then { c with held := [] } else c
    (t.engLoad s core a (if fill then mem else spad) len).then fun b u =>
      (u.engStore s core a (if fill then spad else mem) b).then fun _ v =>
        .ok { c with pos := c.pos + 1, row := some r } v

/-- The sum of two elements of RRED (R208). -/
def redSum (code : BitVec 4) (x y : Nat) : Nat :=
  match Fmt.ofCode code with
  | none => 0
  | some f =>
    if f.isFloat then (f.round false .rne ((f.val x).add (f.val y) .rne)).1 else (x + y) % 2 ^ f.bits

/-- Bytes in elements of n bytes, added element by element. -/
def redBytes (code : BitVec 4) (n : Nat) (x y : List Byte) : Nat → List Byte
  | 0 => []
  | k + 1 =>
    natLe n (redSum code (leNat (x.take n)) (leNat (y.take n))) ++ redBytes code n (x.drop n) (y.drop n) k

/-- Stores a beat to the replicas from i on (R209). A replica that stalls or fails takes back those before it: the beat writes
nothing (R199, R200). -/
def State.castBeat (s s0 : State) (core : Nat) (c : EngCmd) (off : Word) (b : List Byte) (i : Nat) : Nat → Beat Unit
  | 0 => .ok () s
  | n + 1 =>
    (s.engStore s0 core c (c.word (if i == 0 then 0 else 4 + i) + off) b).then fun _ t => t.castBeat s0 core c off b (i + 1) n

/-- One beat of a descriptor command. -/
def State.descBeat (s : State) (core : Nat) (c : EngCmd) : Beat EngCmd :=
  let off := BitVec.ofNat 64 (64 * c.pos)
  let len := min 64 (c.len - 64 * c.pos)
  (s.engLoad s core c (c.word 1 + off) len).then fun b t =>
    (match c.op with
     | .rred =>
       let n := codeBits c.elem / 8
       (t.engLoad s core c (c.word 0 + off) len true).then fun d u =>
         u.engStore s core c (c.word 0 + off) (redBytes c.elem n d b (len / n)) n
     | .rmcast => t.castBeat s core c off b 0 c.replicas
     | _ => t.engStore s core c (c.word 0 + off) b).then fun _ u => .ok { c with pos := c.pos + 1 } u

/-- The begin of a routine: a descriptor is read (R202), a table's alignment checked (R206). DESIGN CHOICE (log 56): a descriptor
address that is not 64-byte aligned fails the command with error 4. -/
def State.begin (s : State) (core : Nat) (c : EngCmd) : Beat EngCmd :=
  let bad : EngFail := { error := 4, cause := .engine, addr := c.a }
  if c.started then .ok c s
  else if c.op.described then
    if c.a.toNat % 64 != 0 then .fail bad id
    else
      (s.engLoad s core c c.a 64).then fun b t =>
        let c := { c with started := true, desc := descWords core b }
        if c.badDesc then .fail bad id else .ok { c with held := t.fixed core c } t
  else if (c.op == .rgath || c.op == .rscat) && c.b.toNat % 8 != 0 then .fail bad id
  else .ok { c with started := true, held := s.fixed core c } s

/-- One beat of a command; a command of no beats only begins. -/
def State.beat (s : State) (core : Nat) (c : EngCmd) : Beat EngCmd :=
  (s.begin core c).then fun c t =>
    if c.beats (t.slot core c.slot) ≤ c.pos then .ok c t
    else if c.op.described then t.descBeat core c
    else t.slotBeat core c

/-! ### Failure (R200) and completion (R197, R204) -/

/-- A fatal cause of a unit's command is raised on the issuing context, if its task still runs; its launch ends FAULT
in any case (R200, R273). -/
def State.blame (s : State) (ctx task launch : Nat) (c : Cause) (tval : Word) : State :=
  let x := s.ctx ctx
  let s := s.endLaunch launch .fault c.code
  if x.live && x.c.serial == task then s.imprecise ctx c tval else s

/-- The head command of an engine context fails: its launch's queued commands are discarded, and the serial advances
past each. DESIGN CHOICE (log 65): tasks of no launch count as those of one launch here, 0. -/
def State.engFail (s : State) (core : Nat) (c : EngCmd) (f : EngFail) : State :=
  let s1 := s.onCore core fun k =>
    { k with eng := { k.eng.without (fun d => d.serial == c.serial || d.launch == c.launch) with error := f.error, errDom := c.dom } }
  s1.blame c.ctx c.task c.launch f.cause f.addr

/-- Whether the head command of a core's engine context still has a beat to move, or has yet to begin. -/
def State.engReady (s : State) (core : Nat) : Bool :=
  s.engOn core && match (s.core core).eng.queue with
    | [] => false
    | c :: _ => !c.started || c.pos < c.beats (s.slot core c.slot)

/-- The head command is parked (R199): its record is made once (R380); while the ring is full none can be made (R382). -/
def State.parkWith (s : State) (core : Nat) (log : State → State) : State :=
  if s.logFull (core / 2048) then s
  else (log s).onCore core fun k => { k with eng := { k.eng with parked := true } }

/-- The head command tries a beat: whether it moved, and the state. -/
def State.tryBeat (s : State) (core : Nat) : Bool × State :=
  match (s.core core).eng.queue with
  | [] => (false, s)
  | c :: _ =>
    match s.beat core c with
    | .ok d t => (true, t.setCmd core d)
    | .stall log => (false, s.parkWith core log)
    | .hold => (false, s)
    | .fail f log => (true, (log s).engFail core c f)

/-- The first context from `turn` on that moves a beat, in the order of turns (R198): that context, and the state. -/
def State.nextTurn (s : State) (base turn : Nat) : Nat → Option Nat × State
  | 0 => (none, s)
  | n + 1 =>
    let core := base + turn % 16
    if s.engReady core then
      match s.tryBeat core with
      | (true, t) => (some (turn % 16), t)
      | (false, t) => t.nextTurn base (turn + 1) n
    else s.nextTurn base (turn + 1) n

/-- The turn of an engine of a flight is set. -/
def State.setTurn (s : State) (flight engine turn left : Nat) : State :=
  s.onFlight flight fun f =>
    if engine == 0 then { f with turn0 := turn, left0 := left } else { f with turn1 := turn, left1 := left }

/-- ENGINE_BEAT (R198): the context whose grant it is moves a beat, or, where that is held (R199) or has none, the next one in
turn does. -/
def execEngineBeat (flight engine : Nat) (s : State) : Out :=
  let f := s.flight flight
  let base := 32 * flight + 16 * (engine % 2)
  let (turn, left) := if engine % 2 == 0 then (f.turn0, f.left0) else (f.turn1, f.left1)
  let after := fun (t : State) (turn left : Nat) =>
    if left == 0 || !t.engReady (base + turn) then t.setTurn flight (engine % 2) ((turn + 1) % 16) 0
    else t.setTurn flight (engine % 2) turn left
  let pass := fun (t : State) (from_ : Nat) => match t.nextTurn base from_ 16 with
    | (some k, u) => Host.Outcome.next (after u k ((u.core (base + k)).eng.weight - 1))
    | (none, u) => .next u
  if 256 ≤ flight then .next s
  else if 0 < left && s.engReady (base + turn) then
    match s.tryBeat (base + turn) with
    | (true, t) => .next (after t turn (left - 1))
    | (false, t) => pass t (turn + 1)
  else pass s (if left == 0 then turn else turn + 1)

/-- Whether the head command of a core's engine context has moved every beat. -/
def State.engDone (s : State) (core : Nat) : Bool :=
  match (s.core core).eng.queue with
  | [] => false
  | c :: _ => c.started && c.beats (s.slot core c.slot) ≤ c.pos

/-- The mailbox release of a descriptor command (R207). -/
def State.mailbox (s : State) (core : Nat) (c : EngCmd) : Beat Unit :=
  if c.op.described && c.word 3 != 0 then
    (s.engStore s core c (c.word 3) (natLe 8 (c.word 4).toNat)).then fun _ t =>
      match t.check (t.engWho core c) .store (c.word 3) 8 with
      | .ok l => .ok () (t.chain [] l (some (unitRel (2 ^ 18 + core) c.scope)))
      | .error _ => .ok () t
  else .ok () s

/-- The head command leaves the queue of its engine context. -/
def State.engPop (s : State) (core : Nat) : State :=
  s.onCore core fun k => { k with eng := { k.eng with queue := k.eng.queue.tail, parked := false } }

/-- The serial of the head command is released (R197, R204). -/
def State.release (s : State) (core : Nat) (c : EngCmd) : State :=
  if c.released then s
  else s.onCore core fun k => { k with eng := ({ k.eng with queue := { c with released := true } :: k.eng.queue.tail }).completed c.serial }

/-- ENGINE_COMMAND_COMPLETION (R197): the serial, then the slot or the mailbox. -/
def execEngineCommandCompletion (core : Nat) (s : State) : Out :=
  if s.engOn core && s.engDone core then
    match (s.core core).eng.queue with
    | [] => .next s
    | c :: _ =>
      let t := s.release core c
      if !c.op.described then .next ((t.engPop core).restSlot core c.slot)
      else match t.mailbox core c with
        | .ok _ u => .next (u.engPop core)
        | .stall log => .next (t.parkWith core log)
        | .hold => .next t
        | .fail f log => .next ((log t).engFail core { c with released := true } f)
  else .next s

end Sys2Proof.Machine
end
end

