-- ==== Sys2Proof/Machine/VectorMemory.lean ====
section
/-!
DEFINITION. Vector loads and stores (R172 to R175), and REP (R177 to R181).
-/
noncomputable section
namespace Sys2Proof.Machine

/-! ### Accesses to a list of elements (R172) -/

/-- An element of an access: its index, its address, and its bytes' offsets from that address. -/
structure Piece where
  index : Nat
  ea : Word
  offs : List Nat
  deriving DecidableEq, Repr

/-- The byte addresses of an element. -/
def Piece.addrs (p : Piece) : List Nat := p.offs.map fun o => (p.ea.toNat + o) % 2 ^ 64

/-- The address of the first element that holds a byte address. -/
def pieceAt (a : Nat) : List Piece → Word
  | [] => BitVec.ofNat 64 a
  | p :: l => if p.addrs.any (· == a) then p.ea else pieceAt a l

/-- The first element whose address is not a multiple of n. -/
def misaligned (n : Nat) : List Piece → Option Word
  | [] => none
  | p :: l => if p.ea.toNat % n == 0 then misaligned n l else some p.ea

/-- The check of every active element (R172): the places of the bytes, or the cause and the element's address. -/
def State.checkPieces (s : State) (kind : Kind) (n : Nat) (l : List Piece) : Except (Cause × Word × Bool) (List Where) :=
  match misaligned n l with
  | some a => .error (.align, a, false)
  | none =>
    let bytes := l.flatMap Piece.addrs
    match s.firstFail s.who kind bytes with
    | some (st, c, a) => .error (c, pieceAt a l, st == 2)
    | none => .ok (s.places s.who kind bytes)

/-- The address of the first byte of an access that stands at a key (R55). -/
def faultAt (l : List Piece) (ps : List Where) (k : Nat) : Word :=
  BitVec.ofNat 64 (((((l.flatMap Piece.addrs).zip ps).find? fun q => q.2.key == k).map (·.1)).getD 0)

/-- Whether any element touches a unit of a parked store of the task (R307). -/
def State.piecesParked (s : State) (l : List Piece) : Bool := l.any fun p => s.unitParked p.ea (p.offs.length)

/-- The translations used are kept. -/
def State.keepPieces (s : State) (kind : Kind) (l : List Piece) : State :=
  l.foldl (fun t p => t.keepTlbs t.who kind p.ea (max p.offs.length 1)) s

/-- Loads the bytes of a list of elements, in order. -/
def State.loadPieces (s : State) (n : Nat) (l : List Piece) : Mem (List Byte) :=
  if s.piecesParked l then .wait .replay s
  else match s.checkPieces .load n l with
    | .error (c, a, _) => s.refused c a
    | .ok ps =>
      let first := (l.head?.map (·.ea)).getD 0
      s.egressGate first (s.egressOf s.me.c.dom false ps) fun s1 => s1.overLink s ps 0 fun s1 =>
        match s1.linesBad ps with
        | some (c, k, o) => s.badMem s1 c k o (faultAt l ps k)
        | none => .ok (s1.peeks ps) (s1.keepPieces .load l)

/-- Stores bytes to a list of elements, in ascending element order; a store that fails its translation parks (R307). -/
def State.storePieces (s : State) (n : Nat) (l : List Piece) (b : List Byte) : Mem Unit :=
  if s.piecesParked l then .wait .replay s
  else match s.checkPieces .store n l with
    | .error (c, a, x) => if x && c == .xltStore then .park a s else s.refused c a
    | .ok ps =>
      let first := (l.head?.map (·.ea)).getD 0
      s.egressGate first (s.egressOf s.me.c.dom true ps) fun s1 => s1.overLink s ps 0 fun s1 =>
        let whole := n == 64 && b.length == 64
        match if whole && !ps.any s1.unreached then none else s1.linesBad ps with
        | some (c, k, o) => s.badMem s1 c k o (faultAt l ps k)
        | none =>
          let s2 := if whole then ps.foldl State.sealLine s1 else s1
          .ok () ((s2.pokes ps b).keepPieces .store l)

/-- The elements of a store, for the replay queue. -/
def partsOf (l : List Piece) (b : List Byte) : List (Word × List (Nat × Byte)) :=
  match l with
  | [] => []
  | p :: r => (p.ea, p.offs.zip b) :: partsOf r (b.drop p.offs.length)

/-- A store of elements as the body of a meaning. -/
def State.storeVec (s : State) (i : Instr) (n : Nat) (l : List Piece) (b : List Byte) (pops : List Opnd) : Res :=
  let fin := fun (t : State) => (t.onRegs fun r => pops.foldl Regs.popped r).vectored pops
  match s.storePieces n l b with
  | .ok _ t => .done (fin t)
  | .park a t =>
    match t.parkStore i a true (partsOf l b) with
    | .done u => .done (fin u)
    | r => r
  | .trap c a t => .trap c a t
  | .fatal c a t => .fatal c a t
  | .wait w t => .wait w t

/-- The bytes of a register. -/
def vecBytes (v : Vec) : List Byte := natLe 64 v.toNat

/-! ### VLD and VST (R173) -/

/-- The effective address of the VM form (R173). -/
def State.eaVM (s : State) (b : Opnd) (o : BitVec 11) : Word := (s.me.r.val b).getD 0 + (o.signExtend 64 <<< 6)

/-- The bytes that a mask field selects. -/
def Regs.byteLanes (r : Regs) (m : MReg) : List Nat := (List.range 64).filter (r.active m 8)

/-- The access of a VLD or VST: none when no byte is active. -/
def State.vmPieces (s : State) (b : Opnd) (o : BitVec 11) (m : MReg) : List Piece :=
  let l := s.me.r.byteLanes m
  if l.isEmpty then [] else [{ index := 0, ea := s.eaVM b o, offs := l }]

/-- A register with bytes at some lanes replaced. -/
def setLanes (old : List Byte) (l : List Nat) (b : List Byte) : List Byte :=
  (l.zip b).foldl (fun v (j, x) => v.set j x) old

/-- VLD (R173). -/
def execVld (d : VReg) (b : Opnd) (o : BitVec 11) (m : MReg) (s : State) : Out :=
  issue (.vld d b o m) s fun s =>
    let l := s.me.r.byteLanes m
    (s.loadPieces 64 (s.vmPieces b o m)).then fun x t =>
      let v := setLanes (vecBytes (t.me.r.getV d)) l x
      .done ((t.onRegs (·.setV d (BitVec.ofNat 512 (leNat v)))).vectored [])

/-- VST (R173). -/
def execVst (d : VReg) (b : Opnd) (o : BitVec 11) (m : MReg) (s : State) : Out :=
  issue (.vst d b o m) s fun s =>
    let v := vecBytes (s.me.r.getV d)
    s.storeVec (.vst d b o m) 64 (s.vmPieces b o m) ((s.me.r.byteLanes m).map fun j => v.getD j 0) []

/-! ### Strided and indexed accesses (R174, R175) -/

/-- The active elements of a width in bytes, at the addresses that f gives. -/
def State.elemPieces (s : State) (m : MReg) (n : Nat) (f : Nat → Word) : List Piece :=
  ((List.range (64 / n)).filter (s.me.r.active m (8 * n))).map fun j => { index := j, ea := f j, offs := List.range n }

/-- The elements of a register after a load: active ones from the bytes, in order. -/
def spread (n : Nat) (old : List Nat) (l : List Piece) (b : List Byte) : List Nat :=
  match l with
  | [] => old
  | p :: r => spread n (old.set p.index (leNat (b.take n))) r (b.drop n)

/-- A load of elements into vd. -/
def loadElems (s : State) (d : VReg) (n : Nat) (l : List Piece) (pops : List Opnd) : Res :=
  (s.loadPieces n l).then fun b t => .done (t.vresult d (8 * n) (spread n (t.vec (8 * n) d) l b) t.acc pops)

/-- The bytes of the elements of a register that a list of pieces names. -/
def State.pieceBytes (s : State) (d : VReg) (n : Nat) (l : List Piece) : List Byte :=
  let xs := s.vec (8 * n) d
  l.flatMap fun p => natLe n (xs.getD p.index 0)

/-- Addresses at a byte stride from a base (R174). -/
def State.stride (s : State) (b : Opnd) (k : Word) (j : Nat) : Word :=
  (s.me.r.val b).getD 0 + BitVec.ofNat 64 j * k

/-- VLDS (R174). -/
def execVlds (d : VReg) (b k : Opnd) (z : Sz) (m : MReg) (s : State) : Out :=
  issue (.vlds d b k z m) s fun s =>
    match s.me.r.val k with
    | none => .wait .queue s
    | some x =>
      let n := (Fmt.ofSz z).bits / 8
      loadElems s d n (s.elemPieces m n (s.stride b x)) [k]

/-- VSTS (R174). -/
def execVsts (d : VReg) (b k : Opnd) (z : Sz) (m : MReg) (s : State) : Out :=
  issue (.vsts d b k z m) s fun s =>
    match s.me.r.val k with
    | none => .wait .queue s
    | some x =>
      let n := (Fmt.ofSz z).bits / 8
      let l := s.elemPieces m n (s.stride b x)
      s.storeVec (.vsts d b k z m) n l (s.pieceBytes d n l) [k]

/-- Addresses at sign-extended indices from a base (R175). -/
def State.indexed (s : State) (b : Opnd) (x : VReg) (n j : Nat) : Word :=
  (s.me.r.val b).getD 0 + (BitVec.ofNat (8 * n) ((s.vec (8 * n) x).getD j 0)).signExtend 64

/-- VGATH (R175). -/
def execVgath (d : VReg) (b : Opnd) (x : VReg) (z : Sz) (m : MReg) (s : State) : Out :=
  issue (.vgath d b x z m) s fun s =>
    let n := (Fmt.ofSz z).bits / 8
    loadElems s d n (s.elemPieces m n (s.indexed b x n)) []

/-- VSCAT (R175). -/
def execVscat (d : VReg) (b : Opnd) (x : VReg) (z : Sz) (m : MReg) (s : State) : Out :=
  issue (.vscat d b x z m) s fun s =>
    let n := (Fmt.ofSz z).bits / 8
    let l := s.elemPieces m n (s.indexed b x n)
    s.storeVec (.vscat d b x z m) n l (s.pieceBytes d n l) []

/-! ### REP (R177 to R181) -/

/-- REP (R177 to R180): the body is fetched before pass 0, and its causes come in the order of R178; a count above 4096 is
ENC. A body halfword whose fetch any check refuses, ownership among them, is XLT_FETCH, as R178 says. It counts once itself.
What issues after REP depends on its count (R180). It takes it past the instructions that its stream has not executed; where the
entry is not there, only a younger instruction could bring it, and both streams stand (R47; log 55). -/
def execRep (n : BitVec 4) (c : Opnd) (k : BitVec 5) (f : BitVec 5) (s : State) : Out :=
  issue (.rep n c k f) s fun s =>
    match s.me.entry c with
    | none => .wait .queue s
    | some count =>
      let len := n.toNat + 1
      let body := s.me.pc + 4
      match s.body body len with
      | .und => .trap .und 0 s
      | .bad (.fatal e a k o) => if e == .macFail && s.myLogFull then .wait .log s else .fatal e a (s.logMac e k o)
      | .bad (.trap _ a) => if 4096 < count.toNat then .trap .enc 0 s else .trap .xltFetch a s
      | .bad (.bits _) => .trap .und 0 s
      | .ok next =>
        if 4096 < count.toNat then .trap .enc 0 s
        else
          let t := (s.onRegs fun _ => s.me.entryTaken c).vectored [c]
          if count == 0 then .goto next t
          else
            let r : Rep := { body := body, n := len, count := count.toNat, stride := k, flags := f, pass := 0, index := 0 }
            let u := t.retire false none 4
            .whole { u with me := { u.me with rep := match u.me.st with | .free => none | _ => some r } }

end Sys2Proof.Machine
end
end

