-- ==== Sys2Proof/Machine/Narrow.lean ====
section
/-!
DEFINITION. The FMT prefix (R71, R238, R239), the scale and codebook registers (R75, R215, R222, R245), and the prefixed
conversions VPACK, VUNPK, VDEQ, VSCALE and VQNT (R223, R246 to R251).
-/
noncomputable section
namespace Sys2Proof.Machine

/-! ### The prefix -/

/-- The fields of an FMT word (R71), with a dynamic rounding mode resolved at the instruction's position (R70). -/
structure Prefix where
  fa : BitVec 4
  fb : BitVec 4
  fc : BitVec 4
  rm : RmCode
  sat : Bool
  sc : BitVec 3
  cb : BitVec 2
  deriving DecidableEq, Repr

/-- The rm field of a prefix (R70). -/
def Csr.prefixMode (c : Csr) (x : BitVec 3) : RmCode := if x == 7 then c.rm else x

/-- The pending prefix of a context. -/
def Ctx.prefix (c : Ctx) : Prefix :=
  let w := c.fmt
  { fa := w.extractLsb' 28 4, fb := w.extractLsb' 24 4, fc := w.extractLsb' 20 4,
    rm := c.c.prefixMode (w.extractLsb' 17 3), sat := w.getLsbD 16, sc := w.extractLsb' 13 3, cb := w.extractLsb' 11 2 }

/-- FMT (R71, R238): its word becomes the pending prefix. -/
def execFmt (a b c : BitVec 4) (r : BitVec 3) (t : Bool) (k : BitVec 3) (n : BitVec 2) (s : State) : Out :=
  issue (.fmt a b c r t k n) s fun s =>
    let u := { s with me := { s.me with fmt := BitVec.ofNat 32 (s.me.bits (.fmt a b c r t k n)) } }
    .whole (((u.vectored []).onCsr (·.setPp true)).retire true none 4)

/-! ### Scale and codebook registers -/

/-- Scale register n (R75). -/
def Regs.getSc (r : Regs) (n : BitVec 3) : BitVec 32 := r.sc[n.toFin]
def Regs.setSc (r : Regs) (n : BitVec 3) (x : BitVec 32) : Regs := { r with sc := r.sc.set n.toFin x }
/-- Codebook register n (R109). -/
def Regs.getCb (r : Regs) (n : BitVec 2) : BitVec 256 := r.cb[n.toFin]
def Regs.setCb (r : Regs) (n : BitVec 2) (x : BitVec 256) : Regs := { r with cb := r.cb.set n.toFin x }

/-- The BF16 pattern that a codebook gives for a code (R109). -/
def codebook (cb : BitVec 256) (j : Nat) : Nat := cb.toNat >>> (16 * j) % 2 ^ 16

/-- CBLD (R215). -/
def execCbld (n : BitVec 2) (b : Opnd) (i : BitVec 12) (s : State) : Out :=
  issue (.cbld n b i) s fun s =>
    match s.me.r.val b with
    | none => .wait .queue s
    | some x =>
      let ea := x + i.signExtend 64
      if !aligned ea 32 then .trap .align ea s
      else (s.load ea 32).then fun y t => .done (t.onRegs (·.setCb n (BitVec.ofNat 256 (leNat y))))

/-- SCSET (R222). -/
def execScset (n : BitVec 3) (a : Opnd) (s : State) : Out :=
  issue (.scset n a) s fun s =>
    match s.me.r.val a with
    | none => .wait .queue s
    | some x => .done ((s.pop a).onRegs (·.setSc n (x.setWidth 32)))

/-- SCGET (R245). -/
def execScget (d : Opnd) (n : BitVec 3) (s : State) : Out :=
  alu0 (.scget d n) d s fun t => (t.me.r.getSc n).setWidth 64

/-! ### Formats that a prefix may name (R239) -/

def Fmt.isNarrow : Fmt → Bool
  | .e4m3 | .e5m2 | .e3m2 | .e2m3 | .int8 | .int4 | .uint8 => true
  | _ => false

def Fmt.isWide : Fmt → Bool
  | .fp64 | .fp32 | .bf16 | .fp16 => true
  | _ => false

def Fmt.packs : Fmt → Bool
  | .int4 | .c4 | .e3m2 | .e2m3 => true
  | _ => false

/-- The format of a code of a prefix; code 15 never stands in one (R70). -/
def codeFmt (c : BitVec 4) : Fmt := (Fmt.ofCode c).getD .fp64

/-! ### Conversion of one element (R109, R116, R120) -/

/-- An element's exact value times a scale; with no scale no multiplication takes place, and a NaN scale is invalid
(R120). -/
def Val.scaled (x : Val) (scale : Option (BitVec 32)) : Exact :=
  match scale with
  | none => x.exact
  | some k =>
    let y := Fmt.fp32.val k.toNat
    if y.isNan then .nan true else x.mul y

/-- Whether a scale makes the product with a value invalid: a NaN scale, or an infinity met by a zero (R120). -/
def Val.spoiled (x : Val) (scale : Option (BitVec 32)) : Bool :=
  match scale with
  | none => false
  | some k => (Fmt.fp32.val k.toNat).isNan || (!x.isNan && x.scaled scale == .nan true)

/-- A scaled value rounded into a format (R116, R120). Into BOOL1, where a conversion sets no flag (R108), an invalid product
has the result and the flag of R117 (log 52). -/
def Fmt.roundScaled (f : Fmt) (sat : Bool) (mode : Mode) (x : Val) (scale : Option (BitVec 32)) : Nat × Flags :=
  if f == .bool1 && x.spoiled scale then (0, NV) else f.round sat mode (x.scaled scale)

/-- The value of an element: a C4 code is read through a codebook (R109). -/
def elemVal (f : Fmt) (cb : BitVec 256) (x : Nat) : Val :=
  if f == .c4 then Fmt.bf16.val (codebook cb x) else f.val x

/-- The scale that a prefix names; none for sc = 0 (R120). -/
def Regs.scaleOf (r : Regs) (p : Prefix) : Option (BitVec 32) := if p.sc == 0 then none else some (r.getSc p.sc)

/-- One element converted under a prefix. -/
def Prefix.convert (p : Prefix) (r : Regs) (x : Val) (a : Acc) : Nat × Acc :=
  a.round p.rm fun m => (codeFmt p.fc).round p.sat m (x.scaled (r.scaleOf p))

/-! ### VPACK to VQNT -/

/-- A prefixed conversion: ENC where the prefix's combination is not accepted, else a vector result of a width. -/
def prefixed (i : Instr) (d : VReg) (s : State) (ok : Prefix → Bool) (bits : Prefix → Nat)
    (f : Prefix → State → List Nat × Acc) : Out :=
  issue i s fun s =>
    let p := s.me.prefix
    if ok p then
      let (l, a) := f p s
      .done (s.vresult d (bits p) l a [])
    else .trap .enc 0 s

/-- The elements a register of a format holds (R112). -/
def Fmt.cap (f : Fmt) : Nat := 512 / f.bits

/-- VPACK and VUNPK accept one packed format and no scale. -/
def Prefix.packing (p : Prefix) : Bool := (codeFmt p.fa).packs && p.fb == p.fa && p.fc == p.fa && p.sc == 0

/-- VPACK (R247). -/
def execVpack (d a : VReg) (p : BitVec 3) (s : State) : Out :=
  prefixed (.vpack d a p) d s Prefix.packing (fun x => (codeFmt x.fa).bits) fun x s =>
    let n := (codeFmt x.fa).bits
    let src := s.vec 8 a
    ((s.vec n d).mapIdx fun k old =>
      if 64 * p.toNat ≤ k && k < 64 * p.toNat + 64 then src.getD (k - 64 * p.toNat) 0 % 2 ^ n else old, s.acc)

/-- VUNPK: the codes from element `base` on as bytes, INT4 sign-extended (R248). -/
def vunpack (i : Instr) (d a : VReg) (base : Nat) (s : State) : Out :=
  prefixed i d s Prefix.packing (fun _ => 8) fun x s =>
    let f := codeFmt x.fa
    let src := s.vec f.bits a
    ((List.range 64).map fun k =>
      let e := src.getD (base + k) 0
      if f == .int4 then Fmt.int8.ofInt (f.int e) else e, s.acc)

/-- VUNPK.LO (R248). -/
def execVunpkLo (d a : VReg) (s : State) : Out := vunpack (.vunpkLo d a) d a 0 s

/-- VUNPK.HI (R248). -/
def execVunpkHi (d a : VReg) (s : State) : Out := vunpack (.vunpkHi d a) d a 64 s

/-- VDEQ (R249). -/
def execVdeq (d a : VReg) (p : BitVec 3) (s : State) : Out :=
  prefixed (.vdeq d a p) d s
    (fun x =>
      let f := codeFmt x.fa
      let n := (codeFmt x.fc).cap
      (f.isNarrow || f == .c4) && x.fb == x.fa && (codeFmt x.fc).isWide && p.toNat < (f.cap + n - 1) / n)
    (fun x => (codeFmt x.fc).bits) fun x s =>
      let f := codeFmt x.fa
      let n := (codeFmt x.fc).cap
      let src := s.vec f.bits a
      let cb := s.me.r.getCb x.cb
      sweep (fun _ => true)
        (fun k acc =>
          let j := p.toNat * n + k
          x.convert s.me.r (if j < f.cap then elemVal f cb (src.getD j 0) else .num false 0 0) acc)
        0 (List.replicate n 0) s.acc

/-- VSCALE (R250). -/
def execVscale (d a : VReg) (s : State) : Out :=
  prefixed (.vscale d a) d s
    (fun x => (codeFmt x.fa).isWide && x.fb == x.fa && x.fc == x.fa && x.sc != 0)
    (fun x => (codeFmt x.fc).bits) fun x s =>
      let f := codeFmt x.fa
      let src := s.vec f.bits a
      sweep (fun _ => true) (fun k acc => x.convert s.me.r (f.val (src.getD k 0)) acc) 0 src s.acc

/-- VQNT (R223, R251). -/
def execVqnt (d a b : VReg) (p : BitVec 3) (s : State) : Out :=
  prefixed (.vqnt d a b p) d s
    (fun x =>
      (codeFmt x.fa).isWide && x.fb == x.fa && (codeFmt x.fc).isNarrow &&
        2 * (codeFmt x.fa).cap * p.toNat < (codeFmt x.fc).cap)
    (fun x => (codeFmt x.fc).bits) fun x s =>
      let f := codeFmt x.fa
      let n := f.cap
      let src := s.vec f.bits a ++ s.vec f.bits b
      let lo := 2 * n * p.toNat
      sweep (fun k => lo ≤ k && k < lo + 2 * n) (fun k acc => x.convert s.me.r (f.val (src.getD (k - lo) 0)) acc) 0
        (s.vec (codeFmt x.fc).bits d) s.acc

end Sys2Proof.Machine
end
end

