-- ==== Sys2Proof/Machine/Loft.lean ====
section
/-!
DEFINITION. The loft (R213 to R221, R226 to R244): the entry of its commands with their checks, the arbitration of the
array, the passes, the steps of the other commands, and the scrub.
-/
noncomputable section
namespace Sys2Proof.Machine

/-! ### Entry (R213, R228, R239) -/

/-- The generator's state after n draws (R114, R115). -/
def srSkip (x : Word) : Nat → Word
  | 0 => x
  | n + 1 => srSkip (srNext x) n

/-- The n draws of a loft command under SR are taken as it enters (R115). -/
def State.skipDraws (s : State) (rm : RmCode) (n : Nat) : State :=
  if 5 ≤ rm.toNat then s.onCsr fun c => { c with sr := srSkip c.sr n } else s

/-- A command with nothing but whose it is. -/
def State.loftBlank (s : State) (op : LoftOp) (t : Slot) : LoftCmd :=
  { id := 0, op := op, slot := t, fa := 0, fb := 0, fc := 0, rm := 0, sat := false, scale := none, cb := 0, types := [],
    dom := s.me.c.dom, launch := s.me.t.launch, ctx := s.cur, task := s.me.c.serial, depth := s.me.c.gd,
    bank := false, rows := 0,
    prio := s.me.t.prio, weight := s.me.t.weight, started := false, stop := false, passes := 0, since := none,
    doneAt := 0, out := [], sr := s.me.c.sr, fl := 0 }

/-- A row of a region (R228). -/
def State.row (s : State) (core i : Nat) : Row := find (s.core core).rows i .zero

/-- The rows that a command names are declared as it enters: type and the tag of its domain (R228). -/
def State.declare (s : State) (core : Nat) (c : LoftCmd) : State :=
  s.onCore core fun k =>
    { k with rows := (List.range 16).foldl (fun l i => match c.declares i with
        | some t => upd l i .zero fun x => { x with ty := t, tag := some c.dom }
        | none => l) k.rows }

/-- A command enters the queue of a core (R213, R231), which declares its rows (R228). -/
def State.enterAt (s : State) (core : Nat) (c : LoftCmd) : State :=
  let t := s.setLoftq core ((s.core core).loftq ++ [{ c with id := s.seq }])
  { t with seq := s.seq + 1 }.declare core c

/-- A command enters the queue of the issuing core; entry acquires the slot's release (R213). -/
def State.enter (s : State) (c : LoftCmd) : State := s.enterAt s.myCore c

/-- The queue of 4 entries has room (R213). -/
def State.roomAt (s : State) (core : Nat) : Bool := (s.core core).loftq.length < 4
def State.loftRoom (s : State) : Bool := s.roomAt s.myCore

/-- A command that names no slot takes its place in the vector stream, which alone waits while the queue is full (R213). -/
def State.join (s : State) (c : LoftCmd) : State :=
  if s.me.vs.isEmpty && s.loftRoom then (s.enter c).vectored [] else s.vectoredWith none (some c) []

/-- What can complete of the vector stream of a context does: pushes, and the entry of loft commands (R41, R213). -/
def State.streamOn (s : State) (k : Nat) : Nat → State
  | 0 => s
  | n + 1 =>
    let c := s.ctx k
    let q := s.settled k c.r c.vs
    let t := if q.2.length == c.vs.length then s else s.setCtx k { c with r := q.1, vs := q.2 }
    match q.2 with
    | [] => t
    | v :: l => match v.cmd with
      | none => t
      | some d =>
        if t.roomAt (coreOf k) && !t.lstatBlocks k q.1 then
          ((t.enterAt (coreOf k) d).setCtx k { t.ctx k with vs := { v with cmd := none } :: l }).streamOn k n
        else t

/-- A loft command that names a slot (R54, R184, R213): the checks of the slot, then `k`, which is none where the command
raises LOFT. It enters as it is executed, with its checks; while the queue is full the vector stream waits. -/
def loftSlot (i : Instr) (t : Slot) (s : State) (k : TileSlot → State → Option State) : Out :=
  issue i s fun s =>
    let x := s.slot s.myCore t
    if x.st.busy then .wait .slot s
    else if x.st == .empty || x.foreign s.me.c.dom then .trap .tile 0 s
    else if !s.loftRoom || s.me.vs.any (·.cmd.isSome) then .wait .loft s
    else match k x s with
      | none => .trap .loft 0 s
      | some u => .done (u.vectored [])

/-- A loft format (R239). -/
def Fmt.isLoft (f : Fmt) : Bool := f.isWide || f.isNarrow || f == .bool1

/-- LBLD (R216, R239, R240). DESIGN CHOICE (log 53): under SR each of its 8192 cells takes a draw where the formats differ or a
scale applies, and none does where the conversion is the identity. -/
def execLbld (t : Slot) (tr : Bool) (s : State) : Out :=
  loftSlot (.lbld t tr) t s fun x s =>
    let code := shapeCode x.shape
    let p := if s.me.c.pp then s.me.prefix
      else { fa := code, fb := code, fc := code, rm := 0, sat := false, sc := 0, cb := 0 }
    let shape := if tr then shapeRows x.shape == 128 && shapeCols x.shape == 64
      else shapeRows x.shape == 64 && shapeCols x.shape == 128
    let fb := codeFmt p.fb
    let fc := codeFmt p.fc
    if shape && p.fb == code && p.fc == p.fa && fc.isLoft && (fb.isLoft || fb == .c4) &&
        (fb != .c4 || (fc == .bf16 && p.sc == 0)) then
      let may := p.sc != 0 || (if fb == .c4 then Fmt.bf16 else fb) != fc
      let c := { s.loftBlank (.lbld tr) t with
        fa := p.fa, fb := p.fb, fc := p.fc, rm := p.rm, sat := p.sat, scale := s.me.r.scaleOf p, cb := s.me.r.getCb p.cb }
      some ((s.enter c).skipDraws p.rm (if may then 8192 else 0))
    else none

/-- LSWAP (R241). -/
def execLswap (s : State) : Out :=
  issue .lswap s fun s => .done (s.join (s.loftBlank .lswap 0))

def Loft.bank (l : Loft) (b : Bool) : Bank := if b then l.bank1 else l.bank0
def Loft.setBank (l : Loft) (b : Bool) (x : Bank) : Loft := if b then { l with bank1 := x } else { l with bank0 := x }

/-- The accumulator type of a pairing of A and bank formats, where there is one (R229). -/
def accType (a b : Fmt) : Option RowType :=
  let int : Fmt → Bool := fun f => f == .int8 || f == .int4 || f == .uint8
  if (int a && int b) || (a == .bool1 && b == .bool1) then some .int64
  else if (a.isFloat || a == .c4) && b.isFloat then some .fp64
  else none

/-- Whether a row may be read under a domain, and whether it has a type or ZERO (R228). -/
def Row.mine (x : Row) (d : Dom) : Bool := x.tag.isNone || x.tag == some d
def Row.fits (x : Row) (t : RowType) : Bool := x.ty == .zero || x.ty == t

/-- LMM (R219, R228, R229, R239). An unprefixed LMM on a C4 slot reads through cb0 (log 23). -/
def execLmm (r0 : BitVec 4) (e : BitVec 2) (t : Slot) (acc : Bool) (s : State) : Out :=
  loftSlot (.lmm r0 e t acc) t s fun x s =>
    let core := s.myCore
    let l := s.loft (octetOf core)
    let bank := l.bank l.active
    let code := shapeCode x.shape
    let m := shapeRows x.shape
    let row := r0.toNat
    let p := if s.me.c.pp then s.me.prefix
      else { fa := code, fb := bank.fmt, fc := 0, rm := 0, sat := false, sc := 0, cb := 0 }
    let a := codeFmt code
    let rows := (List.range m).map fun i => s.row core (row + i)
    if shapeCols x.shape != 64 || 16 < m || 16 < row + m || !bank.filled || bank.dom != s.me.c.dom then none
    else match accType a (codeFmt bank.fmt) with
      | none => none
      | some ty =>
        if p.fa != code || p.fb != bank.fmt || p.sc != 0 || !(a.isLoft || a == .c4) ||
            (s.me.c.pp && p.fc != (if ty == .fp64 then 0 else 12)) || (e == 3) != (a == .bool1) ||
            (acc && rows.any fun y => !y.mine s.me.c.dom || !y.fits ty) then none
        else
          let c := { s.loftBlank (.lmm row e acc) t with
            fa := p.fa, fb := p.fb, fc := p.fc, rm := p.rm, sat := p.sat, cb := s.me.r.getCb p.cb, types := [ty],
            bank := l.active, rows := m }
          let u := (s.enter c).skipDraws p.rm (if ty == .fp64 then 128 * m else 0)
          some u

/-- LZERO (R242). -/
def execLzero (r0 : BitVec 4) (m : BitVec 4) (s : State) : Out :=
  issue (.lzero r0 m) s fun s =>
    let n := m.toNat + 1
    if 16 < r0.toNat + n then .trap .loft 0 s
    else .done (s.join { s.loftBlank (.lzero r0.toNat n) 0 with rows := n })

/-- The type of a declared row as a format code: FP64 or INT64. -/
def RowType.code : RowType → BitVec 4
  | .int64 => 12
  | _ => 0

/-- LDRN (R221, R228, R239). DESIGN CHOICE (log 53): under SR it takes a draw for each of its elements, those of ZERO rows and
those whose conversion is exact among them. -/
def execLdrn (r0 : BitVec 4) (t : Slot) (s : State) : Out :=
  loftSlot (.ldrn r0 t) t s fun x s =>
    let core := s.myCore
    let code := shapeCode x.shape
    let m := shapeRows x.shape
    let row := r0.toNat
    let rows := (List.range m).map fun i => s.row core (row + i)
    let p := if s.me.c.pp then s.me.prefix
      else { fa := 0, fb := 0, fc := code, rm := s.me.c.rm, sat := false, sc := 0, cb := 0 }
    if 128 < shapeCols x.shape || 16 < row + m || code == 10 || rows.any (fun y => !y.mine s.me.c.dom) ||
        p.fc != code || p.fb != p.fa || (s.me.c.pp && rows.any fun y => y.ty != .zero && y.ty.code != p.fa) then none
    else
      let c := { s.loftBlank (.ldrn row) t with
        fc := code, rm := p.rm, sat := p.sat, scale := s.me.r.scaleOf p, types := rows.map (·.ty), rows := m }
      let u := ((s.enter c).skipDraws p.rm (m * shapeCols x.shape)).setSlot core t { x with st := .filling }
      some u

/-- LPRI (R218). -/
def execLpri (p : BitVec 2) (w : BitVec 4) (s : State) : Out :=
  issue (.lpri p w) s fun s => .done ((s.onTask fun t => { t with prio := p, weight := w }).vectored [])

/-- LSTAT (R243). -/
def execLstat (d : Opnd) (s : State) : Out :=
  issue (.lstat d) s fun s => .done (s.join (s.loftBlank (.lstat (d != .q 2)) 0))

/-- LFENCE (R217): the vector stream waits. -/
def execLfence (s : State) : Out :=
  issue .lfence s fun s => if s.loftBusy then .wait .loft s else .done (s.vectored [])

/-! ### Elements, cells, exact combinations (R226, R229, R230) -/

/-- The bytes of row i of a slot as one number, and its elements (R111). -/
def State.slotRow (s : State) (core : Nat) (x : TileSlot) (i : Nat) : Nat :=
  let a := x.base.toNat + i * shapePitch x.shape * 64
  leNat ((List.range (rowBytes x.shape)).map fun k => s.peek (spadKey core (a + k)))

def slotElems (x : TileSlot) (row : Nat) : List Nat :=
  let w := codeBits (shapeCode x.shape)
  (List.range (shapeCols x.shape)).map fun k => row >>> (w * k) % 2 ^ w

/-- The cell that holds an element (R226): the FP64 of equal value, or an INT64. -/
def cellOf (f : Fmt) (x : Nat) : Word :=
  if f.isFloat then
    match f.val x with
    | .nan false => 0x7FF4000000000000
    | v => BitVec.ofNat 64 (Fmt.fp64.round false .rne v.exact).1
  else BitVec.ofInt 64 (if f.signed then f.int x else x)

/-- The value of a cell of a bank. -/
def cellVal (f : Fmt) (c : Word) : Val := if f.isFloat then Fmt.fp64.val c.toNat else Fmt.int64.val c.toNat

/-- An exact result that is to be combined further; an invalid operation goes on as a NaN that sets NV. -/
def Exact.toVal : Exact → Val
  | .nan v => .nan (!v)
  | .inf n _ => .inf n
  | .num n m e _ => .num n m e

/-- Whether a list of values holds infinities of both signs (R230). -/
def infsClash (l : List Val) : Bool := l.contains (.inf false) && l.contains (.inf true)

/-- The exact sum of a list of values (R119, R230): infinities of opposite sign set NV beside a quiet NaN too. -/
def sumAll (l : List Val) (mode : Mode) : Exact :=
  if l.any Val.isNan || infsClash l then .nan (l.any Val.signalling || infsClash l)
  else
    let infs := l.filter fun v => match v with
      | .inf _ => true
      | _ => false
    match infs with
    | v :: _ => .inf v.neg false
    | [] =>
      let q := l.foldl (fun q v => match v with
        | .num _ m e => if m == 0 then q else min q e
        | _ => q) 0
      let i := l.foldl (fun i v => match v with
        | .num n m e => if m == 0 then i else i + scaleTo n m e q
        | _ => i) (0 : Int)
      .ofInt i q (zeroSign (l.all Val.neg) (!l.any Val.neg) mode.isRdn)

/-- The least or the greatest of a list of values, -0 below +0 (R155, R230). -/
def extremeAll (max : Bool) (l : List Val) : Exact :=
  if l.any Val.isNan then .nan (l.any Val.signalling)
  else match l with
    | [] => .nan true
    | v :: r => (r.foldl (fun x y => if (if max then x.lt y true else y.lt x true) then y else x) v).exact

/-- One column of a floating pass: the 64 terms, and the accumulator where it counts. -/
def passColumn (sr : BitVec 2) (a b : List Val) (acc : Option Val) (mode : Mode) : Exact :=
  let terms := (a.zip b).map fun p => (if sr == 1 then p.1.add p.2 mode else p.1.mul p.2).toVal
  let all := terms ++ acc.toList
  if sr == 0 then sumAll all mode else extremeAll (sr == 2) all

/-- The integer that a value of an integer format is. -/
def Val.toInt : Val → Int
  | .num n m _ => if n then -(m : Int) else m
  | _ => 0

/-- One column of an integer pass. -/
def intColumn (sr : BitVec 2) (a b : List Int) (acc : Option Int) : Int :=
  let terms := (a.zip b).map fun p =>
    match sr.toNat with
    | 1 => p.1 + p.2
    | 3 => if p.1 != 0 && p.2 != 0 then 1 else 0
    | _ => p.1 * p.2
  let all := terms ++ acc.toList
  match sr.toNat with
  | 0 => all.sum
  | 1 => all.foldl min (all.headD 0)
  | 2 => all.foldl max (all.headD 0)
  | _ => if all.any (· != 0) then 1 else 0

/-! ### A pass (R219, R227, R229, R230) -/

/-- The accumulators of a row of a region. -/
def State.accRow (s : State) (core i : Nat) : List Word := find (s.core core).acc i (List.replicate 128 0)

/-- The columns of a pass in ascending order, each rounded once. -/
def passFloat (c : LoftCmd) (a : List Val) (col : Nat → List Val) (old : List Word) (acc : Bool) (sr : BitVec 2) :
    Nat → Nat → Acc → List Word × Acc
  | _, 0, st => ([], st)
  | n, k + 1, st =>
    let prev := if acc then some (Fmt.fp64.val (old.getD n 0).toNat) else none
    let (x, st1) := st.round c.rm fun m => Fmt.fp64.round c.sat m (passColumn sr a (col n) prev m)
    let (l, st2) := passFloat c a col old acc sr (n + 1) k st1
    (BitVec.ofNat 64 x :: l, st2)

/-- One row of an LMM: the row's new accumulators, and the command after it. -/
def State.passRow (s : State) (core : Nat) (c : LoftCmd) : List Word × LoftCmd :=
  match c.op with
  | .lmm row sr acc =>
    let x := s.slot core c.slot
    let bank := (s.loft (octetOf core)).bank c.bank
    let f := codeFmt bank.fmt
    let cells := bank.cells.toArray
    let a := (slotElems x (s.slotRow core x c.passes)).map (elemVal (codeFmt c.fa) c.cb)
    let col := fun n => (List.range 64).map fun k => cellVal f (cells.getD (128 * k + n) 0)
    let old := s.accRow core (row + c.passes)
    if c.types.head? == some .int64 then
      (((List.range 128).map fun n =>
        BitVec.ofInt 64 (intColumn sr (a.map Val.toInt) ((col n).map Val.toInt)
          (if acc then some (old.getD n 0).toInt else none))), { c with passes := c.passes + 1 })
    else
      let (l, st) := passFloat c a col old acc sr 0 128 { sr := c.sr, fl := c.fl }
      (l, { c with passes := c.passes + 1, sr := st.sr, fl := st.fl })
  | _ => ([], c)

/-- The first row of an LMM. -/
def LoftCmd.row0 (c : LoftCmd) : Nat :=
  match c.op with
  | .lmm r _ _ => r
  | .lzero r _ => r
  | .ldrn r => r
  | _ => 0

/-- n rows of the head LMM of a core are computed, or as many as it has left; the LMM is what wrote them last. DESIGN CHOICE
(log 65): a row that two launches have written is scrubbed at the end of the one that wrote it last (R225). -/
def State.passRows (s : State) (core : Nat) (c : LoftCmd) : Nat → State × LoftCmd
  | 0 => (s, c)
  | n + 1 =>
    if c.rows ≤ c.passes then (s, c)
    else
      let (l, d) := s.passRow core c
      let r := c.row0 + c.passes
      let wrote := fun (x : Row) => { x with launch := c.launch, ctx := c.ctx, task := c.task, depth := c.depth }
      (s.onCore core fun k => { k with acc := put k.acc r l, rows := upd k.rows r .zero wrote }).passRows core d n

/-- Flags accrue in a psw that a frame keeps for its caller. -/
def Frame.accrue (f : Frame) (fl : Flags) : Frame := { f with psw := (({ Csr.zero with psw := f.psw }).accrue fl).psw }

/-- Flags accrue in the issuing task's psw at completion (R221, R230, R240): in the one that the frame of a call keeps, while the
task is inside a gate that it has called since (R358). -/
def State.accrueTo (s : State) (ctx task depth : Nat) (fl : Flags) : State :=
  let x := s.ctx ctx
  let n := x.frames.length
  if !x.live || x.c.serial != task then s
  else if depth == n then s.setCtx ctx { x with
    c := x.c.accrue fl, vs := x.vs.map (Behind.onLater fun l => { l with psw := l.psw ||| (fl.setWidth 19 <<< 6) }) }
  else s.setCtx ctx { x with
    frames := x.frames.zipIdx.map fun p => if p.2 + 1 + depth == n then p.1.accrue fl else p.1 }

/-- An LMM is complete, or has stopped: its rows are what it made them (R228, R236), and the passes stand for LSTAT. DEDUCED
(log 66): a row that a stopped LMM has not written keeps its contents under the type and tag that it had, so that a callee
cannot read its caller's, and counts as claimed, so that a frame's scrub zeroes it (R237). -/
def State.lmmDone (s : State) (core : Nat) (c : LoftCmd) : State :=
  let ty := c.types.headD .zero
  let s := s.onCore core fun k =>
    let one := fun (i : Nat) (x : Row) =>
      if i < c.passes then { x with doneTy := ty, doneTag := some c.dom } else { x with ctx := c.ctx, task := c.task, depth := c.depth }
    { k with rows := (List.range c.rows).foldl (fun l i => upd l (c.row0 + i) .zero (one i)) k.rows }
  let s := if c.passes < c.rows then s.redeclare core else s
  let s := s.accrueTo c.ctx c.task c.depth c.fl
  let x := s.ctx c.ctx
  if x.live && x.c.serial == c.task then
    s.setCtx c.ctx { x with t := { x.t with passes := c.passes, passDom := c.dom } }
  else s

/-- Array cycles of a pass (R2, R227), and the rows it computes. -/
def passCycles (f : Fmt) : Nat :=
  match f with
  | .fp64 => 14
  | .fp32 => 6
  | .fp16 => 3
  | .bf16 | .c4 | .int8 | .uint8 => 2
  | _ => 1

def passCount (f : Fmt) : Nat := if f == .bool1 then 4 else 1

/-! ### The array (R220, R232) -/

/-- The effective priority of a head LMM at a cycle (R232). -/
def LoftCmd.eff (c : LoftCmd) (now : Nat) : Nat := min 3 (c.prio.toNat + (now - c.since.getD now) / 4096)

/-- The head LMM at an octet position. -/
def State.headAt (s : State) (octet pos : Nat) : Option LoftCmd := headLmm (s.core (8 * octet + pos)).loftq

/-- The bank that an LBLD has been given, or will take (R214). DESIGN CHOICE (log 65): one that has not started counts for
the bank that is idle now (R220), an LSWAP before it in its queue or not. -/
def LoftCmd.target (c : LoftCmd) (active : Bool) : Option Bool :=
  match c.op with
  | .lbld _ => some (if c.started then c.bank else !active)
  | _ => none

/-- Whether a command's bank is resident while another runs (R220). -/
def State.resident (s : State) (octet : Nat) (c run : LoftCmd) : Bool :=
  c.bank == run.bank ||
    !(List.range 8).any fun p => (s.core (8 * octet + p)).loftq.any fun x =>
      x.target (s.loft octet).active == some c.bank

/-- Whether the array may go from its running command to the head LMM at a position (R220). -/
def State.mayTake (s : State) (octet : Nat) (c : LoftCmd) : Bool :=
  match (s.loft octet).run with
  | none => true
  | some p =>
    match s.headAt octet p with
    | none => true
    | some r => r == c || !(decide (r.eff s.cycle < c.eff s.cycle)) || s.resident octet c r

/-- The position that the array serves next (R220, R232), and whether it receives a grant. A head that may not take over from
the running command waits, and is passed over. -/
def State.choose (s : State) (octet : Nat) : Option (Nat × Bool) :=
  let l := s.loft octet
  let heads := (List.range 8).filterMap fun p => (s.headAt octet p).map fun c => (p, c)
  let able := heads.filter fun q => s.mayTake octet q.2
  let top := able.foldl (fun m q => max m (q.2.eff s.cycle)) 0
  let best := fun p => able.any fun q => q.1 == p && q.2.eff s.cycle == top
  if best l.holder && 0 < find l.credit l.holder 0 then some (l.holder, false)
  else (((List.range 8).map fun i => (l.holder + 1 + i) % 8).find? best).map fun p => (p, true)

/-- The pass in flight ends: its rows are computed, and its command may be complete. -/
def State.endPass (s : State) (octet : Nat) : State :=
  let l := s.loft octet
  match l.run with
  | none => s.setLoft octet { l with passEnd := none }
  | some p =>
    let core := 8 * octet + p
    match headLmm (s.core core).loftq with
    | none => s.setLoft octet { l with run := none, passEnd := none }
    | some c =>
      let (t, d) := s.passRows core c (passCount (codeFmt c.fa))
      let d := { d with since := some s.cycle }
      if d.rows ≤ d.passes || d.stop then
        let t := t.setLoft octet { t.loft octet with run := none, passEnd := none }
        (t.setLoftq core ((t.core core).loftq.filter (·.id != c.id))).lmmDone core d
      else
        (t.setLoft octet { t.loft octet with passEnd := none }).setLoftq core
          (onHeadLmm (fun _ => d) (t.core core).loftq)

/-- The array starts a pass of the command it has chosen, or the four of BOOL1 at once (R227): each takes a credit (R232). -/
def State.startPass (s : State) (octet : Nat) : State :=
  match s.choose octet with
  | none => s
  | some (p, grant) =>
    match s.headAt octet p with
    | none => s
    | some c =>
      let l := s.loft octet
      let credit := if grant then c.weight.toNat else find l.credit p 0
      let core := 8 * octet + p
      (s.setLoft octet { l with
        holder := p, credit := put l.credit p (credit - min (passCount (codeFmt c.fa)) (c.rows - c.passes)), run := some p,
        passEnd := some (s.cycle + passCycles (codeFmt c.fa)) }).setLoftq core
          (onHeadLmm (fun c => { c with started := true }) (s.core core).loftq)

/-- Whether a loft is at a k-step boundary with something to do. -/
def State.loftDue (s : State) (octet : Nat) : Bool :=
  match (s.loft octet).passEnd with
  | some t => t ≤ s.cycle
  | none => (List.range 8).any fun p => (s.headAt octet p).isSome

/-- K_STEP_BOUNDARY (R232): the pass in flight ends, and the array chooses the next. -/
def execKStepBoundary (octet : Nat) (s : State) : Out :=
  if s.loftDue octet then
    let t := if (s.loft octet).passEnd.isSome then s.endPass octet else s
    .next (t.startPass octet)
  else .next s

/-! ### The other commands (R231, R240 to R243) -/

/-- The first command of a queue that has not started, and those ahead of it. -/
def nextStart : List LoftCmd → Option (LoftCmd × List LoftCmd)
  | [] => none
  | c :: l => if c.started then (nextStart l).map fun p => (p.1, c :: p.2) else some (c, [])

def LoftCmd.isLmm (c : LoftCmd) : Bool :=
  match c.op with
  | .lmm _ _ _ => true
  | _ => false

/-- Whether an LMM of the octet is bound to a bank (R214). -/
def State.bankBound (s : State) (octet : Nat) (b : Bool) : Bool :=
  (List.range 8).any fun p => (s.core (8 * octet + p)).loftq.any fun c => c.isLmm && c.bank == b

/-- The command of a core that may start now (R231). -/
def State.startable (s : State) (core : Nat) : Option LoftCmd :=
  match nextStart (s.core core).loftq with
  | none => none
  | some (c, ahead) =>
    let ok : Bool := match c.op with
      | .lbld _ => !s.bankBound (octetOf core) (!(s.loft (octetOf core)).active)
      | .ldrn _ | .lzero _ _ => !ahead.any (·.isLmm)
      | .lswap => ahead.isEmpty
      | .lstat q3 =>
        ahead.isEmpty && !(s.ctx c.ctx).lstatFull (s.ctx c.ctx).r c q3
      | .lmm _ _ _ => false
    if ok then some c else none

/-- A command is replaced in its queue. -/
def State.putLoft (s : State) (core : Nat) (c d : LoftCmd) : State :=
  s.setLoftq core ((s.core core).loftq.map fun x => if x.id == c.id then d else x)

/-- A command leaves its queue as complete. -/
def State.endLoft (s : State) (core : Nat) (c : LoftCmd) : State :=
  (s.setLoftq core ((s.core core).loftq.filter (·.id != c.id))).accrueTo c.ctx c.task c.depth c.fl

/-- A scrub clears the credits and the ages of an octet's arbitration (R235). -/
def State.ageless (s : State) (o : Nat) : State :=
  let s := s.setLoft o { s.loft o with credit := [] }
  (List.range 8).foldl (fun (s : State) p =>
    if (s.headAt o p).isSome then
      s.onCore (8 * o + p) fun k => { k with loftq := onHeadLmm (fun c => { c with since := some s.cycle }) k.loftq }
    else s) s

/-- LBLD_START (R214, R231, R234): the idle bank is taken, and zeroed if it is another domain's. -/
def execLbldStart (core : Nat) (s : State) : Out :=
  match s.startable core with
  | some c =>
    match c.op with
    | .lbld _ =>
      let o := octetOf core
      let l := s.loft o
      let b := !l.active
      let claim := (l.bank b).filled && (l.bank b).dom != c.dom
      let s := if claim then (s.setLoft o (l.setBank b .empty)).ageless o else s
      .next (s.putLoft core c { c with started := true, bank := b, doneAt := s.cycle + if claim then 128 else 64 })
    | _ => .next s
  | none => .next s

/-- The cells of a bank from the rows of a slot, in ascending k and then n (R216, R240). DESIGN CHOICE (log 65): with fb = fc and
no scale an element is moved and not converted, so a signalling NaN raises no NV here and stays signalling in its cell. -/
def fillCells (c : LoftCmd) (tr : Bool) (rows : Array (Array Nat)) : Nat → Nat → Acc → List Word × Acc
  | _, 0, a => ([], a)
  | i, n + 1, a =>
    let k := i / 128
    let j := i % 128
    let e := if tr then (rows.getD j #[]).getD k 0 else (rows.getD k #[]).getD j 0
    let fb := codeFmt c.fb
    let fc := codeFmt c.fc
    let same := c.scale.isNone && (if fb == .c4 then Fmt.bf16 else fb) == fc
    let (x, a1) := if same then ((if fb == .c4 then codebook c.cb e else e), a)
      else a.round c.rm fun m => fc.roundScaled c.sat m (elemVal fb c.cb e) c.scale
    let (l, a2) := fillCells c tr rows (i + 1) n a1
    (cellOf fc x :: l, a2)

/-- A started command of a core of a kind whose time has passed. -/
def State.loftFinished (s : State) (core : Nat) (p : LoftOp → Bool) : Option LoftCmd :=
  (s.core core).loftq.find? fun c => c.started && p c.op && c.doneAt ≤ s.cycle

/-- LBLD_COMPLETION (R240): the bank is FILLED with format fc and tag c.dom. DESIGN CHOICE (log 65): until then a bank that was
FILLED under the same domain keeps its state, format and cells, also for an LSWAP that makes it active meanwhile (R214), and
all of them are replaced at once here. -/
def execLbldCompletion (core : Nat) (s : State) : Out :=
  match s.loftFinished core fun o => match o with
    | .lbld _ => true
    | _ => false with
  | none => .next s
  | some c =>
    let x := s.slot core c.slot
    let rows := ((List.range (shapeRows x.shape)).map fun i => (slotElems x (s.slotRow core x i)).toArray).toArray
    let (cells, a) := fillCells c (c.op == .lbld true) rows 0 8192 { sr := c.sr, fl := c.fl }
    let o := octetOf core
    let bank : Bank := { filled := true, fmt := c.fc, dom := c.dom, launch := c.launch, ctx := c.ctx, task := c.task,
                         depth := c.depth, cells := cells }
    let t := s.endLoft core c
    .next ((t.setLoft o ((t.loft o).setBank c.bank bank)).accrueTo c.ctx c.task c.depth a.fl)

/-- The elements of one drained row (R221): each accumulator rounded once into the slot's format. -/
def drainRow (c : LoftCmd) (ty : RowType) (vals : List Word) : Nat → Nat → Acc → List Nat × Acc
  | _, 0, a => ([], a)
  | n, k + 1, a =>
    let v : Val := match ty with
      | .zero => .num false 0 0
      | .fp64 => Fmt.fp64.val (vals.getD n 0).toNat
      | .int64 => Fmt.int64.val (vals.getD n 0).toNat
    let (x, a1) := a.round c.rm fun m => (codeFmt c.fc).roundScaled c.sat m v c.scale
    let (l, a2) := drainRow c ty vals (n + 1) k a1
    (x :: l, a2)

/-- The rows of a slot as LDRN leaves them, from row i on, each as one number. -/
def State.drainRows (s : State) (core : Nat) (c : LoftCmd) (x : TileSlot) (i : Nat) : Nat → Acc → List Nat × Acc
  | 0, a => ([], a)
  | n + 1, a =>
    let cols := shapeCols x.shape
    let (l, a1) := drainRow c (c.types.getD i .zero) (s.accRow core (c.row0 + i)) 0 cols a
    let (r, a2) := s.drainRows core c x (i + 1) n a1
    (packNat (codeBits (shapeCode x.shape)) l :: r, a2)

/-- One row is written into a slot; the bits of the row's last byte beyond its columns stand. -/
def State.writeRow (s : State) (core : Nat) (x : TileSlot) (i row : Nat) : State :=
  let w := codeBits (shapeCode x.shape) * shapeCols x.shape
  let new := s.slotRow core x i / 2 ^ w * 2 ^ w + row
  let base := x.base.toNat + i * shapePitch x.shape * 64
  ((natLe (rowBytes x.shape) new).zipIdx).foldl (fun (t : State) p => t.poke (spadKey core (base + p.2)) p.1) s

/-- A started LDRN writes its rows up to row n (R227): one a cycle. -/
def State.drainTo (s : State) (core : Nat) (c : LoftCmd) (n : Nat) : State :=
  let x := s.slot core c.slot
  ((c.out.zipIdx).take n).foldl (fun t p => t.writeRow core x p.2 p.1) s

/-- LDRN_START (R221, R231): what it drains are the rows as every earlier LMM of the queue left them. -/
def execLdrnStart (core : Nat) (s : State) : Out :=
  match s.startable core with
  | some c =>
    match c.op with
    | .ldrn _ =>
      let x := s.slot core c.slot
      let (l, a) := s.drainRows core c x 0 (shapeRows x.shape) { sr := c.sr, fl := c.fl }
      .next (s.putLoft core c { c with started := true, out := l, fl := a.fl, doneAt := s.cycle + shapeRows x.shape })
    | _ => .next s
  | none => .next s

/-- LDRN_COMPLETION (R221): every row is in the slot, which is READY again, and the flags accrue. -/
def execLdrnCompletion (core : Nat) (s : State) : Out :=
  match s.loftFinished core fun o => match o with
    | .ldrn _ => true
    | _ => false with
  | none => .next s
  | some c => .next (((s.drainTo core c c.out.length).endLoft core c).restSlot core c.slot)

/-- LZERO_START (R242): its rows hold zeros. -/
def execLzeroStart (core : Nat) (s : State) : Out :=
  match s.startable core with
  | some c =>
    match c.op with
    | .lzero r m =>
      let t := s.onCore core fun k =>
        let one := fun (x : Row) =>
          { x with doneTy := .zero, doneTag := some c.dom, launch := c.launch, ctx := c.ctx, task := c.task, depth := c.depth }
        { k with acc := k.acc.filter (fun p => p.1 < r || r + m ≤ p.1),
                 rows := (List.range m).foldl (fun l i => upd l (r + i) .zero one) k.rows }
      .next (t.endLoft core c)
    | _ => .next s
  | none => .next s

/-- LSWAP_EXCHANGE (R241). -/
def execLswapExchange (core : Nat) (s : State) : Out :=
  match s.startable core with
  | some c =>
    match c.op with
    | .lswap =>
      let l := s.loft (octetOf core)
      .next ((s.setLoft (octetOf core) { l with active := !l.active }).endLoft core c)
    | _ => .next s
  | none => .next s

/-- The status word (R243). -/
def State.loftWord (s : State) (core : Nat) (c : LoftCmd) : Word :=
  let l := s.loft (octetOf core)
  let fmt := fun (b : Bank) => if b.filled && b.dom == c.dom then b.fmt else 15
  let run := l.run.bind fun p => (s.headAt (octetOf core) p).map fun r => (p, r.dom)
  let pos : Nat := match run with
    | some (p, d) => if d == c.dom then p * 2 + 1 else 0
    | none => 0
  let q := (s.core core).loftq
  let head := match q.head? with
    | some h => h.eff s.cycle
    | none => 0
  let rows := (List.range 16).foldl (fun n i =>
    let r := s.row core i
    let k : Nat := if !r.mine c.dom then 3 else match r.ty with
      | .zero => 0
      | .fp64 => 1
      | .int64 => 2
    n + k * 2 ^ (2 * i)) 0
  BitVec.ofNat 64
    ((fmt l.bank1).toNat * 2 ^ 54 + (fmt l.bank0).toNat * 2 ^ 50 + (if l.active then 2 ^ 49 else 0) +
      (if (s.ctx c.ctx).t.passDom == c.dom then min 16 (s.ctx c.ctx).t.passes else 0) * 2 ^ 44 + pos * 2 ^ 40 + head * 2 ^ 38 + q.length * 2 ^ 35 + rows)

/-- LSTAT_START (R243): the word is pushed into q2 or q3. Where the task has called or left a gate since, the queue has been
emptied (R38), and the word goes with it. -/
def execLstatStart (core : Nat) (s : State) : Out :=
  match s.startable core with
  | some c =>
    match c.op with
    | .lstat q3 =>
      let w := s.loftWord core c
      let t := s.endLoft core c
      let x := t.ctx c.ctx
      if x.awaits c then .next (t.setCtx c.ctx (x.fed [(q3, w)])) else .next t
    | _ => .next s
  | none => .next s

/-! ### Diversion and scrub (R225, R235, R236) -/

/-- R236: the commands of a task at a gate depth that have not started are removed, an LDRN's slot returning to READY; a
started LMM stops after its pass. -/
def State.divertLoft (s : State) (ctx task depth core : Nat) : State :=
  let mine := fun (c : LoftCmd) => c.ctx == ctx && c.task == task && c.depth == depth
  let gone := (s.core core).loftq.filter fun c => mine c && !c.started
  let s := gone.foldl (fun (s : State) c =>
    match c.op with
    | .ldrn _ => s.restSlot core c.slot
    | _ => s) s
  let s := s.removeLoft core fun c => mine c && !c.started
  let l := s.loft (octetOf core)
  match headLmm (s.core core).loftq with
  | some c =>
    if mine c && c.started then
      if l.run == some (core % 8) && l.passEnd.isSome then
        s.setLoftq core (onHeadLmm (fun d => { d with stop := true }) (s.core core).loftq)
      else
        let s := if l.run == some (core % 8) then s.setLoft (octetOf core) { l with run := none } else s
        ((s.setLoftq core ((s.core core).loftq.filter (·.id != c.id))).lmmDone core c)
    else s
  | none => s

/-- A running LDRN that a scrub removes stops at its next row (R235): the rows before stand in its slot. -/
def State.stopDrain (s : State) (core : Nat) (c : LoftCmd) : State :=
  match c.op with
  | .ldrn _ => if c.started then s.drainTo core c (c.out.length - (c.doneAt - s.cycle)) else s
  | _ => s

/-- Scrubs every command, bank and row that the predicates name (R235): banks EMPTY, rows ZERO and untagged but for what the
commands that stay have declared, and the credits and ages of an octet that held any of them gone. DESIGN CHOICE (log 65): a row
that only an unstarted command of those had declared goes back to its earlier type and tag first, and is scrubbed by that tag. -/
def State.scrubLoft (s : State) (cmd : LoftCmd → Bool) (bank : Bank → Bool) (row : Row → Bool) : State :=
  let hit := (s.cores.filter fun p => p.2.loftq.any cmd || p.2.rows.any fun q => row q.2).map (·.1)
  let full := (s.lofts.filter fun p => (p.2.bank0.filled && bank p.2.bank0) || (p.2.bank1.filled && bank p.2.bank1)).map (·.1)
  let s := hit.foldl (fun (s : State) k => ((s.core k).loftq.filter cmd).foldl (fun s c => s.stopDrain k c) s) s
  let s := hit.foldl (fun (s : State) k => if (s.core k).loftq.any cmd then s.removeLoft k cmd else s) s
  let one := fun (k : Core) =>
    { k with acc := k.acc.filter (fun q => !row (find k.rows q.1 .zero)), rows := k.rows.filter (fun q => !row q.2) }
  let s := hit.foldl (fun (s : State) k => (s.onCore k one).redeclare k) s
  let clean := fun (b : Bank) => if b.filled && bank b then Bank.empty else b
  let s := full.foldl (fun (s : State) o =>
    s.setLoft o { s.loft o with bank0 := clean (s.loft o).bank0, bank1 := clean (s.loft o).bank1 }) s
  ((hit.map octetOf ++ full).eraseDups).foldl State.ageless s

end Sys2Proof.Machine
end
end

