-- ==== Sys2Proof/Machine/Launches.lean ====
section
/-!
DEFINITION. What the machine keeps of launches: slack (R427), the deadline remaining (R422), members (R271, R278), the
stores that hardware makes for a launch (R404, R503), and stopping a launch's own work (R184, R225, R273).
-/
noncomputable section
namespace Sys2Proof.Machine

/-! ### Slack and deadline (R422, R427) -/

/-- Effective slack, formed exactly in twentieths of a cycle and rounded once toward minus infinity (R427). -/
def slackOf (mode deadline est budget cls time counter : Nat) (admitted : Option Nat) : Int :=
  if mode == 0 then 2 ^ 63 - 1
  else
    let elapsed : Int := match admitted with
      | some a => ((time : Int) - a) * 21
      | none => 0
    let rem := max 0 ((est : Int) * 20 - elapsed)
    let left : Int := if mode == 1 then ((deadline : Int) - time) * 21 else ((deadline : Int) - counter) * 20
    let x := (left - 20 * (budget : Int) - rem + 20 * 2 ^ 20 * (cls : Int)) / 20
    max (-(2 ^ 63)) (min (2 ^ 63 - 1) x)

/-- The effective slack of a launch now. -/
def State.slack (s : State) (n : Nat) : Int :=
  match s.launch? n with
  | none => 2 ^ 63 - 1
  | some l => slackOf l.mode l.deadline l.est l.wrapBudget l.slackClass (s.die l.home).time l.counter (some l.admitted)

/-- An arbiter evaluates slack as it decides (R428); DLREAD reads what it computed (R433). -/
def State.decided (s : State) : State :=
  { s with launches := s.launches.map fun p => (p.1, { p.2 with slackSeen := s.slack p.1 }) }

/-- The priority of a launch. -/
def State.prio (s : State) (n : Nat) : Nat := ((s.launch? n).map (·.prio.toNat)).getD 0

/-- The deadline remaining of a launch, as the issuing task on a die reads it (R402, R422). -/
def State.dlOf (s : State) (n die : Nat) : Word :=
  match s.launch? n with
  | none => 0x7FFFFFFFFFFFFFFF
  | some l =>
    if l.mode == 0 then 0x7FFFFFFFFFFFFFFF
    else if l.mode == 1 then BitVec.ofNat 64 l.deadline - BitVec.ofNat 64 (s.die die).time
    else BitVec.ofNat 64 l.deadline - BitVec.ofNat 64 (l.counter + if s.me.t.launch == n then s.me.passed else 0)

/-! ### Members (R271, R278) -/

/-- The count of the innermost level. -/
def Launch.inner (l : Launch) : Nat := ((l.levels.getLast?).map (·.count)).getD 1

/-- A core of a chip as the member table holds it. -/
def memberKey (chip core : Nat) : Nat := chip * 2 ^ 13 + core

/-- Whether the launch has a leaf on a core of a chip. -/
def Launch.holds (l : Launch) (chip core : Nat) : Bool := l.members.any fun p => p.2 == memberKey chip core

/-- Whether a launch has a level of kind fabric (R278). -/
def Launch.fabric (l : Launch) : Bool := l.levels.any (·.kind == 7)

/-- Whether a launch has a leaf on a core of this package. -/
def State.leafOn (s : State) (n core : Nat) : Bool :=
  match s.launch? n with
  | some l => l.holds s.chip.toNat core
  | none => false

/-! ### Hardware's stores for a launch (R404, R503) -/

/-- The launch's domain, through that domain's address space. -/
def State.launchWho (s : State) (l : Launch) : Who :=
  let (ttb, asid) := s.space l.part l.dom
  { asid := asid, ttb := ttb, dom := l.dom, s := false, part := l.part, core := 8192, flight := 64 * l.home, l1 := none }

/-- What a store by hardware for a domain sends is counted, and leaves over the link (R378, R492). DESIGN CHOICE (log 65): it
does not wait for a bucket or a port. -/
def State.hwSent (s : State) (d : Dom) (l : List Where) : State :=
  let t := s.chargeAll (s.egressOf d true l)
  (t.linkOut l 2 0).getD t

/-- A store by hardware with release at system scope; none if the place cannot be written. -/
def State.hwStore (s : State) (w : Who) (a : Word) (b : List Byte) : Option State :=
  match s.check w .store a b.length with
  | .error _ => none
  | .ok l =>
    match s.linesBad l with
    | some _ => none
    | none => some (((s.hwSent w.dom l).pokes l b).chain [] l (some (unitRel (2 ^ 21 + 1) 4)))

/-- A bad line that an access of hardware meets is logged (R371, R382, R384). -/
def State.hwBad (s : State) (w : Who) (kind : Kind) (a : Word) (n : Nat) : State :=
  let bad := match s.check w kind a n with
    | .error (c, x) => if c.precise then none else s.walkBad w x.toNat
    | .ok l => s.linesBad l
  match bad with
  | none => s
  | some (c, key, owner) => s.hwMac (w.flight / 64) 0 false w.dom c key owner

/-- A read by hardware leaves over the link, if it has to (R492; it does not wait, log 65), or meets a bad line, which is
logged. -/
def State.hwRead (s : State) (w : Who) (a : Word) (n : Nat) : State :=
  match s.check w .load a n with
  | .error _ => s.hwBad w .load a n
  | .ok l => if (s.linesBad l).isSome then s.hwBad w .load a n else (s.linkOut l 0 0).getD s

/-- A load by hardware. -/
def State.hwLoad (s : State) (w : Who) (a : Word) (n : Nat) : Option (List Byte) :=
  match s.check w .load a n with
  | .error _ => none
  | .ok l =>
    match s.linesBad l with
    | some _ => none
    | none => some (s.peeks l)

/-- A word of a result record changes atomically; a record that cannot be written keeps its bytes (R404). -/
def State.result8 (s : State) (l : Launch) (off : Nat) (f : Nat → Nat) : State :=
  if l.result == 0 then s
  else
    let w := s.launchWho l
    let a := l.result + BitVec.ofNat 64 off
    match s.hwLoad w a 8 with
    | none => s.hwBad w .load a 8
    | some b => (s.hwStore w a (natLe 8 (f (leNat b)))).getD s

/-- Tasks, entries or messages of a launch are discarded and counted: into the record once the deadline has expired
(R404, R424). -/
def State.countDiscarded (s : State) (n k : Nat) : State :=
  if k == 0 then s
  else match s.launch? n with
    | none => s
    | some l =>
      let s := s.setLaunch n { l with discarded := l.discarded + k }
      if l.expired then s.result8 l 8 fun v => (v + k * 2 ^ 32) % 2 ^ 64 else s

/-- The end status word of a timeline (R273). -/
def EndStatus.word (e : EndStatus) (cause : Nat) : Nat :=
  let (code, aborted) := match e with
    | .complete => (0, 0)
    | .wrapped => (1, 0)
    | .fault => (2, 1)
    | .fetchOob => (3, 1)
    | .badrec => (4, 1)
    | .killed => (5, 1)
  code * 2 ^ 16 + (if e == .fault then cause % 256 * 2 ^ 8 else 0) + aborted

/-- Whether an end adds the completion increment (R273). -/
def EndStatus.counts : EndStatus → Bool
  | .complete | .wrapped => true
  | _ => false

/-- The end status, and any increment, are written to a timeline with release at system scope (R24, R273, R503): whether
they could be, and the state. -/
def State.announce (s : State) (w : Who) (tl inc : Word) (e : EndStatus) (cause : Nat) : Bool × State :=
  if tl.toNat % 16 != 0 then (false, s)
  else match s.check w .store tl 16 with
    | .error _ => (false, s.hwBad w .store tl 16)
    | .ok l =>
      match s.linesBad l with
      | some _ => (false, s.hwBad w .store tl 16)
      | none =>
        let b := s.peeks l
        let value := leNat (b.take 8) + (if e.counts then inc.toNat else 0)
        (true, ((s.hwSent w.dom l).pokes l (natLe 8 value ++ natLe 8 (e.word cause))).chain [] l (some (unitRel (2 ^ 21 + 1) 4)))

/-! ### A launch's own work (R24, R273) -/

/-- The keys of the live contexts that satisfy p. -/
def State.liveCtxs (s : State) (p : Nat → Ctx → Bool) : List Nat :=
  (s.allCtxs.filter fun q => q.2.live && p q.1 q.2).map (·.1)

/-- The live tasks of a launch. -/
def State.tasksOf (s : State) (n : Nat) : List Nat := s.liveCtxs fun _ c => c.t.launch == n

/-- Whether a core's queues hold an entry of a launch. -/
def Core.holdsEntry (x : Core) (n : Nat) : Bool := x.runq.any (·.launch == n) || x.deque.any (·.launch == n)

/-- Whether an entry or a message of a launch is still on its way: a task that has still to begin. -/
def State.busyEntries (s : State) (n : Nat) : Bool :=
  s.msgs.any (·.launch == n) ||
  s.flights.any (fun p => p.2.ingress.any (·.launch == n)) ||
  s.flights.any (fun p => p.2.barriers.any fun b => b.2.launch == n && b.2.count == 0) ||
  s.cores.any fun p => p.2.holdsEntry n

/-- Whether an entry, a message or a command of the launch is still on its way. -/
def State.busyLaunch (s : State) (n : Nat) : Bool :=
  s.busyEntries n || s.cores.any fun p => p.2.eng.queue.any (·.launch == n) || p.2.loftq.any (·.launch == n)

/-- Reel commands that satisfy p stop at once and are discarded, the serial advancing past each (R200, R201). Their slots stay
as they are, until they are freed (R184, R200). -/
def State.stopEngines (s : State) (p : EngCmd → Bool) : State :=
  { s with cores := s.cores.map fun (k, x) => (k, { x with eng := x.eng.without p }) }

/-- The last error that a domain's command met in the engine context of a core, or of every core, is scrubbed (R386). -/
def Core.dropError (x : Core) (d : Dom) : Core :=
  if x.eng.errDom == d then { x with eng := { x.eng with error := 0 } } else x
def State.dropErrorsOf (s : State) (core : Nat) (d : Dom) : State := s.onCore core (·.dropError d)
def State.dropErrors (s : State) (d : Dom) : State := { s with cores := s.cores.map fun p => (p.1, p.2.dropError d) }

/-- A domain's state in a saved core (R386): the engine context's, the rows', the slots'. -/
def Core.scrubEngine (x : Core) (d : Dom) : Core :=
  { x with eng := x.eng.without (·.dom == d) }.dropError d
def Core.scrubRows (x : Core) (d : Dom) : Core :=
  let row := fun (r : Row) => r.tag == some d || r.doneTag == some d
  { x with loftq := x.loftq.filter (·.dom != d), acc := x.acc.filter (fun q => !row (find x.rows q.1 .zero)),
           rows := x.rows.filter fun q => !row q.2 }
def Core.scrubSlots (x : Core) (d : Dom) : Core := { x with slots := x.slots.filter (·.2.dom != d) }

/-- A domain's banks in a saved loft. -/
def Loft.scrubBanks (l : Loft) (d : Dom) : Loft :=
  let clean := fun (b : Bank) => if b.filled && b.dom == d then Bank.empty else b
  { l with bank0 := clean l.bank0, bank1 := clean l.bank1 }

/-- What LSTAT shows of a domain's passes is scrubbed, in one context or in all (R235). -/
def Ctx.dropPasses (c : Ctx) (d : Dom) : Ctx := if c.t.passDom == d then { c with t := { c.t with passes := 0 } } else c
def State.dropPassesOf (s : State) (k : Nat) (d : Dom) : State := s.setCtx k ((s.ctx k).dropPasses d)
def State.dropPasses (s : State) (d : Dom) : State :=
  { s with me := s.me.dropPasses d, ctxs := s.ctxs.map fun p => (p.1, p.2.dropPasses d) }

/-- Saved cores and saved lofts change; a saved context loses what LSTAT shows of a domain. -/
def State.onSaved (s : State) (f : Core → Core) (g : Loft → Loft) (c : Ctx → Ctx) : State :=
  { s with images := s.images.map fun i =>
      { i with cores := i.cores.map (fun p => (p.1, f p.2)), lofts := i.lofts.map (fun p => (p.1, g p.2)),
               ctxs := i.ctxs.map fun p => (p.1, c p.2) } }

/-- The launches with state in an image. -/
def Image.launches (i : Image) : List Nat :=
  ((i.ctxs.filter (·.2.live)).map (·.2.t.launch) ++ i.cores.flatMap fun p =>
    p.2.runq.map (·.launch) ++ p.2.deque.map (·.launch) ++ p.2.eng.queue.map (·.launch) ++
      (p.2.slots.filter (fun q => q.2.st != .empty)).map (·.2.launch) ++ p.2.rows.map (·.2.launch) ++
      p.2.launchq.map (·.parent)).eraseDups.filter (· != 0)

/-- Slots that satisfy p return to EMPTY (R54, R184). -/
def State.freeSlots (s : State) (p : TileSlot → Bool) : State :=
  s.cores.foldl (fun s (q : Nat × Core) =>
    q.2.slots.foldl (fun s (t : Nat × TileSlot) =>
      if t.2.st != .empty && p t.2 then s.setSlot q.1 (.ofNat 5 t.1) .empty else s) s) s

/-- A message has been received, by its colour (R471). -/
def Core.receives (x : Core) (e : Entry) : Core :=
  if e.kind != .message then x
  else if e.colour then { x with recv1 := x.recv1 + 1 } else { x with recv0 := x.recv0 + 1 }
/-- A message that its core's queue has no room for after all is on its way again (R276): it counts as received once it enters. -/
def Core.unreceives (x : Core) (e : Entry) : Core :=
  if e.kind != .message then x
  else if e.colour then { x with recv1 := x.recv1 - 1 } else { x with recv0 := x.recv0 - 1 }
def State.received (s : State) (core : Nat) (e : Entry) : State :=
  if e.kind != .message then s else s.onCore core (·.receives e)

/-- A message is received for a core of a flight that is saved for its partition. -/
def State.receivedSaved (s : State) (core part : Nat) (e : Entry) : State :=
  { s with images := s.images.map fun i =>
      if i.flight && i.part == part && !i.spent then
        { i with cores := i.cores.map fun p => if p.1 == core then (p.1, p.2.receives e) else p }
      else i }

/-- The core at which a message is counted as received; one to another chip at its sender. -/
def State.countAt (s : State) (e : Entry) : Nat := if e.targetChip == s.chip then e.target else e.sender

/-- Entries and messages of a launch are gone; the messages on their way count as received (R471). -/
def State.dropEntries (s : State) (n : Nat) : State :=
  let keep := fun (l : List Entry) => l.filter (·.launch != n)
  let s := (s.msgs.filter (·.launch == n)).foldl (fun (s : State) e => s.received (s.countAt e) e) s
  { s with
    msgs := keep s.msgs,
    flights := s.flights.map (fun (k, f) => (k, { f with ingress := keep f.ingress })),
    cores := s.cores.map fun (k, x) => (k, { x with runq := keep x.runq, deque := keep x.deque }) }

/-- The scrub of a launch's end (R54, R225, R258, R386). -/
def State.scrubLaunch (s : State) (n : Nat) : State :=
  let s := s.scrubLoft (·.launch == n) (·.launch == n) (·.launch == n)
  let s := s.freeSlots (·.launch == n)
  { s with flights := s.flights.map fun (k, f) => (k, { f with barriers := f.barriers.filter (·.2.launch != n) }) }

/-! ### Granules (R50) -/

/-- Hardware zeroes a granule whenever its tag changes (R50). -/
def State.retag (s : State) (core g : Nat) (t : Tag) : State :=
  if s.granule core g == t then s
  else ({ s with mem := Memory.clear s.mem (spadKey core (4096 * g)) 4096 }.forgetRels (spadKey core (4096 * g)) 4096).onCore core
    fun x => { x with tags := put x.tags g t }

/-- A granule is taken or freed by hardware: retagged, and zeroed in any case (R354). -/
def State.wipe (s : State) (core g : Nat) (d : Dom) : State :=
  ({ s with mem := Memory.clear s.mem (spadKey core (4096 * g)) 4096 }.forgetRels (spadKey core (4096 * g)) 4096).onCore core
    fun x => { x with tags := put x.tags g { valid := true, dom := d } }

end Sys2Proof.Machine
end
end

