-- ==== Sys2Proof/Machine/Frames.lean ====
section
/-!
DEFINITION. The domain stack (R337, R338, R342, R343, R357 to R366): pushing and popping a frame, the window's
copy-back, the unwind, and the diversion of a task at its deadline (R403, R424).
-/
noncomputable section
namespace Sys2Proof.Machine

/-! ### Registers and workspaces (R34, R36) -/

/-- The registers that stand in a workspace, from offset 8 on. -/
def Regs.spill (r : Regs) : List Byte := (List.range 0x538).map fun i => (r.wsByte (8 + i)).getD 0

/-- The registers as the workspace at a key holds them. -/
def Regs.refill (r : Regs) (m : List Host.Cell) (a : Nat) : Regs :=
  { r with
    w := Vector.ofFn fun i => if i.val == 0 then 0 else Memory.word m (a + 8 * i.val),
    v := Vector.ofFn fun i => BitVec.ofNat 512 (leNat (Memory.bytes m (a + 0x100 + 64 * i.val) 64)),
    m := Vector.ofFn fun i => Memory.word m (a + 0x500 + 8 * i.val) }

/-- The memory that holds the bytes of a workspace at a scratchpad key for a context: registers of other contexts stand in some of
them where workspaces overlap (R32). -/
def State.workspace (s : State) (k a : Nat) : List Host.Cell :=
  if (s.neighbours k a).isEmpty then s.mem
  else Memory.setBytes [] a ((List.range 0x540).map fun i =>
    (regByte (spadCore (a + i)) (spadOff (a + i)) (s.allCtxs.filter (·.1 != k))).getD (Memory.get s.mem (a + i)))

/-- The lowest-numbered free frame (R360). -/
def State.freeFrame (s : State) (core : Nat) : Option Nat :=
  ((List.range 16).map (36 + ·)).find? fun g => !(s.framesIn core).any (· == g)

/-- c.swin for the innermost frame (R55). -/
def swinOf : List Frame → Word
  | [] => 0
  | f :: _ => (localWindow (4096 * f.granule + 0x600) &&& 0x00FFFFFFFFFFFFC0) ||| BitVec.ofNat 64 (f.words - 1)

/-- c.gstk (R359). -/
def gstkOf : List Frame → Word
  | [] => 0
  | f :: r => BitVec.ofNat 64 (r.length + 1 + 16 * f.granule)

/-! ### Pushing and popping (R337, R338) -/

/-- The psw bits that a frame's entry gives back: RM, the flags, XS and WU (R338, R358). -/
def keptPsw : BitVec 19 := 0xFFC

/-- The bits of the psw that GCALL restarts for the callee: RM, the flags and WU (R25, R337, R390). -/
def freshPsw : BitVec 19 := 0xFF8

/-- Enters a frame: the caller's registers go to its workspace, the granule is the callee's, and its code begins
(R337). The window's bytes have been read. -/
def State.pushFrame (s : State) (f : Frame) (entry : Word) (window : List Byte) : State :=
  let c := s.me
  let core := homeOf s.cur c
  let m := match windowKey core c.c.wp.toNat with
    | some a => Memory.setBytes s.mem (a + 8) c.r.spill
    | none => s.mem
  let s := { s with mem := m }.wipe core f.granule f.callee
  let s := { s with mem := Memory.setBytes s.mem (spadKey core (4096 * f.granule + 0x600)) window }
  let (ttb, asid) := s.space s.myPart f.callee
  let wp := localWindow (4096 * f.granule)
  let w1 := wp + 0x600
  let w2 := BitVec.ofNat 64 f.words
  let frames := f :: c.frames
  let csr := { c.c with
    psw := c.c.psw &&& ~~~ freshPsw, wp := wp, dom := f.callee, asid := asid, ttb := ttb, swin := swinOf frames,
    sr := seedSr c.c.seed w1 w2 0 0 }
  { s with me := { c with
      pc := entry &&& ~~~ 1, frames := frames, c := csr.setGd frames.length,
      r := { Regs.zero with w := (Regs.zero.w.set 1 w1).set 2 w2, sc := freshSc } } }

/-- Whether a reel command belongs to a frame: issued by the task while the frame was innermost (R366). -/
def EngCmd.ofFrame (e : EngCmd) (k serial depth : Nat) : Bool := e.ctx == k && e.task == serial && e.depth == depth
def LoftCmd.ofFrame (e : LoftCmd) (k serial depth : Nat) : Bool := e.ctx == k && e.task == serial && e.depth == depth

/-- Whether a command of the innermost frame of a context is not complete (R338). -/
def State.frameBusy (s : State) (k : Nat) : Bool :=
  let c := s.ctx k
  let x := s.core (homeOf k c)
  x.eng.queue.any (·.ofFrame k c.c.serial c.frames.length) || x.loftq.any (·.ofFrame k c.c.serial c.frames.length)

/-- The innermost frame of a context is scrubbed and popped, and the caller's state restored (R338 steps 3 and 4, R386).
-/
def State.popFrame (s : State) (k : Nat) : State :=
  let c := s.ctx k
  match c.frames with
  | [] => s
  | f :: rest =>
    let depth := rest.length + 1
    let core := homeOf k c
    let s := s.stopEngines fun e => e.ofFrame k c.c.serial depth
    let s := s.scrubLoft (·.ofFrame k c.c.serial depth)
      (fun b => b.ctx == k && b.task == c.c.serial && b.depth == depth)
      (fun r => r.ctx == k && r.task == c.c.serial && r.depth == depth)
    let s := s.wipe core f.granule 0
    let (ttb, asid) := s.space (s.flightPart (s.servedBy k)) f.callerDom
    let r0 := { Regs.zero with sc := f.sc, cb := f.cb }
    let r := match windowKey core f.callerWp.toNat with
      | some a => r0.refill (s.workspace k a) a
      | none => r0
    let csr := { c.c with
      psw := (c.c.psw &&& ~~~ keptPsw) ||| (f.psw &&& keptPsw), wp := f.callerWp, dom := f.callerDom, asid := asid,
      ttb := ttb, swin := swinOf rest, sr := f.sr }
    let s := (s.dropErrorsOf core f.callee).dropPassesOf k f.callee
    let t := (s.ctx k).t
    s.setCtx k { c.unblock with
      frames := rest, r := r, pc := f.retPc, c := (csr.setPp false).setGd rest.length, vs := [], t := t }

/-- The caller of a popped frame receives its status (R338 step 5). -/
def State.deliver (s : State) (k : Nat) (f : Frame) (status : Word) : State :=
  let c := s.ctx k
  s.setCtx k { c with pc := f.retPc, r := (c.r.setW f.d status).pushL status }

/-! ### The window (R342, R362) -/

/-- What one 8-byte store of the caller into its window comes to. -/
inductive WordStore where
  | ok (s : State)
  | refused (a : Word)
  | wait (w : Wait)
  /-- the payer's bucket of a port class is empty -/
  | stall (cls : Nat)
  /-- a bad line: the cause, the word's address, the line's key and owner -/
  | fatal (c : Cause) (a : Word) (key : Nat) (owner : Dom)

/-- What a word of a copy-back makes leave the callee (R378): class 0, and class 1 or 2 where the window lies in host memory or on
another chip. -/
def State.payerEgress (s : State) (d : Dom) (l : List Where) : List (Dom × Nat × Nat) :=
  let host := l.filter fun p => isHost p.key
  (d, 0, l.length) :: (if host.isEmpty then [] else [(d, 1, host.length)]) ++ s.sentOut d l

/-- One word of a window is stored as the caller (R362): a word whose translation fails is parked as a caller store, and one in a
unit of a parked store waits (R307). A copy-back is charged to the callee, and stalls at its empty bucket in either mode (R378 to
R380). DESIGN CHOICE (log 65): hardware's own zeroing is charged as the caller's stores are, and does not stall. -/
def State.windowWord (s : State) (k : Nat) (who : Who) (a : Word) (b : List Byte) (bits : Nat) (pc : Word) (payer : Option Dom) :
    WordStore :=
  if s.unitHeld k (s.ctx k) a 8 then .wait .replay
  else match s.check who .store a 8 with
  | .error (c, x) =>
    if c == .xltStore && stepOf x.toNat c == 2 then
      match s.parkIn k who x false [(a, numbered b)] bits pc payer with
      | some t => .ok t
      | none => .wait .replay
    else if c.precise then .refused x
    else match s.walkBad who x.toNat with
      | some (e, key, o) => .fatal e x key o
      | none => .refused x
  | .ok l =>
    match s.linesBad l with
    | some (c, key, o) => .fatal c a key o
    | none =>
      let charges := match payer with
        | some d => s.payerEgress d l
        | none => s.egressOf who.dom true l
      match if payer.isSome then s.egFirst charges else none with
      | some (_, cls, _) => .stall cls
      | none =>
        match (s.chargeAll charges).linkOut l 0 (s.ctx k).t.launch with
        | none => .wait .send
        | some t => .ok ((t.pokes l b).keepTlbs who .store a 8)

/-- A domain of the task in a context as an agent (R362, R448). -/
def State.domainWho (s : State) (k : Nat) (d : Dom) : Who :=
  let (ttb, asid) := s.space (s.flightPart (s.servedBy k)) d
  { s.whoOf k with asid := asid, ttb := ttb, dom := d }

/-- The caller of a frame as an agent. -/
def State.callerWho (s : State) (k : Nat) (f : Frame) : Who := s.domainWho k f.callerDom

/-- Words still to be zeroed in a discarded call's window are stored, as far as the replay queue, and the log, have room (R342,
R382): a word that is refused is left. -/
def State.zeroStep (s : State) (k : Nat) : Nat → State
  | 0 => s
  | n + 1 =>
    let c := s.ctx k
    match c.zeroing with
    | [] => s
    | (a, d) :: rest =>
      match s.windowWord k (s.domainWho k d) a (natLe 8 0) 0 c.pc none with
      | .ok t => (t.setCtx k { t.ctx k with zeroing := rest }).zeroStep k n
      | .refused _ => (s.setCtx k { c with zeroing := rest }).zeroStep k n
      | .wait _ | .stall _ => s
      | .fatal e x key o =>
        if e == .macFail && s.logFull (ctxDie k) then s
        else ((s.setCtx k { c with zeroing := [] }).logMacOf k d e key o).imprecise k e x

/-- The addresses of a frame's window words. -/
def Frame.windowWords (f : Frame) : List Word := (List.range f.words).map fun i => f.window + BitVec.ofNat 64 (8 * i)

/-- The caller of a discarded frame goes on at its return point with a status, its window zeroed (R342, R363). -/
def State.refuseCall (s : State) (k : Nat) (f : Frame) (status : Word) : State :=
  let s := (s.popFrame k).deliver k f status
  let c := s.ctx k
  (s.setCtx k { c with zeroing := c.zeroing ++ f.windowWords.map (·, f.callerDom) }).zeroStep k (c.zeroing.length + f.words)

/-! ### The statuses of R339 -/

def gateRevoked : Word := 0xFFFFFFFFFFFFFFFF
def gateBudget : Word := 0xFFFFFFFFFFFFFFFE
def gateDeadline : Word := 0xFFFFFFFFFFFFFFFD

/-- The status the caller of an unwind's trigger frame receives (R363). -/
def UnwindWhy.status : UnwindWhy → Word
  | .budget => gateBudget
  | .deadline => gateDeadline
  | _ => gateRevoked

/-! ### Leaving a trap or a wait -/

/-- A context is taken out of a wait (R477). One blocked in HWAIT or SLEEP keeps its PC in c.xpc (R151). -/
def State.leftWait (s : State) (k : Nat) : State :=
  let c := s.ctx k
  let s := if c.wasAsleep then s.noteWoke c.t.launch (ctxFlight k) else s
  match c.st with
  | .waiting .hwait | .waiting (.sleep _) => s.setCtx k { c with c := { c.c with xpc := c.pc } }
  | _ => s

/-- A context that is HELD leaves that state: its trap is disposed of (R342, R456). -/
def State.leaveTrap (s : State) (k : Nat) : State :=
  let s := s.leftWait k
  let c := s.ctx k
  match c.st with
  | .held => s.clearRecord (s.recordKey k)
  | _ => s

/-! ### Cleanup and wrap-up of a frame (R343, R364) -/

/-- The innermost frame is diverted to its cleanup (R343): its workspace is zeroed, its window copy kept. An unwind step
loads the address space of the domain that runs (R448). -/
def State.startCleanup (s : State) (k : Nat) (f : Frame) (rest : List Frame) (status : Word) : State :=
  let s := s.leaveTrap k
  let c := s.ctx k
  let wp := localWindow (4096 * f.granule)
  let w := ((Regs.zero.w.set 1 (wp + 0x600)).set 2 (BitVec.ofNat 64 f.words)).set 3 status
  let r := { c.r with w := w, v := Regs.zero.v, m := Regs.zero.m, l := Regs.zero.l, o := Regs.zero.o,
                      q0 := [], q1 := [], q2 := [], q3 := [] }
  let g := { f with cleanup := true, wrapup := false, endLeft := f.per, status := status, back := 0, refused := none }
  let (ttb, asid) := s.space (s.flightPart (s.servedBy k)) f.callee
  let csr := { c.c with psw := setBit c.c.psw 11 false, xpc := c.pc, xpsw := c.c.psw.setWidth 64, ttb := ttb, asid := asid }
  let at_ := spadKey (homeOf k c) (4096 * f.granule)
  let s := { s with mem := Memory.clear s.mem at_ 0x600 }.forgetRels at_ 0x600
  s.setCtx k { ({ c with c := csr }).unblock with
    pc := f.cleanEntry &&& ~~~ 1, r := r, frames := g :: rest, vs := [] }

/-- The innermost frame is diverted to its wrap-up (R364): its workspace stands, its task's loft commands end as R236
states. -/
def State.startWrapup (s : State) (k : Nat) (f : Frame) (rest : List Frame) : State :=
  let s := s.leaveTrap k
  let c := s.ctx k
  let s := s.divertLoft k c.c.serial (rest.length + 1) (homeOf k c)
  let c := s.ctx k
  let left := ((s.launch? c.t.launch).map (·.wrapBudget)).getD 0
  let g := { f with wrapup := true, endLeft := left, status := gateDeadline, back := 0, refused := none }
  let (ttb, asid) := s.space (s.flightPart (s.servedBy k)) f.callee
  let csr := { c.c with psw := setBit c.c.psw 11 true, xpc := c.pc, xpsw := c.c.psw.setWidth 64, ttb := ttb, asid := asid }
  s.setCtx k { ({ c with c := csr }).unblock with pc := f.wrapEntry &&& ~~~ 1, frames := g :: rest }

/-! ### Diversion of a task (R403, R424) -/

/-- A task outside any gate is diverted to the launch's wrap-up entry (R403). A suspended task stays suspended. -/
def State.divertTask (s : State) (k : Nat) : State :=
  let c := s.ctx k
  match s.launch? c.t.launch with
  | none => s
  | some _ =>
    let s := (s.leftWait k).divertLoft k c.c.serial 0 (homeOf k c)
    let s := s.onLaunch c.t.launch fun l => { l with anyDiverted := true }
    let (entry, left) := ((s.launch? c.t.launch).map fun l => (l.wrapEntry, l.wrapBudget)).getD (0, 0)
    let c := s.ctx k
    let csr := { c.c with psw := setBit c.c.psw 11 true, xpc := c.pc, xpsw := c.c.psw.setWidth 64 }
    let st := if c.st == .waiting .suspended then c.st else .ready
    s.setCtx k { ({ c with c := csr }).unblock with
      st := st, pc := entry &&& ~~~ 1,
      t := { c.t with divPc := c.pc, wrapLeft := some left, divPending := false, diverted := true } }

/-! ### The unwind (R363 to R365) -/

/-- The depths of the frames in a running cleanup. -/
def cleanups : List Frame → List Nat
  | [] => []
  | f :: r => if f.cleanup && !f.discard then (r.length + 1) :: cleanups r else cleanups r

/-- How far the outcome of an unwind reaches (R363, R365): the end of a task over a revocation, and that over a budget. -/
def UnwindWhy.rank : UnwindWhy → Nat
  | .deadline => 0
  | .budget => 1
  | .revoke _ | .kill _ => 2
  | .ends => 3

/-- Whether an unwind under way takes out the frame at a depth as the event `why` would (R363, R365): not one that a running
cleanup has called. -/
def Ctx.covered (c : Ctx) (why : UnwindWhy) (depth : Nat) : Bool :=
  c.unwind.any fun u =>
    why.rank ≤ u.why.rank && u.depth ≤ depth && !(cleanups c.frames).any fun r => u.depth ≤ r && r < depth

/-- A new unwind of a stack (R365): it takes the place of those of its trigger frame and inside it, but for those of frames that a
running cleanup has called, and goes before those of frames outside it. A task's end ends every other. -/
def Ctx.addUnwind (c : Ctx) (u : Unwind) : Ctx :=
  if c.covered u.why u.depth then c
  else
    let inner := c.unwind.filter fun v => u.depth < v.depth && (cleanups c.frames).any fun r => u.depth ≤ r && r < v.depth
    let outer := c.unwind.filter fun v => (v.depth < u.depth || (v.depth == u.depth && v.why == .deadline)) && u.why != .ends
    { c with unwind := inner ++ u :: outer }

/-- Whether a wrap-up among a list of frames has overrun its budget (R364). -/
def overrun (l : List Frame) : Bool := l.any fun f => f.wrapup && f.discard

/-- Whether a diversion still waits for older instructions of its task that the vector stream has not executed (R46, R402). Those
behind one that waits for a queue register would never be (R47), and are discarded. -/
def Ctx.lags (c : Ctx) : Bool := c.stalled && (c.vs.head?.map Behind.on) != some .queue

/-- Whether the unwind of a context has something to do before the context issues again. A frame that a cleanup or a wrap-up
has called runs on, until that cleanup or wrap-up has overrun. -/
def Ctx.unwindDue (c : Ctx) : Bool :=
  match c.unwind with
  | [] => c.t.divPending && !c.lags
  | u :: _ =>
    match c.frames with
    | [] => true
    | f :: r =>
      f.discard || r.length + 1 < u.depth ||
      (if u.why == .deadline && !overrun r then !f.wrapup && !r.any (·.wrapup)
       else (cleanups ((f :: r).take (r.length + 2 - u.depth))).isEmpty)

/-- The task is diverted once its stack is empty; a HELD one when its handler resumes it (R424). -/
def State.divertEmpty (s : State) (k : Nat) : State :=
  let c := s.ctx k
  if c.st == .held then s.setCtx k { c with t := { c.t with divPending := true, diverted := true } } else s.divertTask k

/-- Runs the unwind of a context until code of a frame runs, or it is over (R342, R363 to R365). -/
def State.runUnwind (s : State) (k : Nat) : Nat → State
  | 0 => s
  | n + 1 =>
    let c := s.ctx k
    if !c.unwindDue then s
    else match c.unwind, c.frames with
      | [], [] => s.divertEmpty k
      | [], _ :: _ =>
        (s.setCtx k { c with unwind := [{ why := .deadline, depth := 1 }],
                             t := { c.t with divPending := false, diverted := true } }).runUnwind k n
      | u :: us, [] =>
        let s := s.setCtx k { c with unwind := us }
        if u.why == .ends then s.taskEnded k
        else if u.why == .deadline then s.divertEmpty k
        else s.runUnwind k n
      | u :: us, f :: rest =>
        let depth := rest.length + 1
        if depth < u.depth then (s.setCtx k { c with unwind := us }).runUnwind k n
        else if f.discard then
          let s := s.leaveTrap k
          let s :=
            if u.why == .deadline || (depth == u.depth && u.why != .ends) then s.refuseCall k f u.why.status
            else s.popFrame k
          let c := s.ctx k
          let s := if depth == u.depth && u.why != .deadline && u.why != .ends then s.setCtx k { c with unwind := us } else s
          s.runUnwind k n
        else if u.why == .deadline && !overrun rest then s.startWrapup k f rest
        else s.startCleanup k f rest u.why.status

/-- Whether an imprecise cause has reached a context, so that it runs no more code of its own. -/
def Ctx.struck (c : Ctx) : Bool := c.imp.isSome || c.st == .waiting .fatal

/-- The frame in which a context goes on after a change of its stack: a bad line of its domain's address-space entry is fatal
(R371, R448). -/
def State.respaced (s before : State) (k : Nat) : State :=
  let c := s.ctx k
  if c.st == .ready && c.frames != (before.ctx k).frames then s.spaceFault k (s.flightPart (s.servedBy k)) c.c.dom else s

/-- What an event that reaches a stack brings about at once (R342 to R365). A context that an imprecise cause has stopped is left
to the end of its launch (R426, R457). -/
def State.unwound (s : State) (k : Nat) : State := if (s.ctx k).struck then s else (s.runUnwind k 40).respaced s k

/-- The depth of the outermost frame whose callee is a domain; 0 for none. -/
def outermost (d : Dom) : List Frame → Nat
  | [] => 0
  | f :: r => if outermost d r != 0 then outermost d r else if f.callee == d then r.length + 1 else 0

/-- The depths of the frames whose callee is a domain, the outermost first. -/
def framesOf (d : Dom) (l : List Frame) : List Nat :=
  (List.range l.length).filterMap fun i => if (l.reverse[i]?).any (·.callee == d) then some (i + 1) else none

/-- A revocation or kill reaches a context (R363, R365): the frames it unwinds, and the state. A frame of the domain that a
running cleanup has called is the trigger of an unwind of its own. -/
def State.revokeIn (s : State) (k : Nat) (d : Dom) : Nat × State :=
  let c := s.ctx k
  let j := outermost d c.frames
  if !c.live || j == 0 then (0, s)
  else
    let marked := { c with frames := c.frames.map fun f => if f.callee == d then { f with discard := true } else f }
    let c2 := (framesOf d c.frames).foldl (fun (c : Ctx) i => c.addUnwind { why := .revoke d, depth := i }) marked
    (c.frames.length + 1 - j, (s.setCtx k c2).unwound k)

/-- Frame `depth` overruns its per-call budget (R361, R363, R365). -/
def State.budgetIn (s : State) (k depth : Nat) : State :=
  (s.setCtx k ((s.ctx k).addUnwind { why := .budget, depth := depth })).unwound k

/-- A task stops because its launch ends abnormally, or is ended for another reason (R273, R363): with no frame it is
gone, else its cleanups run first. DESIGN CHOICE (log 65): a cleanup that an imprecise cause has stopped is discarded. -/
def State.stopTask (s : State) (k : Nat) : State :=
  let c := s.ctx k
  match c.frames with
  | [] => (s.leaveTrap k).removeTask k
  | f :: r =>
    if c.unwind.any (·.why == .ends) && !c.struck then s
    else
      let c := if c.struck && f.cleanup then { c with frames := { f with discard := true } :: r } else c
      ((s.setCtx k (c.addUnwind { why := .ends, depth := 1 })).runUnwind k 40).respaced s k

/-- A context as its task stands at the oldest instruction that the vector stream has not executed, where nothing younger has left
the registers: it goes on from there. -/
def Ctx.back (c : Ctx) : Ctx :=
  match c.vs.filterMap (·.later) with
  | [] => c
  | l :: _ =>
    if !l.risky then c
    else
      { c with
        pc := l.pc, fmt := l.fmt, rep := l.rep, vs := c.vs.takeWhile (·.later.isNone), r := { l.r with v := c.r.v, m := c.r.m },
        c := { c.c with psw := l.psw, ret := l.ret, sr := l.sr } }

/-- A diversion reaches a task (R363, R424): it waits for an unwind under way (R365), and for older instructions. In mode 2 no
instruction retires after the expiry (R423), so it goes back to the oldest that has not. -/
def State.divert (s : State) (k : Nat) : State :=
  let c := s.ctx k
  let c := if ((s.launch? c.t.launch).any (·.mode == 2)) && c.unwind.isEmpty && !c.t.diverted then c.back else c
  let s := s.setCtx k c
  if c.t.diverted then s
  else if !c.unwind.isEmpty || c.lags then s.setCtx k { c with t := { c.t with divPending := true, diverted := true } }
  else if c.frames.isEmpty then s.divertEmpty k
  else (s.setCtx k { c with unwind := [{ why := .deadline, depth := 1 }], t := { c.t with diverted := true } }).unwound k

/-- Whether a deadline expiry still has to reach a task (R404, R424): not one that its handler has ended; an abnormal end
under way takes precedence (R426). -/
def State.divertDue (s : State) (k : Nat) : Bool :=
  let c := s.ctx k
  c.live && !c.t.diverted && !c.struck && !c.unwind.any (·.why == .ends) && match s.launch? c.t.launch with
    | some l => l.expired && l.ending.isNone
    | none => false

end Sys2Proof.Machine
end
end

