-- ==== Sys2Proof/Machine/Gates.lean ====
section
/-!
DEFINITION. The GATE group (R336 to R346, R355, R356, R388 to R400): calling and returning, publishing and withdrawing,
inspecting, keys and meters.
-/
noncomputable section
namespace Sys2Proof.Machine

/-! ### Descriptors (R355) -/

def Gate.word (g : Gate) (i : Nat) : Word := g.words.getD i 0
def Gate.callee (g : Gate) : Dom := (g.word 4).extractLsb' 0 12
def Gate.windowSize (g : Gate) : Nat := ((g.word 3).extractLsb' 24 6).toNat + 1
def Gate.budget (g : Gate) : Nat := ((g.word 3).extractLsb' 32 32).toNat
def Gate.number (g : Gate) : Nat := ((g.word 3).extractLsb' 0 12).toNat
def Gate.meter (g : Gate) : Bool := (g.word 3).getLsbD 16
def Gate.allowCount (g : Gate) : Nat := ((g.word 4).extractLsb' 16 16).toNat

/-- Allow entry i, a halfword from offset 0x24 on. -/
def Gate.allow (g : Gate) (i : Nat) : BitVec 16 := (g.word ((0x24 + 2 * i) / 8)).extractLsb' (8 * ((0x24 + 2 * i) % 8)) 16

/-- Whether the gate admits a domain that belongs to a partition, if to any (R347); the entry 0xFFF admits every domain of its
partition. -/
def Gate.admits (g : Gate) (d : Dom) (part : Option Nat) : Bool :=
  (List.range g.allowCount).any fun i =>
    let e := (g.allow i).extractLsb' 0 12
    if e == 0xFFF then part == some g.part else e == d && (d != 0 || part == some g.part)

/-- Whether an entry point is outside its limits. -/
def badEntry (e : Word) : Bool := e == 0 || e.getLsbD 0

/-- BADDESC (R392): a reserved field is nonzero, or a field outside the limits of R355. -/
def Gate.bad (g : Gate) : Bool :=
  badEntry (g.word 0) || badEntry (g.word 1) || badEntry (g.word 2) || g.budget == 0 ||
  (g.word 3).extractLsb' 30 2 != 0 || (g.word 3).extractLsb' 17 7 != 0 || (g.word 3).extractLsb' 12 4 != 0 ||
  (g.word 4).extractLsb' 12 4 != 0 || 14 < g.allowCount ||
  (List.range 14).any fun i => (g.allow i).extractLsb' 12 4 != 0

/-- The eight words of 64 bytes. -/
def wordsOf (b : List Byte) : List Word := (List.range 8).map fun i => BitVec.ofNat 64 (leNat ((b.drop (8 * i)).take 8))

/-! ### GCALL and GRET (R337, R338, R390, R391) -/

/-- The frame of a call (R337, R358). -/
def State.frameFor (s : State) (d : WReg) (g : Gate) (win : Word) (granule : Nat) : Frame :=
  let c := s.me
  { retPc := c.pc + 4, callerWp := c.c.wp, window := win, words := g.windowSize, callerDom := c.c.dom, callee := g.callee,
    gate := BitVec.ofNat 12 g.number, discard := false, cleanup := false, wrapup := false, psw := c.c.psw, sr := c.c.sr,
    sc := c.r.sc, cb := c.r.cb, budget := g.budget, per := g.budget, endLeft := 0, status := 0, granule := granule, d := d,
    wrapEntry := g.word 2, cleanEntry := g.word 1, back := 0, refused := none }

/-- GCALL (R337, R360, R390). -/
def execGcall (d a b : WReg) (s : State) : Out :=
  issue (.gcall d a b) s fun s =>
    let n := (s.w a).toNat
    let win := s.w b
    if s.me.c.s then .trap .priv 0 s
    else if s.hasParked then .wait .replay s
    else if !s.me.vs.isEmpty then .wait .queue s
    else match if n < 4096 then find? s.gates n else none with
      | none => .trap .gate 0 s
      | some g =>
        if !g.admits s.me.c.dom (s.domPart s.me.c.dom s.myPart) || 8 ≤ s.me.frames.length || (isG s.cur && s.me.t.home.isNone) then
          .trap .gate 0 s
        else if !aligned win 64 then .trap .align win s
        else match s.check s.who .load win (8 * g.windowSize) with
          | .error (c, x) => (s.refused c x : Mem Unit).then fun _ t => .done t
          | .ok _ =>
            match s.freeFrame (homeOf s.cur s.me) with
            | none => .wait .frame s
            | some granule =>
              if s.myLogFull then .wait .log s
              else (s.load win (8 * g.windowSize)).then fun bytes t =>
                let u := t.log 1 s.me.c.dom g.callee (BitVec.ofNat 64 n) (BitVec.ofNat 64 g.windowSize)
                  (BitVec.ofNat 64 (s.me.frames.length + 1))
                let v := (u.retired false).pushFrame (s.frameFor d g win granule) (g.word 0) bytes
                .whole (v.respaced s s.cur).traced

/-- How far a copy-back came: the words done, the lowest refused address, and why it stopped if it did; at an empty bucket, of
which class. -/
structure Copied where
  done : Nat
  refused : Option Word
  why : Option Wait
  cls : Nat
  fatal : Option (Cause × Word × Nat × Dom)
  s : State

/-- Copies words of the window copy back from word i on (R362). -/
def State.copyBack (s : State) (who : Who) (f : Frame) (bits : Nat) (i : Nat) (refused : Option Word) : Nat → Copied
  | 0 => { done := i, refused := refused, why := none, cls := 0, fatal := none, s := s }
  | n + 1 =>
    let b := Memory.bytes s.mem (spadKey (homeOf s.cur s.me) (4096 * f.granule + 0x600 + 8 * i)) 8
    match s.windowWord s.cur who (f.window + BitVec.ofNat 64 (8 * i)) b bits s.me.pc (some f.callee) with
    | .ok t => t.copyBack who f bits (i + 1) refused n
    | .refused a => s.copyBack who f bits (i + 1) (refused.orElse fun _ => some a) n
    | .wait w => { done := i, refused := refused, why := some w, cls := 0, fatal := none, s := s }
    | .stall cls => { done := i, refused := refused, why := some .egress, cls := cls, fatal := none, s := s }
    | .fatal c a key o => { done := i, refused := refused, why := none, cls := 0, fatal := some (c, a, key, o), s := s }

/-- The innermost frame of the issuing context changes. -/
def State.onFrame (s : State) (g : Frame → Frame) : State :=
  match s.me.frames with
  | [] => s
  | f :: r => { s with me := { s.me with frames := g f :: r } }

/-- A GRET in a cleanup (R343): nothing is copied back. At the trigger of an unwind the caller goes on (R363). -/
def State.cleanupReturn (s : State) (f : Frame) (depth : Nat) : State :=
  let k := s.cur
  match s.me.unwind.dropWhile (depth < ·.depth) with
  | u :: us =>
    if depth == u.depth && u.why != .ends then
      let t := s.refuseCall k f u.why.status
      ((t.setCtx k { t.ctx k with unwind := us }).respaced s k).unwound k
    else ((s.popFrame k).respaced s k).unwound k
  | [] => (s.refuseCall k f f.status).respaced s k

/-- A GRET whose copy-back is complete (R338 steps 3 to 5, R362, R364). The caller takes the POT of a refused word at its return
point before anything else reaches it there. -/
def State.normalReturn (s : State) (f : Frame) (status : Word) (refused : Option Word) (bits : Nat) : State :=
  let k := s.cur
  let t := ((s.popFrame k).deliver k f (if f.wrapup then gateDeadline else status)).respaced s k
  (match refused with
   | some a => if (t.ctx k).struck then t else t.takeTrap .pot a f.retPc f.retPc bits 0
   | none => t).unwound k

/-- The copy-back of a GRET as far as it comes (R362): the words done, and the lowest one refused, are kept while it waits. A
stall at the callee's bucket is logged as it begins, once the log has room (R380, R382). -/
def State.gretCopy (s : State) (f : Frame) (status : Word) (bits : Nat) : Res :=
  let i := f.back - 1
  let c := s.copyBack (s.callerWho s.cur f) f bits i f.refused (f.words - i)
  let kept := c.s.onFrame fun f => { f with back := c.done + 1, refused := c.refused }
  match c.fatal, c.why with
  | some (e, x, key, o), _ =>
    if e == .macFail && c.s.myLogFull then .wait .log kept else .fatal e x (c.s.logMacOf c.s.cur f.callerDom e key o)
  | none, some .egress =>
    if s.me.st == .waiting .egress && c.done == i then .wait .egress kept
    else if c.s.myLogFull then .wait .log kept
    else .wait .egress (kept.log 5 f.callee 0 (.ofNat 64 c.cls) (f.window + BitVec.ofNat 64 (8 * c.done)) (kept.egLevel f.callee c.cls))
  | none, some w => .wait w kept
  | none, none => .whole ((c.s.retired false).normalReturn f status c.refused bits).traced

/-- GRET (R338, R343, R364, R380, R391). `back` counts the words copied, plus one once the copy-back has begun. -/
def execGret (a : WReg) (s : State) : Out :=
  issue (.gret a) s fun s =>
    match s.me.frames with
    | [] => .trap .gate 0 s
    | f :: rest =>
      if f.back == 0 && s.hasParked then .wait .replay s
      else if !s.me.vs.isEmpty then .wait .queue s
      else if s.frameBusy s.cur then .wait .unwind s
      else if f.cleanup then .whole ((s.retired false).cleanupReturn f (rest.length + 1)).traced
      else s.gretCopy f (setBit (s.w a) 63 false) (s.me.bits (.gret a))

/-! ### GPUB (R336, R392) -/

/-- The key slot of a domain, with its number. -/
def slotOf (l : List (Nat × KeySlot)) (d : Dom) : Option (Nat × KeySlot) := l.find? fun p => p.2.dom == d

/-- Whether any bucket of a domain is enabled (R400). -/
def State.metered (s : State) (d : Dom) : Bool := (List.range 4).any fun c => (find s.egress (egKey d c) .idle).enable

/-- The status of GPUB for a descriptor (R392). -/
def State.gpubStatus (s : State) (g : Gate) : Nat :=
  let d := s.me.c.dom
  if g.bad then 1
  else if g.callee != d then 2
  else match slotOf s.keys d with
    | none => 3
    | some (_, k) =>
      if k.measured && !k.images.any (· == g.words) then 4
      else if s.metered d && !g.meter then 5
      else if (find? s.gates g.number).isSome then 6
      else 0

/-- GPUB (R336, R392). -/
def execGpub (d a : WReg) (s : State) : Out :=
  issue (.gpub d a) s fun s =>
    let ea := s.w a
    if !aligned ea 64 then .trap .align ea s
    else (s.load ea 64).then fun b t =>
      let g : Gate := { part := t.myPart, words := wordsOf b }
      let st := t.gpubStatus g
      let t := if st == 0 then { t with gates := put t.gates g.number g } else t
      .done (t.resultW d (BitVec.ofNat 64 st))

/-! ### What the supervisor's instructions share (R389) -/

/-- A domain that a supervisor instruction may name (R389): one that the partition's domain set names. -/
def State.namesDomain (s : State) (d : Nat) : Bool :=
  0 < d && d < 0xFFF && partOfDom s.parts (BitVec.ofNat 12 d) == some s.myPart

/-- Whether a domain has a live task or a frame on any stack; saved tasks count. -/
def State.domLive (s : State) (d : Dom) : Bool :=
  let of := fun (c : Ctx) => c.live && (c.c.dom == d || c.frames.any fun f => f.callee == d || f.callerDom == d)
  s.allCtxs.any (fun p => of p.2) || s.liveImages.any fun i => i.ctxs.any fun p => of p.2

/-- TLB entries that satisfy p are gone from every agent. -/
def State.dropTlbs (s : State) (p : TlbEntry → Bool) : State :=
  let keep := fun (l : List TlbEntry) => l.filter fun t => !p t
  { s with
    cores := s.cores.map (fun (k, x) => (k, { x with tlb := keep x.tlb })),
    gcores := s.gcores.map (fun (k, x) => (k, { x with tlb := keep x.tlb })),
    flights := s.flights.map fun (k, x) => (k, { x with tlb := keep x.tlb }) }

/-- A domain's engine state is scrubbed, and its loft state, saved state among them (R201, R235, R386). -/
def State.scrubEngines (s : State) (d : Dom) : State :=
  ((s.stopEngines (·.dom == d)).dropErrors d).onSaved (·.scrubEngine d) id id
def State.scrubLofts (s : State) (d : Dom) : State :=
  ((s.scrubLoft (·.dom == d) (·.dom == d) (fun r => r.tag == some d || r.doneTag == some d)).dropPasses d).onSaved
    (·.scrubRows d) (·.scrubBanks d) (·.dropPasses d)

/-- The scrub of a revocation (R201, R235, R386): translations, engine and loft state, and slots of the domain. -/
def State.scrubDomain (s : State) (d : Dom) : State :=
  ((((s.dropTlbs (·.dom == d)).scrubEngines d).scrubLofts d).freeSlots (·.dom == d)).onSaved (·.scrubSlots d) id id

/-- A revocation reaches every context of a list: the frames unwound, and the state. -/
def State.revokeAll (s : State) (d : Dom) : List Nat → Nat × State
  | [] => (0, s)
  | k :: l =>
    let (n, t) := s.revokeIn k d
    let (m, u) := t.revokeAll d l
    (n + m, u)

/-- A domain is revoked (R341, R342): the frames unwound, the gates withdrawn, and the state. -/
def State.revoke (s : State) (d : Dom) : Nat × Nat × State :=
  let gone := s.gates.filter fun p => p.2.callee == d
  let s := { s with gates := s.gates.filter fun p => p.2.callee != d }
  let (n, t) := s.revokeAll d (s.allCtxs.map (·.1))
  (n, gone.length, t.scrubDomain d)

/-- The performance counters that a domain's activity advanced (R387). -/
def State.scrubPerf (s : State) (d : Dom) : State := { s with perf := drop s.perf d.toNat }

/-- The entries of the error log whose lines lie in a domain's pages are gone (R387). -/
def State.scrubErrors (s : State) (d : Dom) : State :=
  { s with errLog := s.errLog.filter fun p => let e := s.potEntry (p.1 / 8192); !(potValid e && potOwner e == d) }

/-- The saved granules of a domain are zero and 0x000's (R386). -/
def Image.freeGranules (i : Image) (d : Dom) : Image :=
  let of := fun (core g : Nat) => (find (find i.cores core .idle).tags g { valid := true, dom := 0 }).dom == d
  { i with
    spad := i.spad.filter (fun c => 0x3A000 ≤ spadOff c.1 || !of (spadCore c.1) (spadOff c.1 / 4096)),
    cores := i.cores.map fun p =>
      (p.1, { p.2 with tags := p.2.tags.map fun t => (t.1, if t.2.dom == d then { valid := true, dom := 0 } else t.2) }) }

/-- Granules tagged with a domain are retagged 0x000, and so zeroed (R50, R386); so are pool workspaces. -/
def State.freeGranules (s : State) (d : Dom) : State :=
  let s := { s with images := s.images.map fun (i : Image) => i.freeGranules d }
  s.cores.foldl (fun (s : State) (p : Nat × Core) =>
    p.2.tags.foldl (fun (s : State) (t : Nat × Tag) =>
      if t.2.valid && t.2.dom == d then s.retag p.1 t.1 { valid := true, dom := 0 } else s) s) s

/-- A domain's key is deactivated (R373): the slot is zeroed, the frozen bits cleared, the derived state scrubbed. -/
def State.deactivate (s : State) (d : Dom) : State :=
  let s := { s with
    keys := s.keys.filter (fun p => p.2.dom != d),
    pot := s.pot.map fun (p, e) => (p, if potValid e && potOwner e == d then setBit e 16 false else e) }
  (((s.scrubDomain d).scrubPerf d).scrubErrors d).freeGranules d

/-- The number of a domain's slot, for the log. -/
def State.slotNo (s : State) (d : Dom) : Word := BitVec.ofNat 64 (((slotOf s.keys d).map (·.1)).getD 0)

/-! ### GREVOKE (R341, R393) -/

/-- Every launch of a domain that is not ending starts to end KILLED (R273, R393): how many, and the state. -/
def State.endDomain (s : State) (dom : Dom) : Nat × State :=
  let mine := s.launches.filter fun p => p.2.dom == dom && p.2.ending.isNone
  (mine.length, mine.foldl (fun (s : State) (p : Nat × Launch) => s.endLaunch p.1 .killed 0) s)

/-- A revocation that is not a kill; it ends the domain's launches, without waiting for them (R273). -/
def State.grevoke (s : State) (d : WReg) (dom : Dom) : Res :=
  if s.myLogFull then .wait .log s
  else
    let (frames, gates, t) := s.revoke dom
    let (_, t) := t.endDomain dom
    .done ((t.log 2 0 dom (BitVec.ofNat 64 frames) (BitVec.ofNat 64 gates) 0).resultW d 0)

/-- GREVOKE (R341). -/
def execGrevoke (d a : WReg) (s : State) : Out :=
  issue (.grevoke d a) s fun s =>
    let n := (s.w a).toNat
    if s.hasParked then .wait .replay s
    else if !s.namesDomain n then .done (s.resultW d 1)
    else s.grevoke d (BitVec.ofNat 12 n)

/-- A kill ends every launch of the domain (R393 steps 1 and 2). -/
def State.killBegin (s : State) (dom : Dom) : State :=
  let (frames, _, t) := s.revoke dom
  let (n, u) := t.endDomain dom
  { u with me := { u.me with kill := some (dom, frames, n) } }

/-- A kill that waits takes what its domain's tasks have done since (R393): a gate published, a call made, a launch admitted. -/
def State.killMore (s : State) (dom : Dom) (frames launches : Nat) : State :=
  let s := { s with gates := s.gates.filter fun p => p.2.callee != dom }
  let fresh := s.allCtxs.filter fun p => p.2.frames.any fun f => f.callee == dom && !f.discard
  let (n, t) := s.revokeAll dom (fresh.map (·.1))
  let (m, u) := t.endDomain dom
  { u with me := { u.me with kill := some (dom, frames + n, launches + m) } }

/-- Whether a kill of a domain still waits (R393): for its launches, and for its frames on every stack. -/
def State.killWaits (s : State) (dom : Dom) : Bool :=
  s.launches.any (fun p => p.2.dom == dom) || s.allCtxs.any fun p => p.2.live && p.2.frames.any (·.callee == dom)

/-- A kill's last steps, once its launches and its frames are gone (R393 steps 3 and 4). -/
def State.killEnd (s : State) (d : WReg) (dom : Dom) : State :=
  let slot := s.slotNo dom
  let (frames, launches) := (s.me.kill.map (·.2)).getD (0, 0)
  let t := (s.deactivate dom).log 4 0 dom slot 0 0
  let u := t.log 10 0 dom (BitVec.ofNat 64 frames) (BitVec.ofNat 64 launches) 0
  { u with me := { u.me with kill := none } }.resultW d 0

/-- A kill under way goes on: it waits, for its work to be gone and then for room in the log, or is over. -/
def State.killOn (s : State) (d : WReg) (dom : Dom) : Res :=
  if s.killWaits dom then .wait .unwind s
  else if s.logShort (ctxDie s.cur) 2 then .wait .log s
  else .done (s.killEnd d dom)

/-- GREVOKE_KILL (R393): B selects a revocation or a kill, which returns once every launch of the domain has ended. -/
def execGrevokeKill (d a b : WReg) (s : State) : Out :=
  issue (.grevokeKill d a b) s fun s =>
    let n := (s.w a).toNat
    match s.me.kill with
    | some (dom, frames, launches) => (s.killMore dom frames launches).killOn d dom
    | none =>
      if s.hasParked then .wait .replay s
      else if !s.namesDomain n then .done (s.resultW d 1)
      else if s.w b == 0 then s.grevoke d (BitVec.ofNat 12 n)
      else if s.w b != 1 then .done (s.resultW d 2)
      else if s.logShort (ctxDie s.cur) 2 then .wait .log s
      else (s.killBegin (BitVec.ofNat 12 n)).killOn d (BitVec.ofNat 12 n)

/-! ### GINFO and DOMID (R395, R396) -/

/-- What GINFO reads (R395). -/
def State.ginfo (s : State) (a b : Nat) : Word :=
  let ones : Word := BitVec.allOnes 64
  if b ≤ 1 then
    match if a < 4096 then find? s.gates a else none with
    | none => 0
    | some g =>
      if g.callee == s.me.c.dom || g.admits s.me.c.dom (s.domPart s.me.c.dom s.myPart) then
        (if b == 0 then setBit (g.word 3) 31 true else (g.word 4) &&& 0xFFFFFFFF)
      else 0
  else if 10 < b || 0xFFF < a || !(a == s.me.c.dom.toNat || (s.me.c.s && s.namesDomain a)) then ones
  else
    let d : Dom := BitVec.ofNat 12 a
    if b ≤ 5 then BitVec.ofNat 64 (find s.egressBytes (egKey d (b - 2)) 0)
    else if b ≤ 9 then
      let x := find s.egress (egKey d (b - 6)) .idle
      if x.enable then BitVec.ofInt 64 x.level else 0x8000000000000000
    else match slotOf s.keys d with
      | none => 0
      | some (n, k) => BitVec.ofNat 64 (1 + (if k.measured then 2 else 0) + 1024 * n)

/-- GINFO (R395). -/
def execGinfo (d a b : WReg) (s : State) : Out :=
  issue (.ginfo d a b) s fun s => .done (s.resultW d (s.ginfo (s.w a).toNat (s.w b).toNat))

/-- DOMID (R396): the partition is the named domain's (R347). -/
def execDomid (d a : WReg) (s : State) : Out :=
  issue (.domid d a) s fun s =>
    let k := (s.w a).toNat
    let dom := if k == 0 then some s.me.c.dom else (s.me.frames[k - 1]?).map (·.callerDom)
    .done (s.resultW d (match dom with
      | some x => BitVec.ofNat 64 (x.toNat + 4096 * (s.domPart x s.myPart).getD s.myPart)
      | none => BitVec.allOnes 64))

/-! ### Keys (R368, R373, R375, R376, R397, R398) -/

/-- Why a request of KACT cannot be read: BADREQ, or a bad line, which is fatal (R371): its cause, key and owner, and the
address. -/
inductive Unread where
  | badReq
  | bad (c : Cause) (key : Nat) (owner : Dom) (a : Word)
  deriving DecidableEq, Repr

/-- The places of n bytes from a, if every one lies in a page that a domain of the issuer's partition owns and that the
issuer's tables map for reading. The domain's key need not be active (R397). -/
def State.ownedPlaces (s : State) (dom : Dom) (a : Word) (n : Nat) : Except Unread (List Where) :=
  (addrs a n).mapM fun va =>
    if 2 ^ 56 ≤ va || inWindows va then .error .badReq
    else match s.walkFor s.who va with
      | .fault => .error .badReq
      | .bad c k => .error (.bad c k 0 a)
      | .leaf m =>
        let pa := m.pbase + (va - m.vbase)
        let e := s.potEntry (pa / 2 ^ 19)
        if m.perm.getLsbD 0 && potValid e && potOwner e == dom && potPart e == s.myPart then
          .ok { key := pa, owner := dom, metered := potMetered e }
        else .error .badReq

/-- What is read from an address: the places of its bytes. -/
abbrev Read := Word × List Where

/-- What KACT reads at an address of its own, which must be readable (R397). -/
def State.readable (s : State) (a : Word) (n : Nat) : Except Unread Read :=
  match s.check s.who .load a n with
  | .error (c, x) =>
    match if c.precise then none else s.walkBad s.who x.toNat with
    | some (e, k, o) => .error (.bad e k o x)
    | none => .error .badReq
  | .ok l =>
    match s.linesBad l with
    | some (c, k, o) => .error (.bad c k o a)
    | none => .ok (a, l)

/-- The request of each read of another chip leaves over the link (R492); none while a port has no room. -/
def State.readsSent (s : State) (launch : Nat) : List Read → Option State
  | [] => some s
  | p :: l => (s.linkOut p.2 0 launch).bind fun t => t.readsSent launch l

/-- The reads of an instruction of 0x000 that makes many, as one transfer (R378 to R380): each is charged, or the instruction
waits with none of them. -/
def State.readAll (s : State) (l : List Read) : Mem Unit :=
  let cost := fun (p : Read) => s.egressOf s.me.c.dom false p.2
  let ea := ((l.find? fun p => (s.egFirst (cost p)).isSome).map (·.1)).getD 0
  s.egressGate ea (l.flatMap cost) fun t =>
    match t.readsSent s.me.t.launch l with
    | none => .wait .send s
    | some t => .ok () (l.foldl (fun t p => t.keepTlbs t.who .load p.1 p.2.length) t)

/-- The key number of a key: its place in the key book, where it is entered when new (R501). -/
def State.enterKey (s : State) (k : BitVec 768) : Nat × State :=
  match s.keyBook.findIdx? (· == k) with
  | some i => (i, s)
  | none => (s.keyBook.length, { s with keyBook := s.keyBook ++ [k] })

/-- What a key blob holds (R375). -/
structure Blob where
  key : BitVec 768
  measured : Bool
  expected : BitVec 512
  deriving DecidableEq, Repr

/-- The blob that 512 bytes hold for a domain of this chip, or none (BADBLOB). -/
def openBlob (dom : Dom) (b : List Byte) : Option Blob :=
  match Config.oaepOpen b with
  | none => none
  | some p =>
    if leNat ((p.drop 0xA8).take 16) != Config.chipSerial.toNat || leNat ((p.drop 0x60).take 2) % 4096 != dom.toNat then none
    else some { key := BitVec.ofNat 768 (leNat (p.take 96)), measured := leNat ((p.drop 0x62).take 2) % 2 == 1,
                expected := BitVec.ofNat 512 (leNat ((p.drop 0x68).take 64)) }

/-- A key request (R397): the blob, the 64-byte descriptors and the code ranges that it names, and what KACT has read to see
them. -/
structure KeyRequest where
  blob : List Byte
  descs : List (List Byte)
  ranges : List Read
  reads : List Read
  deriving DecidableEq, Repr

/-- A request's parts, or why there are none. -/
def State.keyRequest (s : State) (ea : Word) (w : List Word) : Except Unread KeyRequest :=
  let x := w.getD 1 0
  let dom : Dom := x.extractLsb' 0 12
  let n := (x.extractLsb' 16 8).toNat
  let m := (x.extractLsb' 24 8).toNat
  let words := fun (p : Read) (n : Nat) =>
    let b := s.peeks p.2
    (List.range n).map fun i => BitVec.ofNat 64 (leNat ((b.drop (8 * i)).take 8))
  let arr := fun (a : Word) (k : Nat) => if a.toNat % 8 != 0 then .error .badReq else s.readable a (8 * k)
  if x.extractLsb' 32 32 != 0 || x.extractLsb' 12 4 != 0 || (w.drop 4).any (· != 0) || (w.getD 0 0).toNat % 64 != 0 then
    .error .badReq
  else
    (s.readable ea 64).bind fun own => (s.readable (w.getD 0 0) 512).bind fun blob =>
    (if n == 0 then .ok (0, []) else arr (w.getD 2 0) n).bind fun da =>
    (if m == 0 then .ok (0, []) else arr (w.getD 3 0) (2 * m)).bind fun ra =>
      let bounds := words ra (2 * m)
      let range := fun (i : Nat) => (bounds.getD (2 * i) 0, (bounds.getD (2 * i + 1) 0).toNat)
      ((words da n).mapM fun a => if a.toNat % 64 != 0 then .error .badReq else s.readable a 64).bind fun descs =>
      (((List.range m).map range).mapM fun p =>
        if p.1.toNat % 64 != 0 || p.2 % 64 != 0 then .error .badReq
        else (s.ownedPlaces dom p.1 p.2).map fun l => (p.1, l)).bind fun ranges =>
          .ok { blob := s.peeks blob.2, descs := descs.map fun p => s.peeks p.2, ranges := ranges,
                reads := own :: blob :: da :: ra :: descs }

/-- The lowest-numbered free slot of 1024 (R368). -/
def freeSlot (l : List (Nat × KeySlot)) (i fuel : Nat) : Option Nat :=
  match fuel with
  | 0 => none
  | k + 1 => if (find? l i).isSome then freeSlot l (i + 1) k else some i

/-- A slot is filled and active, and its key logged (R376, R384): bit 0 of a1 says that the activation is measured. -/
def State.activate (s : State) (slot : Nat) (x : KeySlot) : State :=
  { s with keys := put s.keys slot x }.log 3 0 x.dom (BitVec.ofNat 64 slot) (if x.measured then 1 else 0)
    (x.measurement.extractLsb' 0 64)

/-- KACT on a request that stands at ea, from the state before it was read and the state after (R376, R397): the status and
what it does. DESIGN CHOICE (log 65): with status 1 or 2 only the read of the request is charged. -/
def State.kact (s t : State) (d : WReg) (ea : Word) (w : List Word) : Res :=
  let dom : Dom := (w.getD 1 0).extractLsb' 0 12
  if !s.namesDomain dom.toNat then .done (t.resultW d 1)
  else match s.keyRequest ea w with
    | .error .badReq => .done (t.resultW d 2)
    | .error (.bad c k o a) => (s.badMem t c k o a : Mem Unit).then fun _ t => .done t
    | .ok r =>
      let refuse := fun (n : Nat) => (s.readAll r.reads).then fun _ t => .done (t.resultW d (BitVec.ofNat 64 n))
      if (slotOf s.keys dom).isSome then refuse 3
      else match freeSlot s.keys 0 1024, openBlob dom r.blob with
        | none, _ => refuse 4
        | some _, none => refuse 5
        | some slot, some b =>
          let (k, _) := s.enterKey b.key
          let x : KeySlot := { dom := dom, key := k, measurement := 0, measured := false, images := [] }
          if !b.measured then
            if !r.descs.isEmpty || !r.ranges.isEmpty then refuse 6
            else if s.myLogFull then .wait .log s
            else (s.readAll r.reads).then fun _ t => .done (((t.enterKey b.key).2.activate slot x).resultW d 0)
          else
            let code := (r.ranges.flatMap (·.2)).map (·.key)
            match code.find? fun p => s.eccLines.any (· == p / 64) || s.lineKeyOf p != sealNo k dom with
            | some p =>
              let c := if s.eccLines.any (· == p / 64) then Cause.eccUe else Cause.macFail
              (s.badMem (s.enterKey b.key).2 c p dom (BitVec.ofNat 64 (p % 2 ^ 46)) : Mem Unit).then fun _ t => .done t
            | none =>
              let m := Config.sha512 (r.descs.flatten ++ code.map s.peek)
              let full := m == b.expected && s.myLogFull
              if full then .wait .log s
              else (s.readAll (r.reads ++ r.ranges)).then fun _ t =>
                if m != b.expected then .done (t.resultW d 6)
                else
                  let pages := (code.map (· / 2 ^ 19)).eraseDups
                  let pot := pages.foldl (fun l p => put l p (setBit (t.potEntry p) 16 true)) t.pot
                  let y := { x with measurement := m, measured := true, images := r.descs.map wordsOf }
                  .done (({ (t.enterKey b.key).2 with pot := pot }.activate slot y).resultW d 0)

/-- KACT (R397). -/
def execKact (d a : WReg) (s : State) : Out :=
  issue (.kact d a) s fun s =>
    let ea := s.w a
    if s.hasParked then .wait .replay s
    else if !aligned ea 64 then .trap .align ea s
    else (s.load ea 64).then fun b t => s.kact t d ea (wordsOf b)

/-- KDEACT (R373, R398). -/
def execKdeact (d a : WReg) (s : State) : Out :=
  issue (.kdeact d a) s fun s =>
    let n := (s.w a).toNat
    let dom : Dom := BitVec.ofNat 12 n
    if s.hasParked then .wait .replay s
    else if !s.namesDomain n || (slotOf s.keys dom).isNone then .done (s.resultW d 1)
    else if s.domLive dom || s.gates.any (fun p => p.2.callee == dom) then .done (s.resultW d 2)
    else if s.myLogFull then .wait .log s
    else .done (((s.deactivate dom).log 4 0 dom (s.slotNo dom) 0 0).resultW d 0)

/-! ### SCRUB and EGSET (R399, R400) -/

/-- The classes of SCRUB (R399). Prefetch and predictor entries and cached lines hold no state of the model. -/
def State.scrubMask (s : State) (dom : Dom) (m : Word) : State :=
  let s := if m.getLsbD 0 then s.dropTlbs (·.dom == dom) else s
  let s := if m.getLsbD 1 then
      s.scrubLofts dom else s
  let s := if m.getLsbD 2 then s.scrubEngines dom else s
  let s := if m.getLsbD 4 then s.scrubPerf dom else s
  if m.getLsbD 5 then s.scrubErrors dom else s

/-- SCRUB (R399). -/
def execScrub (d a b : WReg) (s : State) : Out :=
  issue (.scrub d a b) s fun s =>
    let n := (s.w a).toNat
    let dom : Dom := BitVec.ofNat 12 n
    let m := s.w b
    if s.hasParked then .wait .replay s
    else if !s.namesDomain n then .done (s.resultW d 1)
    else if (m.getLsbD 1 || m.getLsbD 2) && s.domLive dom then .done (s.resultW d 2)
    else if m.extractLsb' 7 57 != 0 then .done (s.resultW d 3)
    else .done ((s.scrubMask dom m).resultW d 0)

/-- EGSET (R379, R400). -/
def execEgset (d a b : WReg) (s : State) : Out :=
  issue (.egset d a b) s fun s =>
    let x := s.w a
    let y := s.w b
    let dom : Dom := x.extractLsb' 0 12
    let cls := (x.extractLsb' 12 2).toNat
    let cap := (y.extractLsb' 0 32).toNat
    let on := x.getLsbD 17
    let others := (List.range 4).any fun c => (find s.egress (egKey dom c) .idle).enable
    if s.hasParked then .wait .replay s
    else if !s.namesDomain dom.toNat then .done (s.resultW d 1)
    else if x.extractLsb' 14 2 != 0 || x.extractLsb' 18 46 != 0 || (on && cap == 0) then .done (s.resultW d 2)
    else if on && !others && s.gates.any (fun p => p.2.callee == dom && !p.2.meter) then .done (s.resultW d 3)
    else
      let k : Bucket := { rate := (y.extractLsb' 32 32).toNat, capacity := cap, fault := x.getLsbD 16, enable := on,
                          level := cap }
      .done ({ s with egress := put s.egress (egKey dom cls) k }.resultW d 0)

end Sys2Proof.Machine
end
end

