-- ==== Sys2Proof/Machine/Handlers.lean ====
section
/-!
DEFINITION. Traps disposed of (R309, R424, R438, R456), and the end of a task (R31, R148, R456).
-/
noncomputable section
namespace Sys2Proof.Machine

/-! ### Expiry reaching a task late (R404, R424) -/

/-- A task that was HELD at expiry is diverted as it resumes, or leaves its trap otherwise, and counted then. -/
def State.divertLate (s : State) (k : Nat) : State :=
  if s.divertDue k then
    let n := (s.ctx k).t.launch
    let s := s.divert k
    match s.launch? n with
    | none => s
    | some l =>
      let s := s.setLaunch n { l with diverted := l.diverted + 1 }
      s.result8 l 8 fun v => v / 2 ^ 32 * 2 ^ 32 + (v + 1) % 2 ^ 32
  else s

/-! ### Disposing of a trap as ERET 0 does (R456) -/

/-- Where a HELD context resumes (R452, R456): at the record's resume PC, or, inside a gate, at the one hardware wrote. -/
def State.resumeAt (s : State) (k : Nat) : Word :=
  let c := s.ctx k
  if c.frames.isEmpty then Memory.word s.mem (s.recordKey k + 0x28) &&& ~~~ 1 else c.resume

/-- A HELD context goes on. A REP in progress resumes where it stood; a rewritten resume PC leaves it. -/
def State.resumeHeld (s : State) (k : Nat) : State :=
  let pc := s.resumeAt k
  let s := s.clearRecord (s.recordKey k)
  let c := s.ctx k
  let c := { c with st := .ready, pc := pc, rep := if pc == c.resume then c.rep else none, since := s.cycle }
  (s.setCtx k c).divertLate k

/-- The task that parked a store, as an agent whose translations no TLB holds: a replay translates afresh (R450). -/
def State.parkedWho (s : State) (core : Nat) (p : Parked) : Who :=
  { asid := p.asid, ttb := p.ttb, dom := p.dom, s := p.s, part := s.flightPart (flightOf core), core := core, flight := 256,
    l1 := none }

/-- The address of the first element of a parked store that holds a byte address. -/
def Parked.elemAt (p : Parked) (a : Nat) : Word :=
  match p.parts.find? fun q => q.2.any fun b => (q.1.toNat + b.1) % 2 ^ 64 == a with
  | some q => q.1
  | none => .ofNat 64 a

/-- The check of a parked store, as when it was first issued (R141, R172, R307): the places of its bytes, or the cause and the
address. -/
def State.parkedPlaces (s : State) (w : Who) (p : Parked) : Except (Cause × Word) (List Where) :=
  match s.firstFail w .store p.addrs with
  | some (_, c, a) => .error (c, if p.vec then p.elemAt a else .ofNat 64 a)
  | none => .ok (s.places w .store p.addrs)

/-- The bytes of a parked store, and whether it covers a whole line. -/
def Parked.bytes (p : Parked) : List Byte := p.parts.flatMap fun q => q.2.map (·.2)
def Parked.whole (p : Parked) : Bool :=
  match p.parts with
  | [(a, b)] => b.length == 64 && a.toNat % 64 == 0
  | _ => false

/-- An entry parks again, with a new trap record and a new request (R456). -/
def State.parkAgain (s : State) (core : Nat) (p : Parked) (c : Cause) (a : Word) : State :=
  let q := { p with no := s.seq, fail := a, cause := c, go := false, stalled := false }
  let s1 := s.onCore core fun x => { x with replay := x.replay.map fun y => if y.id == p.id then q else y }
  let b := recordBytes (BitVec.ofNat 64 c.code) p.xpc (p.psw.setWidth 64) a p.bits.toNat 0 p.xpc p.serial p.dom (numOf p.ctx)
  (s1.writeRecord (replayKey core p.id) b (relOf p.ctx (s.ctx p.ctx) 1)).request
    { trap := .replay core p.id s.seq, core := core, ctx := numOf p.ctx, cause := c, tval := a, code := 0, dom := p.dom,
      die := core / 2048, flight := flightOf core, seq := 0, fin := 0 }

/-- A replay waits in the queue, for an egress bucket or for room in the log, and is tried again each cycle. DESIGN CHOICE (log
62): the handler that asked for it goes on. -/
def State.replayHeld (s : State) (core : Nat) (p : Parked) (stalled : Bool) : State :=
  s.onCore core fun x =>
    { x with replay := x.replay.map fun y => if y.id == p.id then { y with go := true, stalled := stalled } else y }

/-- The bytes that a parked store makes leave a domain (R378): a word of a copy-back is charged to the callee. -/
def State.parkedEgress (s : State) (p : Parked) (l : List Where) : List (Dom × Nat × Nat) :=
  match p.payer with
  | some d => s.payerEgress d l
  | none => s.egressOf p.dom true l

/-- A parked store that has passed its checks is performed (R309, R371, R378 to R380, R501), over the link where it has to be
(R492). A word of a copy-back stalls at an empty bucket in either mode (R380). -/
def State.performParked (s : State) (core : Nat) (p : Parked) (l : List Where) : State :=
  let die := core / 2048
  let charges := s.parkedEgress p l
  match (s.egFirst charges).map fun e => (e.1, e.2.1, e.2.2 && p.payer.isNone) with
  | some (d, c, fault) =>
    if p.stalled && !fault then s.replayHeld core p true
    else if s.logFull die then s.replayHeld core p false
    else
      let t := s.logAt die (coreOf p.ctx) (isG p.ctx) (if fault then 6 else 5) d 0 (.ofNat 64 c) p.fail (s.egLevel d c)
      if fault then t.parkAgain core p .pot p.fail else t.replayHeld core p true
  | none =>
    let gone := s.onCore core fun x => { x with replay := x.replay.filter fun y => y.id != p.id }
    match if p.whole && !l.any s.unreached then none else s.linesBad l with
    | some (c, key, o) =>
      if c == .macFail && s.logFull die then s.replayHeld core p p.stalled
      else (gone.logMacOf p.ctx p.dom c key o).blame p.ctx p.serial (s.ctx p.ctx).t.launch c p.fail
    | none =>
      match (gone.chargeAll charges).linkOut l 0 (s.ctx p.ctx).t.launch with
      | none => s.replayHeld core p p.stalled
      | some t => (if p.whole then l.foldl State.sealLine t else t).pokes l p.bytes

/-- A parked store is replayed (R309, R456): checked afresh and performed whole, or parked again. While an older entry of
the task is still parked it parks again, since replays follow program order (log 27). -/
def State.replayEntry (s : State) (core : Nat) (p : Parked) : State :=
  let s := s.clearRecord (replayKey core p.id)
  let older := (s.core core).replay.any fun q => q.ofTask p.ctx p.serial && q.ord < p.ord
  if older then s.parkAgain core p p.cause p.fail
  else
    let w := s.parkedWho core p
    match s.parkedPlaces w p with
    | .ok l => s.performParked core p l
    | .error (c, a) =>
      if c.precise then s.parkAgain core p c a
      else match s.walkBad w a.toNat with
        | some (e, key, o) =>
          let gone := s.onCore core fun x => { x with replay := x.replay.filter fun y => y.id != p.id }
          if s.logFull (core / 2048) then s.replayHeld core p p.stalled
          else (gone.logMacOf p.ctx p.dom e key o).blame p.ctx p.serial (s.ctx p.ctx).t.launch e p.fail
        | none => s.parkAgain core p c a

/-- The replays that wait are tried again (log 62). -/
def State.replaysOn (s : State) : State :=
  s.cores.foldl (fun (s : State) (q : Nat × Core) =>
    (q.2.replay.filter (·.go)).foldl (fun (s : State) (p : Parked) => s.replayEntry q.1 p) s) s

/-- ERET 0, and the end of a handler whose trap is undisposed (R438, R456). -/
def State.disposeResume (s : State) (t : TrapRef) : State :=
  match t with
  | .ctx k serial no =>
    let c := s.ctx k
    if c.live && c.c.serial == serial && c.st == .held && c.trapNo == no then s.resumeHeld k else s
  | .replay core e no =>
    match (s.core core).replay.find? (fun p => p.id == e && p.no == no) with
    | none => s
    | some p => if p.go then s else s.replayEntry core p

/-! ### The end of a task (R31, R148, R410, R456) -/

/-- The issuing task ends normally: a handler disposes of a trap that is undisposed as ERET 0 would. -/
def State.finishTask (s : State) : State :=
  let k := s.cur
  let s := match s.me.t.trap with
    | some t => s.disposeResume t
    | none => s
  s.taskEnded k

/-- What the end of a task waits for (R31, R308). -/
def State.endWait (s : State) : Option Wait := if s.hasParked then some .replay else s.behind

/-- END, END_16 and WRAPDONE, and the end that JOIN makes (R31, R148, R410). -/
def State.endBody (s : State) : Res :=
  if s.me.c.gd != 0 then .trap .gate 0 s
  else match s.endWait with
    | some w => .wait w s
    | none => .whole (s.retired false).finishTask

/-- END (R31, R148). -/
def execEndTask (s : State) : Out := issue .endTask s State.endBody

/-- END_16 (R148). -/
def execEnd16 (s : State) : Out := issue .end16 s State.endBody

/-- WRAPDONE (R410, R435). -/
def execWrapdone (s : State) : Out := issue .wrapdone s State.endBody

/-! ### TRAP, BREAK, ERET (R438, R456, R461, R463) -/

/-- TRAP (R461). -/
def execTrapI (c : BitVec 12) (s : State) : Out := issue (.trapI c) s fun _ => .code .trap c.toNat

/-- BREAK (R461). -/
def execBreakI (c : BitVec 12) (s : State) : Out := issue (.breakI c) s fun _ => .code .brk c.toNat

/-- BREAK_16 (R461). -/
def execBreak16 (c : BitVec 10) (s : State) : Out := issue (.break16 c) s fun _ => .code .brk c.toNat

/-- ERET (R438, R456, R463). -/
def execEret (a : Opnd) (s : State) : Out :=
  issue (.eret a) s fun s =>
    match s.me.r.val a with
    | none => .wait .queue s
    | some x =>
      if 1 < x.toNat then .trap .enc 0 s
      else match s.endWait with
        | some w => .wait w s
        | none =>
          let t := (s.pop a).retired false
          let u := match t.me.t.trap with
            | none => t
            | some r => if x == 0 then t.disposeResume r else t.disposeEnd r
          .whole (u.taskEnded s.cur)

/-- ILLH raises UND (R64). -/
def execIllh (x : BitVec 10) (s : State) : Out := issue (.illh x) s fun s => .trap .und 0 s

/-- ILL: an undecodable word raises UND (R74). -/
def execIll (x : BitVec 32) (s : State) : Out := issue (.ill x) s fun s => .trap .und 0 s

end Sys2Proof.Machine
end
end

