-- ==== Sys2Proof/Machine/Tasks.lean ====
section
/-!
DEFINITION. The TASK group: helpers (R144 to R150), messages (R256, R276 to R279, R324 to R326, R502), forks and joins
(R257, R280, R327), barriers (R258, R282, R283, R328), child launches (R285, R329), timelines (R288, R289, R330, R331) and
MIGRATE (R333).
-/
noncomputable section
namespace Sys2Proof.Machine

/-! ### Starting tasks (R29, R37, R471) -/

/-- The lowest-numbered FREE context of a core from `lo` on that START and dispatch may take (R29). DESIGN CHOICE (log 65):
that MIGRATE takes it too (R333). -/
def State.freeCtx (s : State) (core lo : Nat) : Option Nat :=
  ((List.range (s.userCtxs core)).filter (lo ≤ ·)).find? fun i => !(s.ctx (16 * core + i)).live

/-- Whether a task can have a workspace of a core's pool: the micro-kernel, which keeps the pool, has been started (R35,
R496), and one is free. -/
def State.hasWs (s : State) (core : Nat) : Bool := s.sec.kernel && (freeWs (s.core core).used 0 16).isSome

/-- What hardware keeps of a new task of a launch; its stamp is the launch's priority with weight 1 (R218). -/
def State.newTask (s : State) (launch : Nat) (kind : TaskKind) (leaf group : Nat) (join : Option Word) : Task :=
  { Task.none with launch := launch, kind := kind, leaf := leaf, group := group, join := join,
                   prio := BitVec.ofNat 2 (s.prio launch) }

/-- The launch record's address of a launch (R37). -/
def State.lrecOf (s : State) (launch : Nat) : Word := ((s.launch? launch).map (·.record)).getD 0

/-! ### START, HWAIT, SLEEP, SELF (R18, R19, R145 to R150) -/

/-- START (R18, R145). -/
def execStart (d a : WReg) (s : State) : Out :=
  issue (.start d a) s fun s =>
    let core := s.myCore
    let expired := ((s.launch? s.me.t.launch).map (·.expired)).getD false
    if s.me.c.gd != 0 then .trap .gate 0 s
    else if s.hasParked then .wait .replay s
    else match if expired || !s.hasWs core then none else s.freeCtx core 1 with
      | none => .done (s.resultW d 0)
      | some i =>
        let c := s.me
        let t := { s.newTask c.t.launch .helper c.t.leaf c.t.group none with starter := c.c.serial }
        let u := (s.beginTask (16 * core + i) (s.w a) (c.r.getO 0) (c.r.getO 1) (c.r.getO 2) (c.r.getO 3) c.c.dom c.c.lrec t
          (startPsw false false false)).flipAt core
        .done (u.resultW d (BitVec.ofNat 64 i))

/-- Whether a context that a mask names holds a live helper of the issuing task (R19, R147). -/
def State.helperLive (s : State) (mask : Word) : Bool :=
  (List.range 10).any fun j =>
    let i := j + 1
    let c := s.ctx (16 * s.myCore + i)
    mask.getLsbD i && c.live && c.t.kind == .helper && c.t.starter == s.me.c.serial

/-- HWAIT (R19, R147). -/
def execHwait (a : WReg) (s : State) : Out :=
  issue (.hwait a) s fun s => if s.helperLive (s.w a) then .wait .hwait s else .done s

/-- The wait of a SLEEP: the limit is fixed as it begins (R149). -/
def State.sleepWait (s : State) (a : Word) : Wait :=
  match s.me.st with
  | .waiting (.sleep l) => .sleep l
  | _ => .sleep (if a == 0 then none else some (s.cycle + a.toNat))

/-- SLEEP (R149): it returns 1 when the latch is set and 0 when its limit has passed, and clears the latch. -/
def execSleep (d a : WReg) (s : State) : Out :=
  issue (.sleep d a) s fun s =>
    let t := { s with me := { s.me with wake := false, wokeBy := none } }
    if s.me.wake then .done (t.resultW d 1)
    else if s.me.wokeBy.isSome then .done (t.resultW d 0)
    else .wait (s.sleepWait (s.w a)) s

/-- The identity word of a task (R150). -/
def State.selfWord (s : State) : Word :=
  BitVec.ofNat 64 (coreOf s.cur + (if isG s.cur then 2 ^ 15 else 0) + 2 ^ 16 * numOf s.cur + 2 ^ 20 * s.me.c.dom.toNat +
    2 ^ 32 * s.chip.toNat)

/-- SELF (R150). -/
def execSelfId (d : WReg) (s : State) : Out := issue (.selfId d) s fun s => .done (s.resultW d s.selfWord)

/-! ### Messages (R256, R276 to R279, R324 to R326, R502) -/

/-- The target of a SEND word: chip and core, or none where it is invalid (R278, R324, R476). -/
def State.sendTarget (s : State) (b : Word) : Option (Nat × Nat) :=
  match s.launch? s.me.t.launch with
  | none => none
  | some l =>
    let core := (b.extractLsb' 0 13).toNat
    let chip := (b.extractLsb' 13 18).toNat
    let remote := b.getLsbD 31
    if b.extractLsb' 32 32 != 0 || (!remote && chip != 0) || (remote && (chip == s.chip.toNat || !l.fabric)) then none
    else if remote then (if l.holds chip core then some (chip, core) else none)
    else if !s.coreEnabled core then none
    else if l.holds s.chip.toNat core then some (s.chip.toNat, core)
    else match (s.core core).forward with
      | some (dst, til) => if s.cycle < til && l.holds s.chip.toNat dst then some (s.chip.toNat, dst) else none
      | none => none

/-- An entry to another chip leaves through the port that carries it (R277, R492). -/
def State.sendFlit (s : State) (e : Entry) : Option State :=
  (s.carrier e.targetChip 0).map fun q => s.transmit q.1 q.2 e.targetChip 0 e.bytes e.launch

/-- An entry is on its way. -/
def State.sendEntry (s : State) (e : Entry) : State := { s with msgs := s.msgs ++ [e] }.stamp

/-- A message leaves (R277, R378, R471): it is on its way, and counted by its colour. -/
def State.post (s : State) (a : Word) (chip core : Nat) : State :=
  let c := s.me
  let e := s.entryOf s.cur a (c.r.getO 0) (c.r.getO 1) (c.r.getO 2) (c.r.getO 3) .message
  let e := { e with targetChip := BitVec.ofNat 18 chip, target := core }
  let s := ((if e.targetChip == s.chip then none else s.sendFlit e).getD s).sendEntry e
  s.onCore e.sender fun x => if e.colour then { x with sent1 := x.sent1 + 1 } else { x with sent0 := x.sent0 + 1 }

/-- A send to a valid target (R276, R326): it waits while the target's queue is full, or the port that carries it (R493). -/
def State.sendTo (s : State) (a b : Word) (chip core : Nat) (k : State → Res) : Res :=
  if chip == s.chip.toNat then
    if s.runqRoom (s.leadOf core) then k (s.post a chip core) else .wait .send s
  else if (s.reach chip).isNone then .fatal .link 0 s
  else match s.carrier (BitVec.ofNat 18 chip) 0 with
    | none => .wait .send s
    | some _ =>
      match (s.egressGate b [(s.me.c.dom, 2, 64)] fun t => Mem.ok () t) with
        | .ok _ t => k (t.post a chip core)
        | .trap c x t => .trap c x t
        | .wait w t => .wait w t
        | .park x t => .trap .xltStore x t
        | .fatal c x t => .fatal c x t

/-- SEND (R324). -/
def execSendMsg (d a b : WReg) (s : State) : Out :=
  issue (.sendMsg d a b) s fun s =>
    if s.me.c.gd != 0 then .trap .gate 0 s
    else if s.hasParked then .wait .replay s
    else match s.sendTarget (s.w b) with
      | none => .done (s.resultW d 1)
      | some (chip, core) => s.sendTo (s.w a) (s.w b) chip core fun t => .done (t.resultW d 0)

/-- The member that SENDA's hash of B names (R256, R271): chip and core of a leaf of the task's group. -/
def State.member (s : State) (l : Launch) (b : Word) : Option (Nat × Nat) :=
  let n := l.inner
  let i := (((b >>> 6) ^^^ (b >>> 13) ^^^ (b >>> 20)).toNat) % n
  (find? l.members (s.me.t.group * n + i)).map fun k => (k / 2 ^ 13, k % 2 ^ 13)

/-- SENDA (R256, R325, R502). -/
def execSenda (a b : WReg) (s : State) : Out :=
  issue (.senda a b) s fun s =>
    if s.me.c.gd != 0 then .trap .gate 0 s
    else if s.hasParked then .wait .replay s
    else match (s.launch? s.me.t.launch).bind fun l => s.member l (s.w b) with
      | none => .done s
      | some (chip, core) => s.sendTo (s.w a) (s.w b) chip core .done

/-! ### Fork and join (R257, R280, R327) -/

/-- Where the issuing task's records stand: a local-window address as the core-window address of its core. -/
def State.recordAt (s : State) (a : Word) : Word := toCoreWindow s.homeCore a

/-- An access to a record traps with the operand A as its address (R316). -/
def Mem.naming {α : Type} (m : Mem α) (a : Word) : Mem α :=
  match m with
  | .trap c _ s => .trap c a s
  | m => m

/-- The forked task enters the deque, or the run queue when the deque is full (R280); once the deadline has expired it is
discarded and counted (R424). -/
def State.pushFork (s : State) (a ra : Word) : State :=
  let c := s.me
  let core := s.homeCore
  let e := { s.entryOf s.cur a (c.r.getO 0) (c.r.getO 1) (c.r.getO 2) (c.r.getO 3) .forked with
             join := some ra, target := core }
  if ((s.launch? c.t.launch).map (·.expired)).getD false then s.countDiscarded c.t.launch 1
  else if (s.core core).deque.length < 32 then (s.onCore core fun x => { x with deque := x.deque ++ [e] }).stamp
  else s.enqueue core e

/-- FORK (R257, R327). -/
def execForkT (a b : WReg) (s : State) : Out :=
  issue (.forkT a b) s fun s =>
    let ea := s.w b
    let ra := s.recordAt ea
    let core := s.homeCore
    if s.me.c.gd != 0 then .trap .gate 0 s
    else if !aligned ea 32 then .trap .align ea s
    else if s.hasParked then .wait .replay s
    else if 32 ≤ (s.core core).deque.length && !s.runqRoom (s.leadOf core) then .wait .send s
    else
      (s.rmw ra 24 fun old =>
        let n := leNat (old.take 8)
        some (natLe 8 (n + 1) ++ (old.drop 8).take 8 ++ (if n == 0 then natLe 8 0 else old.drop 16))).naming ea |>.then fun _ t =>
          .done (((t.chain s.rels (t.relPlaces ra 24) (some (t.myRel 1))).pushFork (s.w a) ra))

/-- The continuation that a JOIN itself places (R257). -/
def State.placeContinuation (s : State) (a ra : Word) : State :=
  let e := { s.entryOf s.cur a ra 0 0 0 .continuation with target := s.homeCore, join := none }
  { s with msgs := s.msgs ++ [e] }.stamp

/-- JOIN (R257, R327). -/
def execJoinT (a b : WReg) (s : State) : Out :=
  issue (.joinT a b) s fun s =>
    let ea := s.w b
    let ra := s.recordAt ea
    if s.me.c.gd != 0 then .trap .gate 0 s
    else if !aligned ea 32 then .trap .align ea s
    else match s.endWait with
      | some w => .wait w s
      | none =>
        (s.rmw ra 24 fun old =>
          some (old.take 8 ++ natLe 8 (s.w a).toNat ++ natLe 8 (2 ^ 63 + s.homeCore))).naming ea |>.then fun old t =>
            let l := t.relPlaces ra 24
            let t := t.chain s.rels l (some (t.myRel 1))
            let j : Joiner := { launch := s.me.t.launch, group := s.me.t.group, dom := s.me.c.dom }
            let t := { t with joins := put t.joins ((l.map Where.key).headD 0) j }
            let t := if leNat (old.take 8) == 0 then t.placeContinuation (s.w a) ra else t
            .whole (t.retired false).finishTask

/-! ### DONE (R258, R259, R282, R283, R328) -/

/-- A barrier record's fields. -/
structure BarrierRec where
  scope : BitVec 3
  arrivals : Nat
  handler : Word
  target : Nat
  deriving DecidableEq, Repr

/-- The record that 64 bytes hold, or none where DONE raises ENC (R328). -/
def barrierRec (w : List Word) (leaves : Nat) : Option BarrierRec :=
  let x := w.getD 0 0
  let y := w.getD 2 0
  let scope := x.extractLsb' 16 3
  let arrivals := (x.extractLsb' 0 16).toNat
  let target := (y.extractLsb' 0 32).toNat
  if x.extractLsb' 19 45 != 0 || 4 < scope.toNat || arrivals == 0 || y.extractLsb' 32 32 != 0 || w.getD 3 0 != 0 ||
      (w.drop 5).any (· != 0) || (w.getD 1 0 != 0 && leaves ≤ target) then none
  else some { scope := scope, arrivals := arrivals, handler := w.getD 1 0, target := target }

/-- The counter bound to a record by a launch, by flight and number. -/
def findBarrier (l : List (Nat × Flight)) (ra : Word) (launch : Nat) : Option (Nat × Nat × Barrier) :=
  match l with
  | [] => none
  | (f, x) :: r =>
    match x.barriers.find? fun b => b.2.record == ra && b.2.launch == launch with
    | some (i, b) => some (f, i, b)
    | none => findBarrier r ra launch

/-- The barrier counters of the saved flights (R469). -/
def State.savedBarriers (s : State) : List Barrier :=
  ((s.liveImages.filter (·.flight)).flatMap (·.barriers)).map (·.2)

/-- Whether the counter bound to a record by a launch stands in the save of a flight (R282, R469). -/
def State.savedBarrier (s : State) (ra : Word) (launch : Nat) : Bool :=
  s.savedBarriers.any fun b => b.record == ra && b.launch == launch

/-- The lowest-numbered free counter of a flight's 16 (R282). -/
def freeCounter (l : List (Nat × Barrier)) : Option Nat := (List.range 16).find? fun i => (find? l i).isNone

/-- One arrival at a counter, which marks the issuing core done (R258, R283). -/
def Barrier.arrive (b : Barrier) (core : Nat) : Barrier :=
  { b with count := b.count - 1, marks := if b.marks.any (· == core) then b.marks else core :: b.marks }

/-- A phase's first DONE loads the record's fields (R258). -/
def Barrier.load (b : Barrier) (r : BarrierRec) : Barrier :=
  if b.marks.isEmpty && b.count == b.arrivals then
    { b with scope := r.scope, arrivals := r.arrivals, count := r.arrivals, handler := r.handler, target := r.target }
  else b

/-- A DONE counts at the counter of its record, which it binds if none is bound (R258, R282, R328). DESIGN CHOICE (log 65):
that of a task of no launch binds a counter too, which no launch's end frees, and a DONE whose counter stands in the save of a
flight waits for the flight, as a sender to it does (R276, R466). -/
def State.arrive (s : State) (ra : Word) (r : BarrierRec) : Res :=
  let c := s.me
  let core := s.homeCore
  match findBarrier s.flights ra c.t.launch with
  | some (f, i, b) =>
    if b.count == 0 then .wait .phase s
    else
      let b := (b.load r).arrive core
      let t := s.onFlight f fun x => { x with barriers := put x.barriers i b }
      .done (if inScope b.scope (2 ^ 20 + f) s.cur then t else t.onCsr (·.setXs))
  | none =>
    if s.savedBarrier ra c.t.launch then .wait .send s else
    let f := flightOf core
    match freeCounter (s.flight f).barriers with
    | none => .wait .done s
    | some i =>
      let b : Barrier := { record := ra, launch := c.t.launch, dom := c.c.dom, asid := c.c.asid, ttb := c.c.ttb,
                           scope := r.scope, arrivals := r.arrivals, count := r.arrivals, handler := r.handler,
                           target := r.target, group := c.t.group, marks := [] }
      let t := s.onFlight f fun x => { x with barriers := put x.barriers i (b.arrive core) }
      .done (if inScope r.scope (2 ^ 20 + f) s.cur then t else t.onCsr (·.setXs))

/-- DONE (R258, R328). -/
def execDoneB (a : WReg) (s : State) : Out :=
  issue (.doneB a) s fun s =>
    let ea := s.w a
    let ra := s.recordAt ea
    let leaves := ((s.launch? s.me.t.launch).map (·.members.length)).getD 0
    if !aligned ea 64 then .trap .align ea s
    else if s.hasParked then .wait .replay s
    else ((s.load ra 64).naming ea).then fun b t =>
      match barrierRec (wordsOf b) leaves with
      | none => .trap .enc 0 s
      | some r => t.arrive ra r

/-! ### LAUNCH (R285, R329) -/

/-- The launch queue of the issuing core (R285). -/
def State.launchQueue (s : State) : List Child :=
  if isG s.cur then (s.gcore (coreOf s.cur)).launchq else (s.core s.myCore).launchq

/-- A child enters the launch queue of the issuing core. -/
def State.pushChild (s : State) (c : Child) : State :=
  if isG s.cur then
    let g := s.gcore (coreOf s.cur)
    s.setGcore (coreOf s.cur) { g with launchq := g.launchq ++ [c] }
  else s.onCore s.myCore fun x => { x with launchq := x.launchq ++ [c] }

/-- LAUNCH (R285, R329). A task of no launch has no quota (log 28). -/
def execLaunchI (d a : WReg) (s : State) : Out :=
  issue (.launchI d a) s fun s =>
    let ea := s.w a
    let n := s.me.t.launch
    if s.me.c.gd != 0 then .trap .gate 0 s
    else if !aligned ea 64 then .trap .align ea s
    else if s.hasParked then .wait .replay s
    else match s.launch? n with
      | none => .done (s.resultW d 2)
      | some l =>
        if 8 ≤ l.depth then .done (s.resultW d 1)
        else if l.quota ≤ l.children then .done (s.resultW d 2)
        else if 16 ≤ s.launchQueue.length then .done (s.resultW d 3)
        else
          let c : Child := { record := ea, dom := s.me.c.dom, asid := s.me.c.asid, ttb := s.me.c.ttb, parent := n, depth := l.depth,
                             parentDom := l.dom, process := l.process, part := l.part, seq := s.seq }
          .done (((s.setLaunch n { l with children := l.children + 1 }).pushChild c).stamp.resultW d 0)

/-! ### Timelines (R288, R289, R330, R331) -/

/-- TLSIG (R288, R330). -/
def execTlsig (a b : WReg) (c : BitVec 3) (s : State) : Out :=
  issue (.tlsig a b c) s fun s =>
    let ea := s.w a
    if !aligned ea 16 then .trap .align ea s
    else if s.hasParked then .wait .replay s
    else (s.rmw ea 8 fun old => some (natLe 8 (leNat old + (s.w b).toNat))).then fun _ t =>
      .done (t.chain s.rels (t.relPlaces ea 8) (some (t.myRel c)))

/-- Whether a snapshot meets the condition of R288. -/
def tlMet (value status threshold : Word) : Bool := status.getLsbD 0 || !(value - threshold).msb

/-- What a satisfied TLWAIT writes (R331). -/
def tlResult (status : Word) : Word := if status.getLsbD 0 then 1 else 0

/-- Whether an address lies on another chip. -/
def State.isRemote (s : State) (ea : Word) : Bool :=
  (s.relPlaces ea 1).any fun p => p.key < 2 ^ 64 && p.key / 2 ^ 46 != s.chip.toNat

/-- TLWAIT (R288, R331): a snapshot of both words; on another chip's timeline its request leaves once, it waits there for a wake,
and acquires at system scope (R289). -/
def execTlwait (d a b : WReg) (c : BitVec 3) (s : State) : Out :=
  issue (.tlwait d a b c) s fun s =>
    let ea := s.w a
    let t0 := { s with me := { s.me with wokeBy := none } }
    if !aligned ea 16 then .trap .align ea s
    else if s.me.st == .waiting .tlwaitRemote then
      match s.me.wokeBy with
      | some (v, st) =>
        if tlMet v st (s.w b) then .done ((t0.acquire t0.rels ea 16 4).resultW d (tlResult st)) else .wait .tlwaitRemote t0
      | none => .wait .tlwaitRemote s
    else (s.load ea 16).then fun y t =>
      let value : Word := BitVec.ofNat 64 (leNat (y.take 8))
      let status : Word := BitVec.ofNat 64 (leNat (y.drop 8))
      if t.isRemote ea then .wait .tlwaitRemote t
      else if tlMet value status (s.w b) then .done ((t.acquire t.rels ea 16 c).resultW d (tlResult status))
      else .wait .tlwait t

/-! ### MIGRATE and the move of R77 (R333, R334) -/

/-- c.coreid (R55). -/
def coreidOf (chip : BitVec 18) (k : Nat) : Word :=
  BitVec.ofNat 64 (coreOf k + (if isG k then 2 ^ 15 else 0) + 2 ^ 16 * chip.toNat)

/-- The first free thread of a die's 64 (R334). DESIGN CHOICE (log 65): which free one R77 and R333 take. -/
def State.freeThread (s : State) (die : Nat) : Option Nat :=
  ((List.range 64).map fun i => gkey (16 * die + i / 4) (i % 4)).find? fun k => !(s.ctx k).live

/-- Commands, rows, banks, messages and releases of a task follow it to another context. DESIGN CHOICE (log 65): acquires
from then on judge its earlier releases by the scope instances of the new place (R296). -/
def State.rename (s : State) (core old new serial : Nat) : State :=
  let eng := fun (c : EngCmd) => if c.ctx == old && c.task == serial then { c with ctx := new } else c
  let loft := fun (c : LoftCmd) => if c.ctx == old && c.task == serial then { c with ctx := new } else c
  let row := fun (r : Row) => if r.ctx == old && r.task == serial then { r with ctx := new } else r
  let bank := fun (b : Bank) => if b.ctx == old && b.task == serial then { b with ctx := new } else b
  let msg := fun (e : Entry) => if e.fromCtx == old && e.fromSerial == serial then { e with fromCtx := new } else e
  let s := s.onCore core fun x =>
    { x with eng := { x.eng with queue := x.eng.queue.map eng }, loftq := x.loftq.map loft,
             rows := x.rows.map fun p => (p.1, row p.2) }
  let l := s.loft (octetOf core)
  let s := if (find? s.lofts (octetOf core)).isSome then
      s.setLoft (octetOf core) { l with bank0 := bank l.bank0, bank1 := bank l.bank1 } else s
  let inv := fun (i : Inval) => if i.ctx == old && i.serial == serial then { i with ctx := new } else i
  let rel := fun (r : Rel) => if r.agent == old && r.task == serial then { r with agent := new } else r
  { s with msgs := s.msgs.map msg, invals := s.invals.map inv, rels := s.rels.map fun p => (p.1, p.2.map rel) }

/-- The REP state as a word of the hardware save area (R181): bit 0 tells that there is one; then n − 1, count, stride, flags, the
pass, the instruction, and how many halfwords before the saved PC the body starts. DESIGN CHOICE (log 61): this layout. -/
def repWord (pc : Word) : Option Rep → Word
  | none => 0
  | some r => .ofNat 64 (1 + 2 * ((r.n - 1) % 2 ^ 4) + 2 ^ 5 * (r.count % 2 ^ 13) + 2 ^ 18 * r.stride.toNat + 2 ^ 23 * r.flags.toNat +
      2 ^ 28 * (r.pass % 2 ^ 13) + 2 ^ 41 * (r.index % 2 ^ 4) + 2 ^ 45 * ((pc - r.body).toNat / 2 % 2 ^ 6))

/-- The REP state that such a word gives a task at a PC. -/
def repOf (pc x : Word) : Option Rep :=
  let f := fun (lo n : Nat) => (x.extractLsb' lo n).toNat
  if x.getLsbD 0 then
    some { body := pc - .ofNat 64 (2 * f 45 6), n := f 1 4 + 1, count := f 5 13, stride := x.extractLsb' 18 5, flags := x.extractLsb' 23 5,
           pass := f 28 13, index := f 41 4 }
  else none

/-- The hardware save area of a task (R32, R110, R181, R238): the pending prefix word, sc1 to sc7, the REP state, the
stochastic-rounding state and the codebook registers. DESIGN CHOICE (log 61): in this order. -/
def Ctx.saveArea (c : Ctx) : List Byte :=
  natLe 4 (if c.c.pp then c.fmt.toNat else 0) ++ (c.r.sc.toList.drop 1).flatMap (fun x => natLe 4 x.toNat) ++
    natLe 8 (repWord c.pc c.rep).toNat ++ natLe 8 c.c.sr.toNat ++ c.r.cb.toList.flatMap fun x => natLe 32 x.toNat

/-- What hardware writes into the workspace of a task that leaves its context (R33): the saved PC and psw, and the hardware save
area. -/
def State.saveWords (s : State) (k : Nat) : State :=
  let c := s.ctx k
  match wsKey k c with
  | none => s
  | some a => s.hwBytes (a + 0x540) (natLe 8 c.pc.toNat ++ natLe 8 c.c.psw.toNat ++ c.saveArea)

/-- The task of a context as hardware reads it from a workspace when it resumes (R33, R110, R181, R238). -/
def Ctx.fromArea (c : Ctx) (m : List Host.Cell) (a : Nat) : Ctx :=
  let pc := Memory.word m (a + 0x540) &&& ~~~ 1
  let at_ := fun (o n : Nat) => leNat (Memory.bytes m (a + o) n)
  { c with
    pc := pc, fmt := .ofNat 32 (at_ 0x550 4), rep := repOf pc (.ofNat 64 (at_ 0x570 8)),
    c := { c.c with psw := .ofNat 19 (at_ 0x548 8), sr := .ofNat 64 (at_ 0x578 8) },
    r := { c.r with
      sc := Vector.ofFn fun i => if i.val == 0 then 0 else .ofNat 32 (at_ (0x550 + 4 * i.val) 4),
      cb := Vector.ofFn fun i => .ofNat 256 (at_ (0x580 + 32 * i.val) 32) } }

/-- The issuing task moves to another context; its old one is FREE (R33, R333). Each context keeps its own c.seed (R55). -/
def State.moveTo (s : State) (new : Nat) (home : Option Nat) : State :=
  let old := s.cur
  let seed := (s.ctx new).c.seed
  let s := (s.saveWords old).rename s.homeCore old new s.me.c.serial
  let c := s.me
  let left : Ctx := { Ctx.idle with c := { Csr.zero with seed := c.c.seed }, last := c.last }
  let c := { c with st := .ready, t := { c.t with home := home }, c := { c.c with seed := seed } }
  let t := ({ s with me := left }).setCtx new c
  -- a core that the task leaves empty takes part in a cut as such (R471)
  if !isG old && t.coreEmpty (coreOf old) then t.flipAt (coreOf old) else t

/-- Where MIGRATE may move the task, if anywhere yet. -/
def State.destination (s : State) : Option Nat :=
  if isG s.cur then
    match s.me.t.home with
    | none => none
    | some k =>
      let core := coreOf k
      if (s.core core).box.isSome || (s.core core).mode != .serving then none
      else (s.freeCtx core 0).map (16 * core + ·)
  else s.freeThread (ctxDie s.cur)

/-- Whether a move still waits for the task's older instructions or its parked stores (R333). -/
def State.moveWaits (s : State) : Bool := s.behind.isSome || s.hasParked

/-- The trace BREAK of a MIGRATE comes on the context to which the task has moved (R333, R461). -/
def State.tracedAt (s : State) (k : Nat) : State := if (s.ctx k).c.tr then (s.focus k).traced.focus s.cur else s

/-- MIGRATE (R333). -/
def execMigrate (d : WReg) (s : State) : Out :=
  issue (.migrate d) s fun s =>
    if s.me.c.gd != 0 then .trap .gate 0 s
    else if isG s.cur && s.me.t.home.isNone then .done (s.resultW d (coreidOf s.chip s.cur))
    else match if s.moveWaits then none else s.destination with
      | none => .wait .migrate s
      | some k =>
        let t := (s.resultW d (coreidOf s.chip k)).retireQuiet false none 4
        .whole ((t.moveTo k (if isG s.cur then none else some s.cur)).tracedAt k)

/-- A GMATH instruction on a small core (R77): it moves the task, and is executed there. -/
def State.gmathMove (s : State) : Res :=
  if s.me.c.gd != 0 then .trap .gate 0 s
  else match if s.moveWaits then none else s.destination with
    | none => .wait .migrate s
    | some k => .whole (s.moveTo k (some s.cur))

/-- A GMATH instruction (R77, R159): on a small core the move, on a gondola core its effect. DESIGN CHOICE (log 51): that a
gate raises GATE is said of a small core only, so a gondola core executes it inside a gate too. -/
def gmath (i : Instr) (s : State) (f : Out) : Out :=
  if isG s.cur then f else issue i s State.gmathMove

/-- FDIV_D (R159). -/
def execFdivD (d a b : Opnd) (s : State) : Out :=
  gmath (.fdivD d a b) s <| fop2 (.fdivD d a b) .fp64 d a b .dyn s fun x y _ => x.div y

/-- FSQRT_D (R159). -/
def execFsqrtD (d a : Opnd) (s : State) : Out :=
  gmath (.fsqrtD d a) s <| fop1 (.fsqrtD d a) .fp64 d a .dyn s Val.sqrt

/-- FDIV_S (R159). -/
def execFdivS (d a b : Opnd) (s : State) : Out :=
  gmath (.fdivS d a b) s <| fop2 (.fdivS d a b) .fp32 d a b .dyn s fun x y _ => x.div y

/-- FSQRT_S (R159). -/
def execFsqrtS (d a : Opnd) (s : State) : Out :=
  gmath (.fsqrtS d a) s <| fop1 (.fsqrtS d a) .fp32 d a .dyn s Val.sqrt

/-- A 128-bit result: the high half is pushed, then the low half is the result (R159). -/
def wide (i : Instr) (d a b : Opnd) (s : State) (f : Nat → Nat → Nat) : Out :=
  issue i s fun s =>
    match s.me.r.val2 a b with
    | none => .wait .queue s
    | some (x, y) =>
      if s.me.room d then
        let p := f x.toNat y.toNat
        .done (((s.pop2 a b).onRegs (·.pushL (BitVec.ofNat 64 (p / 2 ^ 64)))).result d (BitVec.ofNat 64 p))
      else .wait .queue s

/-- MUL128 (R159). -/
def execMul128 (d a b : Opnd) (s : State) : Out :=
  gmath (.mul128 d a b) s <| wide (.mul128 d a b) d a b s fun x y => x * y

/-- The carry-less product of x and the low n bits of y. -/
def clmulNat (x y : Nat) : Nat → Nat
  | 0 => 0
  | n + 1 => (if y.testBit n then x * 2 ^ n else 0) ^^^ clmulNat x y n

/-- CLMUL (R159). -/
def execClmul (d a b : Opnd) (s : State) : Out :=
  gmath (.clmul d a b) s <| wide (.clmul d a b) d a b s fun x y => clmulNat x y 64

end Sys2Proof.Machine
end
end

