-- ==== Sys2Proof/Machine/Box.lean ====
section
/-!
DEFINITION. The BOX group (R404 to R410, R413, R414, R420, R429 to R435). A box's registers are held with its thread, and
its fetch segments and hop counts only take time (R415 to R418, log 13).
-/
noncomputable section
namespace Sys2Proof.Machine

/-! ### COMPOSE and DECOMP (R405, R409, R413, R420, R430, R431) -/

/-- Whether a core of a flight, by its local number, leads a group of k (R413). -/
def leads (local_ k : Nat) : Bool :=
  match k with
  | 2 => local_ % 2 == 0
  | 4 => local_ / 8 % 2 == 0 && local_ % 2 == 0
  | 8 => local_ / 8 % 2 == 0 && local_ % 4 == 0
  | _ => false

/-- Whether a core can lead a box of k: the shape, and members that are enabled and no service cores (R405, R413). -/
def State.shapeOk (s : State) (core k : Nat) : Bool :=
  leads (core % 32) k && (boxMembers core k).all fun c => s.coreEnabled c && !s.isService c

/-- Whether a member has a live context other than the issuer's, or an entry in its run queue or deque (R405). -/
def State.boxBusy (s : State) (core k : Nat) (issuer : Option Nat) : Bool :=
  (boxMembers core k).any fun c =>
    !(s.core c).runq.isEmpty || !(s.core c).deque.isEmpty ||
      (s.liveCtxs fun i _ => !isG i && coreOf i == c && some i != issuer) != []

/-- The members of a box are bound (R414). -/
def State.bindBox (s : State) (lead k : Nat) : State :=
  (boxMembers lead k).foldl (fun s c => s.onCore c fun x => { x with box := some (lead, k) }) s

/-- COMPOSE (R405, R430). -/
def execCompose (d a : WReg) (s : State) : Out :=
  issue (.compose d a) s fun s =>
    let k := (s.w a).toNat
    let core := s.myCore
    if s.me.c.gd != 0 then .trap .gate 0 s
    else if s.hasParked then .wait .replay s
    else if !s.shapeOk core k then .done (s.resultW d 2)
    else if s.boxBusy core k (some s.cur) then .done (s.resultW d 1)
    else .done (((s.bindBox core k).onCsr (·.setBx true)).resultW d 0)

/-- DECOMP (R409, R431). -/
def execDecomp (d : WReg) (s : State) : Out :=
  issue (.decomp d) s fun s =>
    if !s.me.c.bx then .done (s.resultW d 1)
    else match s.behind with
    | some w => .wait w s
    | none => .done (((s.unbox s.myCore).onCsr (·.setBx false)).resultW d 0)

/-! ### TIME and DLREAD (R407, R432, R433) -/

/-- The lock status word of a die (R432). -/
def Die.status (d : Die) : Word :=
  let off : Int := max (-(2 ^ 31 - 1)) (min (2 ^ 31 - 1) d.offset)
  BitVec.ofNat 64 ((if d.locked then 1 else 0) + (if d.holdover then 2 else 0) + (if d.everLocked then 4 else 0)) |||
    ((BitVec.ofInt 32 off).setWidth 64 <<< 16)

/-- TIME (R432). -/
def execTimeI (d a : WReg) (s : State) : Out :=
  issue (.timeI d a) s fun s =>
    let t := s.die (ctxDie s.cur)
    let x : Word := match (s.w a).toNat with
      | 0 => BitVec.ofNat 64 t.time
      | 1 => t.status
      | _ => 0xFFFFFFFFFFFFFFFF
    .done (s.resultW d x)

/-- DLREAD (R407, R433). In a gate's wrap-up the task has no diversion PC of R403 yet: a free value (log 5). -/
def execDlread (d a : WReg) (s : State) : Out :=
  issue (.dlread d a) s fun s =>
    let t := s.me.t
    let ones : Word := 0xFFFFFFFFFFFFFFFF
    match (s.w a).toNat with
    | 0 => .done (s.resultW d (s.dlOf t.launch (ctxDie s.cur)))
    | 1 =>
      if !s.me.c.wu then .done (s.resultW d ones)
      else if t.wrapLeft.isSome then .done (s.resultW d t.divPc)
      else .done ({ s with freeCount := s.freeCount + 1 }.resultW d (Config.freeWord s.freeCount))
    | 2 => .done (s.resultW d (if s.me.c.wu then (t.wrapLeft.map (BitVec.ofNat 64)).getD ones else ones))
    | 3 => .done (s.resultW d (BitVec.ofInt 64 (((s.launch? t.launch).map (·.slackSeen)).getD (2 ^ 63 - 1))))
    | _ => .done (s.resultW d ones)

/-! ### PVALID (R408, R434) -/

/-- PVALID (R408). -/
def execPvalid (a b : WReg) (s : State) : Out :=
  issue (.pvalid a b) s fun s =>
    let ea := s.w a
    if !aligned ea 64 then .trap .align ea s
    else if s.hasParked then .wait .replay s
    else (s.rmw ea 8 fun old => some (natLe 8 (leNat old ||| (s.w b).toNat))).then fun _ t =>
      .done (t.chain s.rels (t.relPlaces ea 8) (some (t.myRel 4)))

end Sys2Proof.Machine
end
end

