-- ==== Sys2Proof/Machine/System.lean ====
section
/-!
DEFINITION. The SYS group but for traps, ERET, CTXSAVE and CTXLOAD: the control registers (R55, R57, R462), invalidation
(R441, R442, R450), WFI (R464) and POTW (R440).
-/
noncomputable section
namespace Sys2Proof.Machine

/-! ### Control registers (R55, R57, R462) -/

/-- The control registers that a user may read (R55). -/
def userReads (n : BitVec 12) : Bool := [0, 6, 9, 10, 11, 12, 13, 15, 17].any (· == n.toNat)

/-- A control register as the issuing context reads it (R55, R57). -/
def State.readCsr (s : State) (n : BitVec 12) : Word :=
  let c := s.me.c
  match n.toNat with
  | 0 => if c.s then c.psw.setWidth 64 else (c.psw.setWidth 16).setWidth 64
  | 1 => c.wp
  | 2 => c.cause
  | 3 => c.xpc
  | 4 => c.xpsw
  | 5 => c.tval
  | 6 => c.dom.setWidth 64
  | 7 => c.asid.setWidth 64
  | 8 => c.ttb
  | 9 => BitVec.ofNat 64 (16 * c.serial + numOf s.cur)
  | 10 => coreidOf s.chip s.cur
  | 11 => c.lrec
  | 12 => c.cyc
  | 13 => c.ret
  | 14 => BitVec.ofNat 64 (s.part s.myPart).wdog
  | 15 => c.swin
  | 16 => gstkOf s.me.frames
  | 17 => s.dlOf s.me.t.launch (ctxDie s.cur)
  | 18 => c.seed
  | _ => 0

/-- The psw after a write (R57, R462). -/
def writePsw (old : BitVec 19) (x : Word) : BitVec 19 :=
  let new := x.setWidth 19
  if old.getLsbD 0 then (old &&& ~~~ 0x607FD#19) ||| (new &&& 0x607FD#19)
  else
    let w := (old &&& ~~~ 0x007F8#19) ||| (new &&& 0x007F8#19)
    setBit w 2 (old.getLsbD 2 && new.getLsbD 2)

/-- c.wp is written (R32, R36): the w, v and m registers are the words of the workspace it names. Where it names no
workspace within a scratchpad they are free values (log 5). -/
def State.setWp (s : State) (x : Word) : State :=
  let c := s.me
  let core := homeOf s.cur c
  let wp := x &&& ~~~ 63
  let place := fun (w : Word) => match windowKey core w.toNat with
    | some a => if spadOff a + 1536 ≤ 2 ^ 18 then some a else none
    | none => none
  let m := match place c.c.wp with
    | some a => Memory.setBytes s.mem (a + 8) c.r.spill
    | none => s.mem
  let s := { s with mem := m }
  let csr := { c.c with wp := wp }
  match place wp with
  | some a => { s with me := { c with c := csr, r := c.r.refill (s.workspace s.cur a) a } }
  | none =>
    let n := s.freeCount
    let f := fun (i : Nat) => Config.freeWord (n + i)
    let r := { c.r with
      w := Vector.ofFn fun i => f i.val,
      v := Vector.ofFn fun i => BitVec.ofNat 512 (leNat ((List.range 8).flatMap fun j => natLe 8 (f (32 + 8 * i.val + j)).toNat)),
      m := Vector.ofFn fun i => f (160 + i.val) }
    { s with me := { c with c := csr, r := r }, freeCount := n + 168 }

/-- A control register is written in supervisor state, or c.psw in user state (R57, R462). -/
def State.writeCsr (s : State) (n : BitVec 12) (x : Word) : State :=
  match n.toNat with
  | 0 => s.onCsr fun c => { c with psw := writePsw c.psw x }
  | 1 => s.setWp x
  | 7 => s.onCsr fun c => { c with asid := x.setWidth 16 }
  | 8 => s.onCsr fun c => { c with ttb := x &&& 0x00003FFFFFFF0000 }
  | 14 => s.setPart s.myPart { s.part s.myPart with wdog := max (2 ^ 10) (min (2 ^ 26) x.toNat) }
  | 18 => s.onCsr fun c => { c with seed := x }
  | _ => s

/-- CSRR (R55, R462). -/
def execCsrr (d : Opnd) (n : BitVec 12) (s : State) : Out :=
  issue (.csrr d n) s fun s =>
    if !s.me.c.s && !userReads n then .trap .priv 0 s
    else if !s.me.room d then .wait .queue s
    else if n == 0 then
      match s.behind with
      | some w => .wait w s
      | none => .done (s.result d (s.readCsr n))
    else .done (s.result d (s.readCsr n))

/-- CSRW, CSRS and CSRC (R57, R462): the new value from the old one and the source. -/
def csrWrite (i : Instr) (a : Opnd) (n : BitVec 12) (s : State) (f : Word → Word → Word) : Out :=
  issue i s fun s =>
    if !s.me.c.s && n != 0 then .trap .priv 0 s
    else match s.me.r.val a with
      | none => .wait .queue s
      | some x =>
        match s.behind with
        | some w => .wait w s
        | none =>
          let y := f (s.readCsr n) x
          if n == 0 && 6 ≤ (y.extractLsb' 3 3).toNat then .trap .enc 0 s
          else .done ((s.pop a).writeCsr n y)

/-- CSRW (R462). -/
def execCsrw (a : Opnd) (n : BitVec 12) (s : State) : Out := csrWrite (.csrw a n) a n s fun _ x => x

/-- CSRS (R462). -/
def execCsrs (a : Opnd) (n : BitVec 12) (s : State) : Out := csrWrite (.csrs a n) a n s fun o x => o ||| x

/-- CSRC (R462). -/
def execCsrc (a : Opnd) (n : BitVec 12) (s : State) : Out := csrWrite (.csrc a n) a n s fun o x => o &&& ~~~ x

/-! ### Invalidation (R441, R442, R450) -/

/-- The agents that hold a translation under an invalidation; every other agent has none to give up. -/
def State.invAgents (s : State) (i : Inval) : List InvAgent :=
  let any := fun (l : List TlbEntry) => l.any i.covers
  (s.cores.filter fun p => any p.2.tlb).map (fun p => InvAgent.core p.1) ++
  (s.flights.filter fun p => any p.2.tlb).map (fun p => InvAgent.flight p.1) ++
  (((s.cores ++ s.liveImages.flatMap (·.cores)).filter fun p => p.2.eng.queue.any fun c => any c.holding).map fun p =>
    InvAgent.engine p.1).eraseDups ++
  (s.gcores.filter fun p => any p.2.tlb).map (fun p => InvAgent.gondola p.1)

/-- An invalidation is posted; one that nobody has to acknowledge is over. -/
def State.post_ (s : State) (i : Inval) : State :=
  let i := { i with agents := s.invAgents i }
  if i.agents.isEmpty && !i.ats then s else { s with invals := s.invals ++ [i] }

/-- TLBINV (R441). -/
def execTlbinv (a b : Opnd) (s : State) : Out :=
  issue (.tlbinv a b) s fun s =>
    match s.me.r.val2 a b with
    | none => .wait .queue s
    | some (x, y) =>
      if y.extractLsb' 48 16 != 0 then .trap .enc 0 s
      else if s.hasParked then .wait .replay s
      else
        let lo := x.toNat / 2 ^ 19 * 2 ^ 19
        let i : Inval :=
          { id := s.seq, ctx := s.cur, serial := s.me.c.serial, asid := y.extractLsb' 0 16, lo := lo,
            hi := lo + ((y.extractLsb' 16 32).toNat + 1) * 2 ^ 19, agents := [], ats := s.host.up }
        .done (((s.pop2 a b).post_ i).stamp)

/-- TLBSYNC (R442, R450). -/
def execTlbsync (s : State) : Out :=
  issue .tlbsync s fun s =>
    if s.invals.any fun i => i.ctx == s.cur && i.serial == s.me.c.serial then .wait .tlbsync s else .done s

/-! ### WFI (R464) -/

/-- WFI (R464). -/
def execWfi (s : State) : Out :=
  issue .wfi s fun s =>
    if s.me.wake || !(s.flight (s.servedBy s.cur)).supq.isEmpty then .done { s with me := { s.me with wake := false } }
    else .wait .wfi s

/-! ### POTW (R353, R440, R501) -/

/-- Images that stand in a range of keys are gone; what they held is lost. -/
def Image.erase (i : Image) (lo n : Nat) : Image :=
  if i.segs.any fun q => q.2.1 < lo + n && lo < q.2.1 + q.2.2 then
    { i with segs := [], bad := (List.range 4096).map (BitVec.ofNat 12) }
  else i

/-- A page's lines are rewritten as zeros under a seal (R353, R370, R501). -/
def State.zeroPage (s : State) (page key : Nat) : State :=
  let lo := page * 2 ^ 19
  { s with
    mem := Memory.clear s.mem lo (2 ^ 19),
    pageKey := put s.pageKey page key,
    lineKey := s.lineKey.filter (fun p => p.1 / 2 ^ 13 != page),
    eccLines := s.eccLines.filter (fun l => l / 2 ^ 13 != page),
    rels := s.rels.filter (fun p => p.1 / 2 ^ 19 != page),
    images := s.images.map (·.erase lo (2 ^ 19)) }

/-- The bits of an ownership entry that must be zero (R349). -/
def potReserved (e : Word) : Bool := e.extractLsb' 42 22 != 0 || e.extractLsb' 17 7 != 0 || e.getLsbD 12

/-- The status of POTW (R440). A new owner without an active key is refused on a change of partition too (R353). -/
def State.potwStatus (s : State) (a e : Word) : Nat :=
  let page := (s.chip.toNat * 2 ^ 46 + a.toNat % 2 ^ 46) / 2 ^ 19
  let old := s.potEntry page
  let changes := potOwner old != potOwner e || potPart old != potPart e
  if a.extractLsb' 46 18 != 0 || !Config.dramExists a.toNat || potReserved e then 1
  else if (potValid old && potPart old != s.myPart) || potPart e != s.myPart then 2
  else if changes && (keyOf s.keys (potOwner e)).isNone then 3
  else 0

/-- POTW writes the entry (R353, R440). -/
def State.potw (s : State) (a e : Word) : State :=
  let page := (s.chip.toNat * 2 ^ 46 + a.toNat % 2 ^ 46) / 2 ^ 19
  let old := s.potEntry page
  let s :=
    if potOwner old != potOwner e || potPart old != potPart e then
      match keyOf s.keys (potOwner e) with
      | some k => s.zeroPage page (sealNo k (potOwner e))
      | none => s
    else s
  { s with pot := put s.pot page e }.log 8 0 (potOwner e) (a &&& 0x00003FFFFFF80000) old e

/-- POTW (R440). The old entry in a bad line is fatal (R371). -/
def execPotw (d a b : Opnd) (s : State) : Out :=
  issue (.potw d a b) s fun s =>
    match s.me.r.val2 a b with
    | none => .wait .queue s
    | some (x, e) =>
      if !s.me.room d then .wait .queue s
      else if s.hasParked then .wait .replay s
      else
        let n := s.potwStatus x e
        let t := s.pop2 a b
        if let some (c, k) := if n == 1 then none else s.potBad ((s.chip.toNat * 2 ^ 46 + x.toNat % 2 ^ 46) / 2 ^ 19) then
          (s.badMem s c k 0 x : Mem Unit).then fun _ t => .done t
        else if n != 0 then .done (t.result d (BitVec.ofNat 64 n))
        else if s.myLogFull then .wait .log s
        else .done ((t.potw x e).result d 0)

end Sys2Proof.Machine
end
end

