-- ==== Sys2Proof/Machine/Placement.lean ====
section
/-!
DEFINITION. Launch records (R264 to R266) and the placement of their leaves (R267 to R271). What the front end chooses
freely, log 17 says.
-/
noncomputable section
namespace Sys2Proof.Machine

/-! ### The record (R264, R266) -/

/-- n bytes from offset o of a record, as a number. -/
def field (b : List Byte) (o n : Nat) : Nat := leNat ((b.drop o).take n)

/-- A level entry (R266): none where a value is refused. -/
def levelOf (e : Nat) : Option Level :=
  let place := e / 2 ^ 23 % 8
  let scope := e / 2 ^ 20 % 8
  let kind := e / 2 ^ 16 % 16
  let box := e / 2 ^ 26 % 4
  if e / 2 ^ 28 != 0 || 3 < place || 4 < scope || 7 < kind || e % 2 ^ 16 == 0 then none
  else some { count := e % 2 ^ 16, kind := kind, scope := scope, place := place, box := if box == 0 then 0 else 2 ^ box }

/-- The scopes that a kind may bind (R267). -/
def scopesOf (kind : Nat) : List Nat :=
  match kind with
  | 0 => [0]
  | 1 => [0, 1, 2, 3]
  | 2 => [1]
  | 3 => [1, 2, 3]
  | 4 => [2, 3]
  | 5 => [2, 3]
  | 6 => [3, 4]
  | _ => [4]

/-- Whether the levels are well formed (R267), outermost first; the counts are checked as they are placed. -/
def levelsOk : List Level → Bool
  | [] => true
  | [l] => (scopesOf l.kind).any (· == l.scope) && (l.box != 0) == (l.kind == 2)
  | l :: m :: r =>
    (scopesOf l.kind).any (· == l.scope) && (l.box != 0) == (l.kind == 2) && l.kind != 0 && l.kind != 2 &&
      m.kind < l.kind && levelsOk (m :: r)

/-- The levels of a record, or none where an entry is refused or an entry beyond the count is not zero. -/
def levelsOf (b : List Byte) (n i : Nat) : Nat → Option (List Level)
  | 0 => some []
  | k + 1 =>
    let e := field b (0x40 + 4 * i) 4
    if n ≤ i then (if e == 0 then levelsOf b n (i + 1) k else none)
    else match levelOf e, levelsOf b n (i + 1) k with
      | some l, some r => some (l :: r)
      | _, _ => none

/-- The checks of R264 on the fields of a record, for a submitting domain; the levels stand apart. -/
def recordOk (b : List Byte) (dom : Dom) : Bool :=
  let flags := field b 0x18 8
  field b 0 8 % 2 == 0 && field b 8 8 % 2 == 0 && field b 8 8 != 0 &&
  flags / 2 ^ 8 % 2 ^ 8 == 0 && flags / 4 % 4 == 0 && flags % 4 != 3 &&
  field b 0x28 8 % 16 == 0 && field b 0x3C 2 ≤ 8 && 1 ≤ field b 0x3E 2 && field b 0x3E 2 ≤ 8 &&
  field b 0x60 4 == dom.toNat && dom != 0xFFF && field b 0x70 8 % 64 == 0 && field b 0x78 8 == 0

/-! ### Units and positions (R267 to R269) -/

/-- A unit of a level: its chip, its cores in ascending order, its context, the box it is, and its indices, innermost
first. -/
structure Spot where
  chip : Nat
  cores : List Nat
  ctx : Option Nat
  box : Nat
  path : List Nat
  deriving DecidableEq, Repr

/-- The cores a partition's launches may use: the enabled cores of its flights. DESIGN CHOICE (log 65): positions are counted over
these, and not over the enabled cores of the whole part (R267). -/
def State.coresOfPart (s : State) (part : Nat) : List Nat :=
  (List.range 256).flatMap fun f =>
    if s.flightPart f == part then (List.range (s.coresOn f)).map (32 * f + ·) else []

/-- The number of the instance of a scope, or of the group of a kind, that holds a core. -/
def instOf (scope core : Nat) : Nat :=
  match scope with
  | 0 => core
  | 1 => core / 32
  | 2 => core / 2048
  | _ => 0

def groupOf (kind core : Nat) : Nat :=
  match kind with
  | 3 => core / 32
  | 4 => core / 2048 * 4 + core / 32 % 64 / 16
  | 5 => core / 2048
  | _ => 0

/-- A list of cores cut into runs of equal key; the cores ascend and so do their keys. -/
def runs (key : Nat → Nat) : List Nat → List (List Nat)
  | [] => []
  | c :: r =>
    match runs key r with
    | (d :: t) :: u => if key c == key d then (c :: d :: t) :: u else [c] :: (d :: t) :: u
    | u => [c] :: u

/-- The positions of a kind among the cores of an instance that lie in a unit (R267, R268, R413). -/
def State.positions (s : State) (l : Level) (u : Spot) (cores : List Nat) : List Spot :=
  let unit := fun (cs : List Nat) => { u with cores := cs }
  match l.kind with
  | 0 => cores.flatMap fun c => (List.range (if s.isService c then 10 else 11)).map fun i => { u with cores := [c], ctx := some i }
  | 1 => cores.map fun c => unit [c]
  | 2 => (cores.filter fun c => s.shapeOk c l.box && (boxMembers c l.box).all fun m => cores.any (· == m)).map fun c =>
      { u with cores := boxMembers c l.box, box := l.box }
  | 3 | 4 | 5 => (runs (groupOf l.kind) cores).map unit
  | _ => [unit cores]

/-- A value of a placement table hashed (R269). -/
def placeHash (a : Word) : Nat := ((a >>> 6) ^^^ (a >>> 13) ^^^ (a >>> 20)).toNat

/-- The starts of a packed run: within one octet for at most 8 cores (R212, R269). -/
def packedStarts (l : Level) (p : List Spot) : List Nat :=
  (List.range (p.length + 1 - l.count)).filter fun i =>
    if l.kind == 1 && l.count ≤ 8 then
      match p[i]?, p[i + l.count - 1]? with
      | some a, some b => (a.cores.headD 0) / 8 == (b.cores.headD 0) / 8
      | _, _ => false
    else true

/-- The ways to place the units of a level among positions, for the front end to choose from (R269). -/
def waysOf (l : Level) (table : List Word) (p : List Spot) : List (List Spot) :=
  if p.length < l.count then []
  else
    let at_ := fun (ix : List Nat) => ix.filterMap fun i => p[i]?
    match l.place with
    | 0 => (packedStarts l p).map fun i => (p.drop i).take l.count
    | 1 => [at_ ((List.range l.count).map fun i => i * p.length / l.count)]
    | 2 => [at_ (table.map fun a => placeHash a % p.length)]
    | _ => if table.any (fun a => p.length ≤ a.toNat % 2 ^ 16) then [] else [at_ (table.map fun a => a.toNat % 2 ^ 16)]

/-- Whether no launch of another domain has a leaf on a core (R51). -/
def State.openCore (s : State) (dom : Dom) (core : Nat) : Bool :=
  !s.launches.any fun p => p.2.dom != dom && p.2.holds s.chip.toNat core

/-- The inner units of one unit (R269): an instance and a run in it, which are the front end's choice (log 17), among those in
which every leaf's core is open, if there are any. -/
def State.placeIn (s : State) (dom : Dom) (l : Level) (table : List Word) (u : Spot) : Option (List Spot) :=
  let ways :=
    if 6 ≤ l.kind && l.scope == 4 then
      -- whole packages of the system, inside a fabric unit that one alone: this package's cores stand for every chip's
      let p := (if u.path.isEmpty then List.range Config.packages else [u.chip]).map fun i => { u with chip := i }
      if l.place == 0 && l.count ≤ p.length then [(p.drop (min s.chip.toNat (p.length - l.count))).take l.count]
      else waysOf l table p
    else (runs (instOf l.scope) u.cores).flatMap fun cs => waysOf l table (s.positions l u cs)
  let open_ := ways.filter fun w => w.all fun x => x.chip != s.chip.toNat || s.openCore dom (x.cores.headD 0)
  match if open_.isEmpty then ways else open_ with
  | [] => none
  | [w] => some w
  | w :: l => some ((w :: l).getD (Config.instanceChoice s.freeCount u.path % (l.length + 1)) w)

/-- The units of a list numbered as the inner units of one unit. -/
def number (u : Spot) (w : List Spot) : List Spot :=
  (List.range w.length).zipWith (fun i x => { x with path := i :: u.path }) w

/-- Every unit of a list is placed. -/
def State.placeAll (s : State) (dom : Dom) (l : Level) (table : List Word) : List Spot → Option (List Spot)
  | [] => some []
  | u :: r =>
    match s.placeIn dom l table u, s.placeAll dom l table r with
    | some w, some q => some (number u w ++ q)
    | _, _ => none

/-- The levels are placed from the outermost on, with their tables. -/
def State.placeLevels (s : State) (dom : Dom) : List (Level × List Word) → List Spot → Option (List Spot)
  | [], u => some u
  | (l, t) :: r, u =>
    match s.placeAll dom l t u with
    | some v => s.placeLevels dom r v
    | none => none

/-- w4 of a leaf: the outer indices combined, the innermost of them varying fastest (R270). -/
def restIndex : List Nat → List Nat → Nat
  | i :: is, c :: cs => i + c * restIndex is cs
  | _, _ => 0

/-- A unit as a leaf; `counts` are the levels' counts, innermost first (R270, R271). -/
def leafOf (counts : List Nat) (num : Nat) (u : Spot) : Leaf :=
  let ix := fun (i : Nat) => BitVec.ofNat 64 (u.path.getD i 0)
  { num := num, chip := u.chip, core := u.cores.headD 0, ctx := u.ctx, p0 := ix 0, p1 := ix 1, p2 := ix 2,
    p3 := BitVec.ofNat 64 (restIndex (u.path.drop 3) (counts.drop 3)), box := u.box }

/-- The leaves of a record's levels (R269 to R271); the units come in the order of their leaf numbers. -/
def State.leavesOf (s : State) (dom : Dom) (part : Nat) (l : List (Level × List Word)) : Option (List Leaf) :=
  let counts := (l.map (·.1.count)).reverse
  let whole : Spot := { chip := s.chip.toNat, cores := s.coresOfPart part, ctx := none, box := 0, path := [] }
  if whole.cores.isEmpty then none
  else (s.placeLevels dom l [whole]).map fun u => (List.range u.length).zipWith (leafOf counts) u

/-- The placement tables of the levels that have one, from an address on (R269). -/
def State.tables (s : State) (w : Who) (a : Word) : List Level → Option (List (Level × List Word))
  | [] => some []
  | l :: r =>
    if l.place < 2 then (s.tables w a r).map ((l, []) :: ·)
    else match s.hwLoad w a (8 * l.count) with
      | none => none
      | some b =>
        let t := (List.range l.count).map fun i => BitVec.ofNat 64 (field b (8 * i) 8)
        (s.tables w (a + BitVec.ofNat 64 ((8 * l.count + 63) / 64 * 64)) r).map ((l, t) :: ·)

end Sys2Proof.Machine
end
end

