-- ==== Sys2Proof/Machine/FrontEnd.lean ====
section
/-!
DEFINITION. The front ends (R265, R273, R285, R286, R428, R482 to R485, R503): queues, the admission of a launch and its
end; leaf starts, dispatch and stealing, messages and barriers (R51, R259, R270, R275 to R281).
-/
noncomputable section
namespace Sys2Proof.Machine

/-! ### Submission queues (R482) -/

/-- The key of queue q of a function. -/
def queueKey (fn q : Nat) : Nat := 16 * fn + q

def State.queue (s : State) (k : Nat) : SubQ := find s.host.queues k .idle
def State.setQueue (s : State) (k : Nat) (q : SubQ) : State := { s with host := { s.host with queues := put s.host.queues k q } }

/-- A 64-bit word of host memory. -/
def State.hostWord (s : State) (a : Nat) : Word := Memory.word s.host.mem a

/-- The partition of a function: virtual function p + 1 is partition p's (R486); the physical function acts in
partition 0 and holds no tenant domain. -/
def partOfFn (fn : Nat) : Nat := fn - 1

/-- Whether the partition of a function holds a domain (R482). -/
def State.fnHolds (s : State) (fn : Nat) (d : Dom) : Bool :=
  d == 0 || (d != 0xFFF && fn != 0 && partOfDom s.parts d == some (partOfFn fn))

/-- An MSI-X message is sent (R483, R489); while the link is down there is nobody to send it to. -/
def State.msix (s : State) (fn vector : Nat) : State :=
  if s.host.up then
    let k := 2048 * fn + vector
    { s with host := { s.host with msix := put s.host.msix k (find s.host.msix k 0 + 1) } }
  else s

/-- SUBMISSION_DOORBELL (R482): the entries that the new tail covers arrive in ring order. -/
def execSubmissionDoorbell (fn q : Nat) (tail : BitVec 16) (s : State) : Out :=
  if !s.host.up || 64 < fn || 16 ≤ q then .next s
  else
    let k := queueKey fn q
    let x := s.queue k
    let n := (tail - x.tail).toNat
    let new := (List.range n).map fun i => ((x.tail.toNat + i) % 2 ^ 16, s.seq + i)
    .next { s.setQueue k { x with tail := tail, arrivals := x.arrivals ++ new } with seq := s.seq + n }

/-- QUEUE_ENABLE (R482): the host writes enable, which clears disconnected. -/
def execQueueEnable (fn q : Nat) (s : State) : Out :=
  if !s.host.up || 64 < fn || 16 ≤ q then .next s
  else
    let k := queueKey fn q
    .next (s.setQueue k { s.queue k with enable := true, disconnected := false })

/-! ### Candidates (R484, R485) -/

/-- The flights that a partition's entry names. -/
def Part.flightList (p : Part) : List Nat := (List.range 256).filter fun f => p.flights.getLsbD f

/-- Whether a partition's launches may be admitted on a die: inside its slice, once its flights serve it; a part that has not been
partitioned belongs to partition 0 (R466, R484, R485). -/
def State.partOn (s : State) (p die : Nat) : Bool :=
  if (s.part p).enable then
    s.inSlice p die && (s.part p).flightList.all fun f => (s.flight f).part == some p && (s.flight f).st == .running
  else p == 0 && !s.parts.any (·.2.used)

/-- A launch that waits for admission: where it comes from, its record, and what the arbiter compares. -/
structure Cand where
  source : Option (Nat × Nat × Nat)
  vector : Option Nat
  bad : Bool
  record : Word
  dom : Dom
  part : Nat
  process : Nat
  qprio : Nat
  parent : Nat
  /-- the depth of a child's launch and the domain of its parent; 0 and the record's own for the host's (R285, R286) -/
  depth : Nat
  parentDom : Dom
  child : Option (Bool × Nat)
  who : Who
  seq : Nat
  deriving DecidableEq, Repr

/-- An address space named by a partition and a domain, as an agent of a die. -/
def State.domWho (s : State) (part : Nat) (d : Dom) (die : Nat) : Who :=
  let (ttb, asid) := s.space part d
  { asid := asid, ttb := ttb, dom := d, s := false, part := part, core := 8192, flight := 64 * die, l1 := none }

/-- The launches that wait in a submission queue (R482): the entries that a doorbell has covered. -/
def State.queueCands (s : State) (die k : Nat) (q : SubQ) : List Cand :=
  let fn := k / 16
  let part := partOfFn fn
  if !q.enable || q.disconnected || k % 16 % 4 != die || !s.partOn part die then []
  else q.arrivals.map fun (i, seq) =>
      let a := q.base.toNat + 16 * (i % 2 ^ q.logn)
      let w1 := s.hostWord (a + 8)
      let dom : Dom := w1.extractLsb' 0 12
      { source := some (fn, k % 16, i),
          vector := if w1.getLsbD 31 then none else some (w1.extractLsb' 16 11).toNat,
          bad := !s.fnHolds fn dom || w1.extractLsb' 12 4 != 0 || w1.extractLsb' 27 4 != 0 || w1.extractLsb' 32 32 != 0,
          record := s.hostWord a, dom := dom, part := part, process := q.process, qprio := q.prio, parent := 0,
          depth := 0, parentDom := dom, child := none, who := s.domWho part dom die, seq := seq }

/-- The launches that wait in a core's launch queue (R285); the priority of each is its record's. -/
def State.childCands (s : State) (die : Nat) (gond : Bool) (core : Nat) (q : List Child) : List Cand :=
  if (if gond then core / 16 else core / 2048) != die then []
  else (q.filter fun c => s.partOn c.part die).map fun c =>
    let part := c.part
    let w := { s.domWho part c.dom die with asid := c.asid, ttb := c.ttb }
    { source := none, vector := none, bad := false, record := c.record, dom := c.dom, part := part,
        process := c.process,
        qprio := ((s.hwLoad w (c.record + 0x18) 8).map fun b => leNat b / 16 % 4).getD 0, parent := c.parent,
        depth := c.depth + 1, parentDom := c.parentDom, child := some (gond, core), who := w, seq := c.seq }

/-- The weight of a process (R486): 0 admits nothing. -/
def State.procWeight (s : State) (part process : Nat) : Nat :=
  if (s.part part).enable then ((s.part part).weights.extractLsb' (8 * process) 8).toNat else 1

/-- The launches that a die's front end may admit next (R428, R484). -/
def State.cands (s : State) (die : Nat) : List Cand :=
  (s.host.queues.flatMap (fun p => s.queueCands die p.1 p.2) ++
    s.cores.flatMap (fun p => if p.2.mode == .serving then s.childCands die false p.1 p.2.launchq else []) ++
    s.gcores.flatMap (fun p => s.childCands die true p.1 p.2.launchq)).filter fun c => s.procWeight c.part c.process != 0

/-- The effective slack of a launch that is not admitted yet (R427). -/
def State.candSlack (s : State) (die : Nat) (c : Cand) : Int :=
  match s.hwLoad c.who c.record 128 with
  | none => 2 ^ 63 - 1
  | some b =>
    let f := field b 0x18 8
    slackOf (f % 4) (field b 0x10 8) (f / 2 ^ 16) (field b 0x38 4) (f / 64 % 4) (s.die die).time 0 none

/-- Whether one candidate goes before another (R484): least admitted estimate for its weight, queue priority, slack,
arrival. Two processes are compared by a / wa and b / wb. -/
def State.candBefore (s : State) (die : Nat) (a b : Cand) : Bool :=
  let use := fun (c : Cand) => find (s.part c.part).admitted c.process 0
  let wa := max 1 (s.procWeight a.part a.process)
  let wb := max 1 (s.procWeight b.part b.process)
  let x := use a * wb
  let y := use b * wa
  if x != y then x < y
  else if a.qprio != b.qprio then b.qprio < a.qprio
  else
    let sa := s.candSlack die a
    let sb := s.candSlack die b
    if sa != sb then sa < sb else a.seq < b.seq

/-- The first of a list by an order. -/
def firstBy {α : Type} (before : α → α → Bool) : List α → Option α
  | [] => none
  | a :: r =>
    match firstBy before r with
    | none => some a
    | some b => if before b a then some b else some a

/-- The launch that a die's front end admits next. -/
def State.nextCand (s : State) (die : Nat) : Option Cand :=
  firstBy (s.candBefore die) (s.cands die)

/-! ### Admission (R265, R285, R286, R503) -/

/-- The entry that arrived as number `seq` is taken from a ring. DESIGN CHOICE (log 67): the head stands at the first entry
that is still waiting, or at the tail. -/
def SubQ.taken (x : SubQ) (seq : Nat) : SubQ :=
  let left := x.arrivals.filter (·.2 != seq)
  let next := (left.head?.map (·.1)).getD x.tail.toNat
  { x with head := (x.head + (next + 2 ^ 16 - x.head % 2 ^ 16) % 2 ^ 16) % 2 ^ 32, arrivals := left }

/-- The entry is taken from its queue. -/
def State.take (s : State) (c : Cand) : State :=
  let s := { s with freeCount := s.freeCount + 1 }
  let left := fun (q : List Child) => q.filter (·.seq != c.seq)
  match c.source, c.child with
  | some (fn, q, _), _ => let k := queueKey fn q; s.setQueue k ((s.queue k).taken c.seq)
  | none, some (true, g) => let x := s.gcore g; s.setGcore g { x with launchq := left x.launchq }
  | none, some (false, n) => s.onCore n fun x => { x with launchq := left x.launchq }
  | none, none => s

/-- What follows the end of a launch: its parent's count, the lost word, the interrupt (R286, R482, R483, R503). -/
def State.afterEnd (s : State) (source : Option (Nat × Nat × Nat)) (vector : Option Nat) (parent : Nat) (told : Bool) : State :=
  let s := s.onLaunch parent fun l => { l with children := l.children - 1 }
  match source with
  | none => s
  | some (fn, q, i) =>
    let k := queueKey fn q
    let s := if told then s else
      s.setQueue k { s.queue k with lost := (s.queue k).lost + 1, lostIdx := BitVec.ofNat 16 (i % 2 ^ (s.queue k).logn) }
    match vector with
    | some v => s.msix fn v
    | none => s

/-- A record that is refused (R265, R273, R503). -/
def State.refuse (s : State) (c : Cand) (die : Nat) : State :=
  let w := s.domWho c.part c.dom die
  let (told, t) :=
    match s.hwLoad c.who c.record 128 with
    | none => (false, s)
    | some b =>
      if field b 0x60 4 % 2 ^ 12 != c.dom.toNat then (false, s)
      else s.announce w (BitVec.ofNat 64 (field b 0x28 8)) 0 .badrec 0
  t.afterEnd c.source c.vector c.parent told

/-- Whether a record lies in pages that a domain owns (R264). -/
def State.ownsRecord (s : State) (w : Who) (a : Word) (d : Dom) : Bool :=
  match s.check w .load a 128 with
  | .error _ => false
  | .ok l => l.all fun p => p.key < 2 ^ 64 && p.owner == d

/-- The checks of admission: the record's bytes and leaves (R264 to R267, R422). -/
def State.admissible (s : State) (c : Cand) (die : Nat) : Option (List Byte × List Level × List Leaf) :=
  match s.hwLoad c.who c.record 128 with
  | none => none
  | some b =>
    let w := s.domWho c.part c.dom die
    let tl := BitVec.ofNat 64 (field b 0x28 8)
    if c.bad || c.record.toNat % 64 != 0 || !recordOk b c.dom || !s.ownsRecord c.who c.record c.dom ||
        (s.check w .store tl 16).toOption.isNone || c.parentDom != c.dom ||
        (field b 0x18 8 % 4 == 1 && !(s.die die).everLocked) then none
    else match levelsOf b (field b 0x3E 2) 0 8 with
      | none => none
      | some lv =>
        if !levelsOk lv || 2 ^ 32 < (lv.map (·.count)).foldl (· * ·) 1 then none
        else match s.tables c.who (c.record + 0x80) lv with
          | none => none
          | some t =>
            match s.leavesOf c.dom c.part t with
            | none => none
            | some leaves => some (b, lv, leaves)

/-- A launch is admitted. DESIGN CHOICE (log 65): a child whose record hardware cannot write is admitted without the write
(R286). -/
def State.acceptLaunch (s : State) (c : Cand) (die : Nat) (b : List Byte) (lv : List Level) (leaves : List Leaf) : State :=
  let f := field b 0x18 8
  let n := s.nextLaunch
  let w := s.domWho c.part c.dom die
  let here := leaves.filter fun x => x.chip == s.chip.toNat
  let l : Launch :=
    { record := c.record, dom := c.dom, entry := BitVec.ofNat 64 (field b 0 8), wrapEntry := BitVec.ofNat 64 (field b 8 8),
      mode := f % 4, deadline := field b 0x10 8, est := f / 2 ^ 16, slackClass := f / 64 % 4,
      prio := BitVec.ofNat 2 (f / 16), timeline := BitVec.ofNat 64 (field b 0x28 8),
      increment := BitVec.ofNat 64 (field b 0x30 8), wrapBudget := field b 0x38 4, depth := c.depth, levels := lv,
      quota := field b 0x64 4, parent := c.parent, process := c.process, result := BitVec.ofNat 64 (field b 0x70 8),
      home := die, part := c.part, admitted := (s.die die).time, pending := here, away := leaves.length - here.length,
      members := leaves.map (fun x => (x.num, memberKey x.chip x.core)), counter := 0, expired := false, diverted := 0,
      discarded := 0, anyDiverted := false, children := 0, ending := none, source := c.source, vector := c.vector,
      asid := w.asid, ttb := w.ttb, slackSeen := 0, cut := none, moved := [], woke := [], seq := c.seq }
  let s := { s with nextLaunch := n + 1 }.setLaunch n l
  let s := s.setPart c.part { s.part c.part with
    admitted := put (s.part c.part).admitted c.process (find (s.part c.part).admitted c.process 0 + l.est) }
  -- hardware writes a child's depth and parent (R286)
  if c.child.isSome then
    match s.hwStore c.who (c.record + 0x3C) (natLe 2 c.depth) with
    | none => s
    | some t => (t.hwStore c.who (c.record + 0x68) (natLe 8 c.parent)).getD t
  else s

/-- The placement tables of a record's levels are read, in order, as far as they can be (R269). -/
def State.tablesRead (s : State) (w : Who) (a : Word) : List Level → State
  | [] => s
  | l :: r =>
    if l.place < 2 then s.tablesRead w a r
    else
      let t := s.hwRead w a (8 * l.count)
      if (s.hwLoad w a (8 * l.count)).isNone then t else t.tablesRead w (a + BitVec.ofNat 64 ((8 * l.count + 63) / 64 * 64)) r

/-- A launch record is read for its admission, with its placement tables (R265, R371, R492). -/
def State.recordRead (s : State) (c : Cand) : State :=
  let t := s.hwRead c.who c.record 128
  match s.hwLoad c.who c.record 128 with
  | none => t
  | some b => match levelsOf b (field b 0x3E 2) 0 8 with
    | none => t
    | some lv => t.tablesRead c.who (c.record + 0x80) lv

/-- LAUNCH_ADMISSION (R265, R484). -/
def execLaunchAdmission (die : Nat) (s : State) : Out :=
  match s.nextCand die with
  | none => .next s
  | some c =>
    let t := ((s.decided.take c).noteTable die 0 c.dom ((s.part c.part).spaceBase + 16 * c.dom.toNat)).recordRead c
    match t.admissible c die with
    | none => .next (t.refuse c die)
    | some (b, lv, leaves) => .next (t.acceptLaunch c die b lv leaves).decided

/-! ### Leaf starts (R51, R270, R274, R276, R424) -/

/-- Whether the user granules of a core serve another domain that still has a leaf there (R51). -/
def State.granulesBusy (s : State) (core : Nat) (d : Dom) : Bool :=
  (List.range (s.core core).userTop).any fun g =>
    let t := s.granule core g
    t.valid && t.dom != d && s.launches.any fun p => p.2.dom == t.dom && p.2.holds s.chip.toNat core

/-- The user granules of a core are tagged with a domain, and so zeroed (R51). -/
def State.tagCore (s : State) (core : Nat) (d : Dom) : State :=
  (List.range (s.core core).userTop).foldl (fun s g => s.retag core g { valid := true, dom := d }) s

/-- The task of an entry starts in a context (R37, R277); a leaf of an expired launch starts diverted (R424). DESIGN CHOICE
(log 65): an entry of no launch, which a FORK or JOIN of a task of no launch has made (R257), is gone without a start. -/
def State.startEntry (s : State) (k : Nat) (e : Entry) (bx : Bool) : State :=
  match s.launch? e.launch with
  | none => s
  | some l =>
    let wu := e.kind == .leaf && l.expired
    let t := s.newTask e.launch e.kind e.leaf e.group e.join
    let t := if wu then { t with divPc := e.entry, wrapLeft := some l.wrapBudget, diverted := true } else t
    let s := if wu then s.setLaunch e.launch { l with anyDiverted := true } else s
    let s := s.beginTask k (if wu then l.wrapEntry else e.entry) e.p0 e.p1 e.p2 e.p3 e.dom l.record t (startPsw wu bx false)
    if wu then
      let c := s.ctx k
      s.setCtx k { c with c := { c.c with xpc := e.entry, xpsw := (startPsw false bx false).setWidth 64 } }
    else s

/-- The entry of a leaf. DESIGN CHOICE (log 65): no core sends it, and its flit names core 0 as the sender (R277). -/
def State.leafEntry (s : State) (n : Nat) (l : Launch) (f : Leaf) : Entry :=
  { entry := l.entry &&& ~~~ 1, p0 := f.p0, p1 := f.p1, p2 := f.p2, p3 := f.p3, senderChip := s.chip,
    targetChip := s.chip, kind := .leaf, sender := 0, target := f.core, group := f.num / l.inner, colour := false,
    dom := l.dom, launch := n, fromCtx := 0, fromSerial := 0, join := none, leaf := f.num, wu := l.expired, box := f.box,
    seq := s.seq }

/-- Whether a leaf can start (R51, R270, R276): one whose core is a member of a box enters the lead's run queue (R406). -/
def State.leafReady (s : State) (l : Launch) (f : Leaf) : Bool :=
  let core := f.core
  let lead := s.leadOf core
  let fl := s.flight (flightOf core)
  l.ending.isNone && fl.st == .running && fl.part.getD 0 == l.part && !s.granulesBusy core l.dom && !s.granulesBusy lead l.dom &&
  (if (s.core core).box.isSome then (s.core lead).mode == .serving && s.runqRoom lead
   else if f.box != 0 then
     (s.core core).mode == .serving && s.hasWs core && !s.boxBusy core f.box none &&
       (boxMembers core f.box).all fun c => (s.core c).box.isNone
   else match f.ctx with
     | some i => (s.core core).mode == .serving && s.hasWs core && !(s.ctx (16 * core + i)).live
     | none => (s.core lead).mode == .serving && s.runqRoom lead)

/-- A leaf starts, or enters its core's run queue. -/
def State.startLeaf (s : State) (n : Nat) (l : Launch) (f : Leaf) : State :=
  let lead := s.leadOf f.core
  let s := s.setLaunch n { l with pending := l.pending.filter (·.num != f.num) }
  let e := s.leafEntry n l f
  let s := (s.tagCore f.core l.dom).tagCore lead l.dom
  if (s.core f.core).box.isSome then s.enqueue f.core e
  else if f.box != 0 then ((s.bindBox f.core f.box).startEntry (16 * f.core) e true).flipAt f.core
  else match f.ctx with
    | some i => (s.startEntry (16 * f.core + i) e false).flipAt f.core
    | none => s.enqueue f.core e

/-- LEAF_START (R270). -/
def execLeafStart (launch leaf : Nat) (s : State) : Out :=
  match s.launch? launch with
  | none => .next s
  | some l =>
    match l.pending.find? (·.num == leaf) with
    | none => .next s
    | some f => if s.leafReady l f then .next (s.decided.startLeaf launch ((s.decided.launch? launch).getD l) f) else .next s

/-! ### Dispatch (R29, R275, R281, R466, R471) -/

/-- Whether an entry waits in a core's queue for the load of the image that holds its launch, while the core serves another's
(R474, R475). -/
def State.heldFor (s : State) (core : Nat) (e : Entry) : Bool :=
  match (s.core core).awaits with
  | none => false
  | some (b, _) => s.liveImages.any fun i => !i.flight && i.addr == b && i.source == core && i.launches.any (· == e.launch)

/-- Whether an entry may be dispatched on a core now: while its flight stops, only messages of the old colour are, and in any
cut none of the new colour is from the core's flip on (R466, R471). A leaf of kind box that waited in this queue for a box to
decompose needs its members (R406, R409). -/
def State.mayDispatch (s : State) (core : Nat) (e : Entry) : Bool :=
  let f := s.flight (flightOf core)
  let old := (s.part (s.corePart core)).colour
  (e.box == 0 || (!(s.ctx (16 * core)).live && !(s.onCore core fun x => { x with runq := [], deque := [] }).boxBusy core e.box none &&
    (boxMembers core e.box).all fun c => (s.core c).box.isNone)) &&
  !(f.cutting && e.kind == .message && e.colour != old && s.hasFlipped core) &&
  (f.st == .running || (f.st == .stopping && !f.cutClosed && e.kind == .message && e.colour == old)) &&
  !s.heldFor core e

/-- Whether one run-queue entry goes before another (R275). -/
def State.entryBefore (s : State) (a b : Entry) : Bool :=
  let pa := s.prio a.launch
  let pb := s.prio b.launch
  if pa != pb then pb < pa
  else
    let sa := s.slack a.launch
    let sb := s.slack b.launch
    if sa != sb then sa < sb else a.seq < b.seq

/-- The flight-local cores that a core tries to steal from, in order (R281). -/
def victims (core : Nat) : List Nat :=
  let base := core / 32 * 32
  let c := core % 32
  (List.range 31).flatMap fun i =>
    let d := i + 1
    [base + (c + d) % 32, base + (c + 32 - d) % 32]

/-- What a FREE context of a core takes, and from which core's run queue (false) or deque (true) (R275, R281). DESIGN CHOICE (log
65): of a victim, the oldest entry that the core may take. -/
def State.pick (s : State) (core : Nat) : Option (Entry × Bool × Nat) :=
  let x := s.core core
  match x.runq with
  | _ :: _ => (firstBy s.entryBefore (x.runq.filter (s.mayDispatch core))).map fun e => (e, false, core)
  | [] =>
    if (s.flight (flightOf core)).st != .running then none
    else match x.deque.getLast? with
      | some e => some (e, true, core)
      | none =>
        (victims core).findSome? fun v =>
          let y := s.core v
          if v == core || y.mode != .serving || (y.box.any fun b => b.1 != v) then none
          else (y.deque.find? fun e => s.leafOn e.launch core).map fun e => (e, true, v)

/-- The lowest-numbered FREE context that dispatch may take (R29, R414, R474). -/
def State.dispatchCtx (s : State) (core : Nat) : Option Nat :=
  if (s.core core).box.isSome || (s.core core).mode != .serving || !s.coreEnabled core || !s.hasWs core then none
  else s.freeCtx core 0

/-- TASK_DISPATCH (R275). -/
def execTaskDispatch (core : Nat) (s : State) : Out :=
  match s.dispatchCtx core, s.pick core with
  | some i, some (e, deq, src) =>
    let t := s.onCore src fun x =>
      if deq then { x with deque := x.deque.filter (· != e) } else { x with runq := x.runq.filter (· != e) }
    let t := t.decided
    .next ((if e.box != 0 then (t.bindBox core e.box).startEntry (16 * core) e true
      else t.startEntry (16 * core + i) e false).flipAt core)
  | _, _ => .next s

/-! ### Messages (R276 to R279, R326, R406, R466, R471, R476) -/

/-- Whether a core is marked done for a barrier of a launch (R258, R279). -/
def State.markedDone (s : State) (launch core : Nat) : Bool :=
  (s.flights.flatMap (fun p => p.2.barriers.map (·.2)) ++ s.savedBarriers).any fun b =>
    b.launch == launch && b.marks.any (· == core)

/-- An entry on its way reaches its target. DESIGN CHOICE (log 65): a barrier's completion to another chip waits in its unit
until a port carries it (R276, R494), and is charged as it leaves (R378). -/
def State.arriveEntry (s : State) (e : Entry) : State :=
  let core := e.target
  let gone := { s with msgs := s.msgs.filter (· != e) }
  match s.launch? e.launch with
  | none => gone.received (s.countAt e) e
  | some l =>
    if e.targetChip != s.chip then
      (if e.kind == .message then gone.received e.sender e
       else match gone.sendFlit e with
         | none => s
         | some t => t.charge e.dom 2 64)
    else if l.ending.isSome then gone.received core e
    else if e.kind == .message && s.markedDone e.launch core then
      (gone.received core e).blame e.fromCtx e.fromSerial e.launch .msgdone 0
    else if l.expired then (gone.received core e).countDiscarded e.launch 1
    else
      let f := s.flight (flightOf core)
      if (f.st == .running || f.st == .stopping) && f.part.getD 0 == l.part then
        if s.runqRoom (s.leadOf core) then (gone.received core e).enqueue core e else s
      else
        let t := if f.part.getD 0 == l.part then gone.received core e else gone.receivedSaved core l.part e
        t.onFlight (flightOf core) fun f => { f with ingress := f.ingress ++ [{ e with target := core }] }

/-- MESSAGE_ARRIVAL (R279): entries from one sender to one core arrive in the order sent (R275). -/
def execMessageArrival (index : Nat) (s : State) : Out :=
  match s.msgs[index]? with
  | none => .next s
  | some e =>
    if (s.msgs.take index).any fun x => x.fromCtx == e.fromCtx && x.target == e.target then .next s
    else .next (s.arriveEntry e)

/-! ### Barriers (R258, R259, R284) -/

/-- The space in which a barrier unit reaches a record. DESIGN CHOICE (log 65): its domain and address space, and the domain
of the completion task, are those in force at the DONE that binds the counter, the callee's inside a gate (R259). -/
def State.barrierWho (s : State) (flight : Nat) (b : Barrier) : Who :=
  { asid := b.asid, ttb := b.ttb, dom := b.dom, s := false, part := s.flightPart flight, core := 8192, flight := flight,
    l1 := none }

/-- The completion message of a phase (R259, R271). DESIGN CHOICE (log 65): no core sends it, and its flit names core 0 of
the unit's flight as the sender (R277). -/
def State.completion (s : State) (b : Barrier) (phase : Word) (flight : Nat) : State :=
  match s.launch? b.launch with
  | none => s
  | some l =>
    let key := find l.members b.target 0
    let e : Entry :=
      { entry := b.handler &&& ~~~ 1, p0 := b.record, p1 := phase, p2 := 0, p3 := 0, senderChip := s.chip,
        targetChip := BitVec.ofNat 18 (key / 2 ^ 13), kind := .completion, sender := 32 * flight, target := key % 2 ^ 13,
        group := b.target / l.inner, colour := false, dom := b.dom, launch := b.launch, fromCtx := 2 ^ 20 + flight,
        fromSerial := 0, join := none, leaf := b.target, wu := false, box := 0, seq := s.seq }
    s.sendEntry e

/-- BARRIER_PHASE_RELEASE (R259): the phase word, the marks and the counter, then the completion message; sleepers of the
flight wake (R149). A phase word that cannot be written ends the launch FAULT (log 24). -/
def execBarrierPhaseRelease (flight ctr : Nat) (s : State) : Out :=
  match find? (s.flight flight).barriers ctr with
  | none => .next s
  | some b =>
    if b.count != 0 then .next s
    else
      let fresh := { b with count := b.arrivals, marks := [] }
      let t := s.onFlight flight fun f => { f with barriers := put f.barriers ctr fresh }
      match t.check (t.barrierWho flight b) .store (b.record + 0x20) 8 with
      | .error (c, x) =>
        match if c.precise then none else t.walkBad (t.barrierWho flight b) x.toNat with
        | some (e, key, o) => .next ((t.hwMac (flight / 64) (32 * flight) false b.dom e key o).endLaunch b.launch .fault e.code)
        | none => .next (t.endLaunch b.launch .fault c.code)
      | .ok l =>
        match t.linesBad l with
        | some (c, key, o) => .next ((t.hwMac (flight / 64) (32 * flight) false b.dom c key o).endLaunch b.launch .fault c.code)
        | none =>
          let phase := leNat (t.peeks l) + 1
          let u := ((t.hwSent b.dom l).pokes l (natLe 8 phase)).chain [] l (some (unitRel (2 ^ 20 + flight) b.scope))
          let u := if b.handler != 0 then u.completion b (BitVec.ofNat 64 phase) flight else u
          .next ((List.range 32).foldl (fun u c => u.wakeCore (32 * flight + c) fun _ _ => true) u)

/-! ### The end of a launch (R24, R273, R483, R503) -/

/-- Whether a saved core or flight still holds a task of a launch, begun or not (R466, R474), or a command of it too. -/
def State.savedTasks (s : State) (n : Nat) : Bool :=
  s.liveImages.any fun i => i.ctxs.any (fun p => p.2.live && p.2.t.launch == n) || i.cores.any fun p => p.2.holdsEntry n
def State.savedWork (s : State) (n : Nat) : Bool :=
  s.savedTasks n || s.liveImages.any fun i => i.cores.any fun p => p.2.eng.queue.any (·.launch == n)

/-- Whether every task of a launch has ended and none is to begin (R426). -/
def State.tasksOver (s : State) (n : Nat) (l : Launch) : Bool :=
  l.pending.isEmpty && l.away == 0 && (s.tasksOf n).isEmpty && !s.busyEntries n && !s.savedTasks n

/-- Whether every task of a launch has ended, and every entry and command of it (R24). -/
def State.launchOver (s : State) (n : Nat) (l : Launch) : Bool := s.tasksOver n l && !s.busyLaunch n && !s.savedWork n

/-- The launch has ended with a status: slots and loft state are freed, the status is released, and the launch is
forgotten. -/
def State.closeLaunch (s : State) (n : Nat) (l : Launch) (e : EndStatus) (code : Nat) : State :=
  let s := s.scrubLaunch n
  let s := s.noteTable l.home 0 l.dom ((s.part l.part).spaceBase + 16 * l.dom.toNat)
  let (told, t) := s.announce (s.launchWho l) l.timeline l.increment e code
  { t with launches := drop t.launches n }.afterEnd l.source l.vector l.parent told

/-- A launch that ends abnormally stops its own work (R273): leaves, entries, tasks, engine and loft commands. -/
def State.stopLaunch (s : State) (n : Nat) : State :=
  let s := (s.onLaunch n fun l => { l with pending := [] }).dropEntries n
  let s := s.stopEngines (·.launch == n)
  let s := s.scrubLoft (·.launch == n) (fun _ => false) (fun _ => false)
  (s.tasksOf n).foldl (fun s k => s.stopTask k) s

/-- LAUNCH_END (R24, R273): a launch whose work is over ends; one that ends abnormally first stops its work, and ends once
no task of it is left. A kill first waits for the cut of its partition (R471; log 37). -/
def execLaunchEnd (launch : Nat) (s : State) : Out :=
  match s.launch? launch with
  | none => .next s
  | some l =>
    match l.ending with
    | none =>
      if s.launchOver launch l then .next (s.closeLaunch launch l (if l.anyDiverted then .wrapped else .complete) 0)
      else .next s
    | some (e, code) =>
      if l.cut.isSome then .next s else
      let t := s.stopLaunch launch
      if (t.tasksOf launch).isEmpty then
        match t.launch? launch with
        | some l => .next (t.closeLaunch launch l e code)
        | none => .next t
      else .next t

end Sys2Proof.Machine
end
end

