-- ==== Sys2Proof/Machine/Saves.lean ====
section
/-!
DEFINITION. Pre-emption (R466 to R471, R485, R486), and the movement of a core's state (R472 to R476).
-/
noncomputable section
namespace Sys2Proof.Machine

/-! ### Suspension (R33, R459, R467) -/

/-- The waits at which a task may be suspended (R467). -/
def Wait.boundary : Wait → Bool
  | .slot | .loft | .engine | .send | .waitm | .pause _ => true
  | w => w.asleep

/-- The core with which the task in a context stops: its own, or the home of one that has migrated (R333; log 29). -/
def State.stopsWith (s : State) (k : Nat) : Nat := homeOf k (s.ctx k)

/-- Whether a core's tasks have been asked to stop: its flight is being pre-empted, which leaves context 10 of a service
core alone, or CTXSAVE is saving the core (R466, R474). -/
def State.stopAsked (s : State) (k : Nat) : Bool :=
  let core := s.stopsWith k
  core < 8192 &&
  (((s.flight (flightOf core)).st == .stopping && !(!isG k && numOf k == 10 && s.isService core)) ||
   (match (s.core core).mode with
    | .saving _ _ _ _ _ => true
    | _ => false))

/-- Whether the task in a context stands at its handler boundary (R467), and may be stopped there (R459). -/
def State.atBoundary (s : State) (k : Nat) : Bool :=
  let c := s.ctx k
  let x := s.core (s.stopsWith k)
  (match c.st with
   | .waiting w => w.boundary
   | _ => false) &&
  c.c.gd == 0 && !c.c.bx && c.c.ie && c.unwind.isEmpty && c.zeroing.isEmpty && c.kill.isNone && c.imp.isNone &&
  !c.t.divPending && !(x.replay.any fun p => p.ctx == k && p.serial == c.c.serial) &&
  !(x.loftq.any fun l => l.ctx == k && l.task == c.c.serial) &&
  !(c.vs.any fun v => v.cmd.isSome || v.later.any fun l => l.ins.major == some 0x63)

/-- The task in a context is suspended (R33, R467). -/
def State.suspend (s : State) (k : Nat) : State :=
  let s := s.saveWords k
  let c := s.ctx k
  s.setCtx k { c with st := .waiting .suspended, t := { c.t with watch := none } }

/-- A suspended task resumes from what its workspace holds (R33). -/
def State.reload (s : State) (k : Nat) : State :=
  let c := s.ctx k
  if c.st != .waiting .suspended then s
  else match wsKey k c with
    | none => s.setCtx k { c with st := .ready, since := s.cycle }
    | some a => s.setCtx k { c.fromArea s.mem a with st := .ready, since := s.cycle }

/-- Whether every task of a core has stopped, those that have migrated from it (log 29) and that of the box it is in (R419) among
them. -/
def State.coreStopped (s : State) (core : Nat) : Bool :=
  (s.core core).box.isNone && s.allCtxs.all fun p =>
    homeOf p.1 p.2 != core || p.2.stopped || (!isG p.1 && numOf p.1 == 10 && s.isService core)

/-- The cores of a flight. -/
def coresOfFlight (f : Nat) : List Nat := (List.range 32).map (32 * f + ·)

/-- A flight that is asked to stop is SAVING once its tasks have stopped and the cut has closed (R466). -/
def State.settleFlight (s : State) (f : Nat) : State :=
  let x := s.flight f
  if x.st == .stopping && x.cutClosed && (coresOfFlight f).all s.coreStopped then s.setFlight f { x with st := .saving }
  else s

/-- TASK_SUSPENSION (R467, R471). -/
def execTaskSuspension (ctx : Nat) (s : State) : Out :=
  if s.stopAsked ctx && s.atBoundary ctx then
    let core := s.stopsWith ctx
    let t := s.suspend ctx
    .next ((if t.coreEmpty core then t.flipAt core else t).settleFlight (flightOf core))
  else .next s

/-! ### The request to stop (R466, R468, R471) -/

/-- Whether the task in a context runs on a core: in a context of it, as one that has migrated from it, or in a box of which
it is a member (R333, R419). -/
def State.runsOn (s : State) (core k : Nat) (c : Ctx) : Bool :=
  homeOf k c == core || (c.c.bx && !isG k && (s.core core).box.any fun b => b.1 == coreOf k)

/-- The watchdog of a core's live tasks is armed (R468); one that counts already goes on. -/
def State.armWatch (s : State) (core limit : Nat) : State :=
  let arm := fun (k : Nat) (c : Ctx) =>
    if c.live && s.runsOn core k c && !(!isG k && numOf k == 10 && s.isService core) && c.st != .waiting .suspended then
      { c with t := { c.t with watch := some (min limit (c.t.watch.getD limit)) } }
    else c
  { s with me := arm s.cur s.me, ctxs := s.ctxs.map fun p => (p.1, arm p.1 p.2) }

/-- The watchdog of a core's tasks is no longer armed, but for those that a stop of their flight has reached. -/
def State.disarm (s : State) (core : Nat) : State :=
  let one := fun (k : Nat) (c : Ctx) =>
    if c.live && s.runsOn core k c && (s.flight (flightOf (homeOf k c))).st != .stopping then { c with t := { c.t with watch := none } } else c
  { s with me := one s.cur s.me, ctxs := s.ctxs.map fun p => (p.1, one p.1 p.2) }

/-- A flight is asked to stop (R466); where a cut is under way another follows it. -/
def State.preempt (s : State) (f : Nat) : State :=
  let x := s.flight f
  if x.st != .running then s
  else
    let limit := (s.part (s.flightPart f)).wdog
    let s := s.setFlight f { x with st := .stopping, cutClosed := false, recut := x.cutting, asked := s.cycle, limit := limit }
    (coresOfFlight f).foldl (fun s c => s.armWatch c limit) s

/-! ### The cut (R471) -/

/-- The flights of a partition on which a cut is under way. -/
def State.cutFlights (s : State) (part : Nat) : List Nat :=
  (s.flights.filter fun p => p.2.cutting && p.2.part.getD 0 == part).map (·.1)

/-- The flights of a partition that take part in a cut that begins. -/
def State.cutSet (s : State) (part : Nat) : List Nat :=
  (List.range 256).filter fun f =>
    let x := s.flight f
    s.flightPart f == part && 0 < s.coresOn f && (x.st == .running || (x.st == .stopping && !x.cutClosed))

/-- A cut of a partition begins: the kills that wait for one have it, and the cores without a live task flip at once. With no
flight to cut there is nothing to wait for. -/
def State.beginCut (s : State) (part : Nat) : State :=
  let fl := s.cutSet part
  let next := if fl.isEmpty then none else some true
  let s : State := fl.foldl (fun (s : State) f => s.onFlight f fun x => { x with cutting := true, recut := false }) s
  let wants := fun (l : Launch) => if l.part == part && l.cut == some false then { l with cut := next } else l
  let s : State := { s with launches := s.launches.map fun p => (p.1, wants p.2) }
  (s.cores.filter fun p => fl.any (· == flightOf p.1) && s.coreEmpty p.1).foldl (fun s p => s.flipAt p.1) s

/-- A partition's flights stop: their cut begins, unless one is under way. -/
def State.stopFlights (s : State) (part : Nat) (l : List Nat) : State :=
  let s := l.foldl State.preempt s
  if l.isEmpty || !(s.cutFlights part).isEmpty then s else s.beginCut part

/-- The cuts for which kills wait begin, where none is under way. -/
def State.killCuts (s : State) : State :=
  (((s.launches.filter fun p => p.2.cut == some false).map (·.2.part)).eraseDups).foldl
    (fun s part => if (s.cutFlights part).isEmpty then s.beginCut part else s) s

/-- The messages of a colour that a core has sent and received. -/
def Core.sentOf (x : Core) (colour : Bool) : Nat := if colour then x.sent1 else x.sent0
def Core.recvOf (x : Core) (colour : Bool) : Nat := if colour then x.recv1 else x.recv0

/-- The cores of a partition's flights, saved ones among them. -/
def State.partCores (s : State) (part : Nat) : List Core :=
  (s.cores.filter fun p => s.corePart p.1 == part).map (·.2) ++
    (s.liveImages.filter fun i => i.flight && i.part == part).flatMap fun i => i.cores.map (·.2)

/-- Whether the cut of a partition may close: every core has flipped, and as many messages of the old colour have been received as
sent, over all its flights. -/
def State.cutReady (s : State) (part : Nat) : Bool :=
  let fl := s.cutFlights part
  let old := (s.part part).colour
  let l := s.partCores part
  !fl.isEmpty &&
    s.allCtxs.all (fun q => isG q.1 || !fl.any (· == ctxFlight q.1) || !s.cutLive q.1 q.2 || (s.core (coreOf q.1)).flipped) &&
    (l.map fun x => x.sentOf old).sum == (l.map fun x => x.recvOf old).sum

/-- A cut closes: the partition's colour is the new one, and a request to stop that it served has its cut; one that came meanwhile
has the next. -/
def State.closeCut (s : State) (part : Nat) : State :=
  let fl := s.cutFlights part
  let again := fl.any fun f => (s.flight f).recut
  let s := s.setPart part { s.part part with colour := !(s.part part).colour }
  let s := { s with
    cores := s.cores.map (fun p => (p.1, { p.2 with flipped := p.2.flipped && !fl.any (· == flightOf p.1) })),
    launches := s.launches.map fun p =>
      (p.1, { p.2 with cut := if p.2.part == part && p.2.cut == some true then none else p.2.cut }) }
  let s := fl.foldl (fun (s : State) f => (s.onFlight f fun x =>
    { x with cutting := false, cutClosed := x.st == .stopping && !x.recut }).settleFlight f) s
  if again then s.beginCut part else s

/-- COLOUR_CUT_CLOSE (R471). -/
def execColourCutClose (part : Nat) (s : State) : Out := if s.cutReady part then .next (s.closeCut part) else .next s

/-! ### Images (R469, R472, R473) -/

/-- The cells of memory in a range of keys. -/
def cellsIn (m : List Host.Cell) (lo n : Nat) : List Host.Cell := m.filter fun p => lo ≤ p.1 && p.1 < lo + n

/-- The releases that acquires of a core's scratchpad read (R306). -/
def State.relsOf (s : State) (core : Nat) : List (Nat × List Rel) := s.rels.filter fun p => isSpad p.1 && spadCore p.1 == core

/-- An image comes to stand in memory, over whatever stood there; its lines are 0x000's. -/
def State.addImage (s : State) (i : Image) : State :=
  let s := i.segs.foldl (fun (s : State) (q : Nat × Nat × Nat) =>
    { s with images := s.images.map (fun (j : Image) => j.erase q.2.1 q.2.2),
             lineKey := s.lineKey.filter (fun p => !(q.2.1 / 64 ≤ p.1 && p.1 < (q.2.1 + q.2.2) / 64)),
             eccLines := s.eccLines.filter (fun l => !(q.2.1 / 64 ≤ l && l < (q.2.1 + q.2.2) / 64)) }.forgetRels q.2.1 q.2.2) s
  { s with images := i :: s.images, freeCount := s.freeCount + 1 }

/-- The pool workspace of a task. -/
def Ctx.wsIndex (c : Ctx) : Option Nat :=
  match windowKey 0 c.c.wp.toNat with
  | none => none
  | some a => if 0x3A000 ≤ spadOff a then some ((spadOff a - 0x3A000) / 1536) else none

/-- Whether pre-emption or CTXSAVE of a core takes a context: one of its own, or a gondola thread whose task came from it (log
29). -/
def State.takes (s : State) (core k : Nat) (c : Ctx) : Bool :=
  if isG k then c.live && homeOf k c == core else coreOf k == core && !(numOf k == 10 && s.isService core)

/-- The contexts that it takes. -/
def State.taken (s : State) (core : Nat) : List (Nat × Ctx) := s.allCtxs.filter fun p => s.takes core p.1 p.2

/-- The workspaces of a core that stay: those of context 10 of a service core. -/
def State.staying (s : State) (core : Nat) : List Nat :=
  if s.isService core then ((s.ctx (16 * core + 10)).wsIndex).toList.filter fun _ => (s.ctx (16 * core + 10)).live else []

/-- A core after its state has been saved: nothing is left but its serial number and what context 10 of a service core uses,
its parked stores among it (R466). The pool's workspaces return zeroed (R35). CTXSAVE (`zero`) zeroes every granule; the
counts of the cut stay with the core it saves, so that their sum over the partition's flights stands (log 30). DESIGN CHOICE
(log 65): the engine context keeps its weight, and counts its serials from 0. A context that stays wakes as a slot of its
domain becomes EMPTY (R149). -/
def State.emptyCore (s : State) (core : Nat) (zero : Bool) : State :=
  let x := s.core core
  let stay := s.staying core
  let keep := fun (o : Nat) => 0x3A000 ≤ o && stay.any (· == (o - 0x3A000) / 1536)
  let gone := fun (o : Nat) => (zero || 0x3A000 ≤ o) && !keep o
  let lost := fun (k : Nat) => isSpad k && spadCore k == core && gone (spadOff k)
  let mem := s.mem.filter fun p => !lost p.1
  let service := if s.isService core then 16 * core + 10 else 2 ^ 18
  let clean := fun (k : Nat) (c : Ctx) =>
    if s.takes core k c then
      { Ctx.idle with r := { Regs.zero with l := c.r.l, o := c.r.o }, c := { Csr.zero with seed := c.c.seed }, last := c.last }
    else c
  let y : Core := { Core.idle with
    tags := if zero then (List.range 64).map (fun g => (g, { valid := true, dom := 0 })) else x.tags,
    pool := x.pool.filter (fun p => stay.any (· == p.1)), used := x.used.filter (fun i => stay.any (· == i)),
    overflow := x.overflow, replay := x.replay.filter (·.ctx == service), eng := { Eng.idle with weight := x.eng.weight },
    tlb := x.tlb, serial := x.serial, turn := x.turn, forward := x.forward, sent0 := if zero then x.sent0 else 0,
    sent1 := if zero then x.sent1 else 0, recv0 := if zero then x.recv0 else 0, recv1 := if zero then x.recv1 else 0 }
  let ctxs := s.ctxs.map fun (p : Nat × Ctx) => (p.1, clean p.1 p.2)
  let t := { s with mem := mem, rels := s.rels.filter (fun p => !lost p.1), me := clean s.cur s.me, ctxs := ctxs }.setCore core y
  t.wakeCore core fun _ c => c.live && x.slots.any fun q => q.2.st != .empty && q.2.dom == c.c.dom

/-! ### The save area of a flight (R466, R469) -/

/-- The key of each active domain, by number (R473). -/
def State.keyNumbers (s : State) : List (Nat × Nat) := s.keys.map fun p => (p.2.dom.toNat, p.2.key)

/-- The save area of a flight as its partition's table names it, where it lies in pages of 0x000 at a 2 MiB boundary. -/
def State.saveArea (s : State) (f : Nat) : Option Nat :=
  let p := s.flightPart f
  let pa := (s.tableWord ((s.part p).saveTable.toNat + 8 * f)).toNat
  if pa != 0 && pa % 2 ^ 21 == 0 && (List.range 24).all fun i => s.ownedBy0 p (pa + i * 2 ^ 19) then some pa else none

/-- FLIGHT_SAVE_COMPLETE (R466, R469): the flight's state is in its save area, and the flight is scrubbed. -/
def execFlightSaveComplete (flight : Nat) (s : State) : Out :=
  let x := s.flight flight
  match if x.st == .saving then s.saveArea flight else none with
  | none => .next s
  | some pa =>
    let base := s.chip.toNat * 2 ^ 46 + pa
    let cores := coresOfFlight flight
    let octets := (List.range 4).map (4 * flight + ·)
    let i : Image :=
      { addr := base, segs := [(0, base, 0xC00000)], nonce := s.freeCount, lost := [], flight := true, source := flight,
        cores := cores.map fun c => (c, s.core c), ctxs := cores.flatMap s.taken,
        lofts := octets.map fun o => (o, s.loft o), barriers := x.barriers,
        spad := cores.flatMap (fun c => cellsIn s.mem (spadKey c 0) (2 ^ 18)), rels := cores.flatMap s.relsOf, bad := [], keys := s.keyNumbers,
        part := s.flightPart flight, spent := false }
    let t := s.addImage i
    -- the header of each core's image: version 1, kind 1 (R472)
    let t := { t with mem := (List.range 32).foldl (fun m c => Memory.setBytes m (base + 0x50000 * c) [1, 1]) t.mem }
    let t := cores.foldl (fun s c => s.emptyCore c false) t
    let t := octets.foldl (fun s o => s.setLoft o .idle) t
    .next (t.setFlight flight { t.flight flight with
      st := .saved, part := none, barriers := [], turn0 := 0, left0 := 0, turn1 := 0, left1 := 0, cutClosed := false })

/-! ### Restoring (R470, R473, R475) -/

/-- Whether a part of an image that holds a domain's state can be restored: its bytes stand as they were written and its
domain is active with the key under which it was enciphered. -/
def State.partOk (s : State) (i : Image) (d : Dom) : Bool :=
  !i.bad.any (· == d) && (keyOf s.keys d).isSome && keyOf s.keys d == find? i.keys d.toNat

/-- Whether a launch goes on, so that its saved state is restored; 0 stands for no launch. -/
def State.goesOn (s : State) (n : Nat) : Bool :=
  n == 0 || match s.launch? n with
    | some l => l.ending.isNone
    | none => false

/-- The domains that have a part in an image (R469, R472). -/
def Image.doms (i : Image) : List Dom :=
  (i.cores.flatMap (fun p => partDoms p.2 (i.ctxsOf p.1)) ++
    i.lofts.flatMap (fun p => ([p.2.bank0, p.2.bank1].filter (·.filled)).map (·.dom)) ++ i.barriers.map (·.2.dom)).eraseDups

/-- The domains of an image whose parts are not restored. -/
def State.badDoms (s : State) (i : Image) : List Dom := i.doms.filter fun d => !s.partOk i d

/-- MIGR_FAIL is raised on the launches of the domains whose parts are lost (R475). -/
def State.failDoms (s : State) (l : List Dom) : State :=
  (s.launches.filter fun p => l.any (· == p.2.dom)).foldl (fun s p => s.endLaunch p.1 .fault Cause.migrFail.code) s

/-- The entries of an image that are restored: those of launches that go on. -/
def State.keepEntries (s : State) (i : Image) (l : List Entry) : List Entry :=
  l.filter fun e => s.goesOn e.launch && s.partOk i e.dom

/-- Whether a saved task is restored. -/
def State.keepTask (s : State) (i : Image) (c : Ctx) : Bool :=
  c.live && s.goesOn c.t.launch && s.partOk i c.c.dom

/-- A saved context as it is restored: its task where that is, without what LSTAT showed where its flight has been scrubbed
(R235), else a FREE context with what it keeps for the next one (R37). -/
def State.awake (s : State) (i : Image) (c : Ctx) : Ctx :=
  if s.keepTask i c then { c with since := s.cycle, t := { c.t with passes := if i.flight then 0 else c.t.passes } }
  else { Ctx.idle with r := { Regs.zero with l := c.r.l, o := c.r.o }, c := { Csr.zero with seed := c.c.seed }, last := c.last }

/-- Whether a scratchpad offset lies in a part that is restored. -/
def State.spadKept (s : State) (i : Image) (x : Core) (used : List Nat) (o : Nat) : Bool :=
  if 0x3A000 ≤ o then used.any (· == (o - 0x3A000) / 1536)
  else s.partOk i (find x.tags (o / 4096) { valid := true, dom := 0 }).dom

/-- Where the contexts of an image that belong to one core go as it is restored on another: to the same number there. A task that
was on a gondola thread returns to it, or where that is taken to the first free one of the die (log 29); none where there are too
few. -/
def State.placesOn (s : State) (dst : Nat) (l : List (Nat × Ctx)) (done : List (Nat × Nat)) : Option (List (Nat × Nat)) :=
  match l with
  | [] => some done
  | (k, _) :: r =>
    if !isG k then s.placesOn dst r ((k, 16 * dst + numOf k) :: done)
    else
      let threads := (List.range 64).map fun t => gkey (16 * (dst / 2048) + t / 4) (t % 4)
      let free := threads.filter fun t => !(s.ctx t).live && !done.any (·.2 == t)
      match if free.any (· == k) then some k else free.head? with
      | none => none
      | some t => s.placesOn dst r ((k, t) :: done)

/-- The place of a context of an image. -/
def placed (l : List (Nat × Nat)) (k : Nat) : Nat := find l k k

/-- The home of a migrated task after its core has moved. -/
def Ctx.rehomed (c : Ctx) (dst : Nat) : Ctx := { c with t := { c.t with home := c.t.home.map fun h => 16 * dst + numOf h } }

/-- The state of one core of an image is restored on a core, its contexts at the places `into`. `mode` is the core's mode
afterwards. The trap records of gondola threads beside a service core's stay as they are (log 18). A command that is not
restored counts as completed (R204). DESIGN CHOICE (log 65): the rest of the engine context is restored whole: its weight,
its serials and its last error. -/
def State.restoreCore (s : State) (i : Image) (src dst : Nat) (mode : CoreMode) (into : List (Nat × Nat)) : State :=
  let x := find i.cores src .idle
  let cur := s.core dst
  let stay := s.staying dst
  let tasks := i.ctxsOf src
  let used := (tasks.filter fun p => s.keepTask i p.2).filterMap (·.2.wsIndex)
  let move := placed into
  let launchOk := fun (n : Nat) (d : Dom) => s.goesOn n && s.partOk i d
  let y : Core := { x with
    tags := x.tags.map (fun p => if s.partOk i p.2.dom then p else (p.1, { valid := true, dom := 0 })),
    pool := cur.pool.filter (fun p => stay.any (· == p.1)) ++ x.pool.filter (fun p => used.any (· == p.1)),
    used := used ++ stay,
    slots := x.slots.filter (fun p => launchOk p.2.launch p.2.dom),
    runq := s.keepEntries i x.runq, deque := s.keepEntries i x.deque,
    launchq := x.launchq.filter (fun c => s.partOk i c.dom),
    eng := (x.eng.without fun c => !launchOk c.launch c.dom).map fun c => { c with ctx := move c.ctx },
    loftq := (x.loftq.filter (fun c => launchOk c.launch c.dom)).map (fun c => { c with ctx := move c.ctx }),
    rows := (x.rows.filter (fun p => launchOk p.2.launch (p.2.tag.getD 0))).map fun p => (p.1, { p.2 with ctx := move p.2.ctx }),
    acc := x.acc.filter (fun p => let r := find x.rows p.1 .zero; launchOk r.launch (r.tag.getD 0)),
    replay := cur.replay, box := none, mode := mode,
    awaits := cur.awaitsLoad.filter (fun q => q.1 != i.addr), tlb := cur.tlb, serial := max x.serial cur.serial,
    forward := cur.forward, flipped := cur.flipped,
    sent0 := if i.flight then x.sent0 else cur.sent0, sent1 := if i.flight then x.sent1 else cur.sent1,
    recv0 := if i.flight then x.recv0 else cur.recv0, recv1 := if i.flight then x.recv1 else cur.recv1 }
  let record := fun (o : Nat) => s.isService dst && 0x38600 ≤ o && o < 0x38700
  let old := fun (k : Nat) => isSpad k && spadCore k == dst && !record (spadOff k) &&
    !(0x3A000 ≤ spadOff k && stay.any (· == (spadOff k - 0x3A000) / 1536))
  let kept := fun (k : Nat) => spadCore k == src && !record (spadOff k) && s.spadKept i x used (spadOff k)
  let mem := (i.spad.filter fun p => kept p.1).foldl (fun m p => Memory.set m (spadKey dst (spadOff p.1)) p.2)
    (s.mem.filter fun p => !old p.1)
  let rels := (i.rels.filter fun p => kept p.1).map (fun p => (spadKey dst (spadOff p.1), p.2)) ++ s.rels.filter fun p => !old p.1
  -- the slots that change state, those that context 10 of a service core had bound meanwhile among them (R149)
  let changed := fun (a b : List (Nat × TileSlot)) (d : Dom) =>
    a.any fun q => q.2.st != .empty && q.2.dom == d && (find b q.1 .empty).st != q.2.st
  let s1 := ({ s with mem := mem, rels := rels }.setCore dst y).wakeCore dst fun _ c =>
    c.live && (changed cur.slots y.slots c.c.dom || changed y.slots cur.slots c.c.dom)
  tasks.foldl (fun (t : State) p => (t.setCtx (move p.1) ((s.awake i p.2).rehomed dst)).reload (move p.1)) s1

/-- Saved barriers and banks are restored where their launches go on, and the active role (R235). -/
def State.restoreFlight (s : State) (i : Image) (f : Nat) : State :=
  let bank := fun (b : Bank) => if b.filled && s.goesOn b.launch && s.partOk i b.dom then b else Bank.empty
  let s1 := i.lofts.foldl (fun (t : State) (p : Nat × Loft) =>
    t.setLoft p.1 { Loft.idle with bank0 := bank p.2.bank0, bank1 := bank p.2.bank1, active := p.2.active }) s
  s1.onFlight f fun x => { x with
    barriers := i.barriers.filter fun b => s.goesOn b.2.launch && s.partOk i b.2.dom }

/-- Entries that a core's queue has been kept from enter it in their order, as far as it has room (R276, R466, R475); those
for which it has none are on their way again, ahead of all others. -/
def State.enterAll (s : State) (l : List Entry) : State :=
  let (t, left) := l.foldl (fun (q : State × List Entry) e =>
    if q.1.runqRoom (q.1.leadOf e.target) then (q.1.enqueue e.target e, q.2)
    else (q.1.onCore e.target (·.unreceives e), q.2 ++ [e])) (s, [])
  { t with msgs := left ++ t.msgs }

/-- An entry held at an ingress as its flight is restored: one of a launch that has ended is gone, a message to a core marked
done is discarded (R279), one of a launch that has expired is discarded and counted (R424); any other is to enter its core's
queue (R466). -/
def State.sift (s : State) : List Entry → State × List Entry
  | [] => (s, [])
  | e :: r =>
    match s.launch? e.launch with
    | none => s.sift r
    | some l =>
      if l.ending.isSome then s.sift r
      else if e.kind == .message && s.markedDone e.launch e.target then
        (s.blame e.fromCtx e.fromSerial e.launch .msgdone 0).sift r
      else if l.expired then (s.countDiscarded e.launch 1).sift r
      else
        let (t, rest) := s.sift r
        (t, e :: rest)

/-- Tasks that an expiry has still to reach are diverted (R424, R470). -/
def State.divertAll (s : State) : List Nat → State
  | [] => s
  | k :: l => (if s.divertDue k && (s.ctx k).st != .held then s.divert k else s).divertAll l

/-- The image of a flight for a partition. -/
def State.flightImage (s : State) (f p : Nat) : Option Image :=
  s.liveImages.find? fun i => i.flight && i.source == f && i.part == p

/-- An image is spent. -/
def State.spend (s : State) (i : Image) : State :=
  { s with images := s.images.map fun j => if j.nonce == i.nonce then { j with spent := true } else j }

/-- Whether context 10 of a flight's service cores uses a workspace that a saved task used: the restore waits for it. -/
def State.wsClash (s : State) (i : Image) : Bool :=
  i.cores.any fun p => (s.staying p.1).any fun w => p.2.used.any (· == w)

/-- What names a moved task by its context follows it (R296, R476), and the invalidations that its core's engine context has
still to acknowledge (R442). DESIGN CHOICE (log 65): a release counts from then on as made in the scope instances of the new
place. -/
def State.follow (s : State) (i : Image) (src dst : Nat) (into : List (Nat × Nat)) : State :=
  if into.all fun p => p.1 == p.2 then s
  else
    let task := fun (k serial : Nat) => (i.ctxsOf src).any fun p => p.1 == k && p.2.live && p.2.c.serial == serial
    let move := fun (k serial : Nat) => if task k serial then placed into k else k
    let entry := fun (e : Entry) => { e with fromCtx := move e.fromCtx e.fromSerial }
    let agent := fun (a : InvAgent) => if a == .engine src then .engine dst else a
    { s with
      msgs := s.msgs.map entry,
      cores := s.cores.map (fun p => (p.1, { p.2 with runq := p.2.runq.map entry, deque := p.2.deque.map entry })),
      flights := s.flights.map (fun p => (p.1, { p.2 with ingress := p.2.ingress.map entry })),
      invals := s.invals.map (fun v => { v with ctx := move v.ctx v.serial, agents := v.agents.map agent }),
      rels := s.rels.map fun p => (p.1, p.2.map fun r => { r with agent := move r.agent r.task }) }

/-- The places of all contexts of a flight's image. -/
def State.flightPlaces (s : State) (i : Image) : Option (List (Nat × Nat)) :=
  i.cores.foldl (fun (l : Option (List (Nat × Nat))) p => l.bind (s.placesOn p.1 (i.ctxsOf p.1))) (some [])

/-- FLIGHT_RESTORE_COMPLETE (R466, R470). -/
def execFlightRestoreComplete (flight : Nat) (s : State) : Out :=
  let x := s.flight flight
  match if x.st == .restoring then s.flightImage flight (x.part.getD 0) else none with
  | none => .next s
  | some i =>
    if s.wsClash i then .next s
    else
      match s.flightPlaces i with
      | none => .next s
      | some into =>
      let s := s.failDoms (s.badDoms i)
      let t := i.cores.foldl (fun (t : State) (p : Nat × Core) => (t.restoreCore i p.1 p.1 p.2.mode into).follow i p.1 p.1 into) s
      let t := (t.restoreFlight i flight).spend i
      let (mine, others) := (t.flight flight).ingress.partition fun e =>
        ((t.launch? e.launch).map (·.part)).getD (x.part.getD 0) == x.part.getD 0
      let t := t.onFlight flight fun y => { y with st := .running, ingress := others, cutClosed := false }
      let (t, held) := t.sift mine
      .next ((t.enterAll held).divertAll (((i.ctxs.filter fun p => s.keepTask i p.2).map fun p => placed into p.1)))

/-! ### Slices (R485) -/

/-- Whether a partition is inside its slice on a flight. -/
def State.sliceAt (s : State) (p f : Nat) : Bool := (s.part p).enable && s.inSlice p (f / 64)

/-- Whether a partition is inside its slice on every flight of its set. -/
def State.sliceOn (s : State) (p : Nat) : Bool := (s.part p).flightList.all (s.sliceAt p) && (s.part p).enable

/-- Whether a flight can be given to a partition: it serves none, and no task of a launch of another one. -/
def State.flightFree (s : State) (p f : Nat) : Bool :=
  let x := s.flight f
  x.part.isNone && (x.st == .saved || x.st == .running) &&
    s.allCtxs.all fun q => !(q.2.live && !isG q.1 && ctxFlight q.1 == f && q.2.t.launch != 0 &&
      (s.launch? q.2.t.launch).any fun l => l.part != p)

/-- The flights that a partition takes up as its slice begins. -/
def State.toTake (s : State) (p : Nat) : List Nat :=
  if s.sliceOn p then (s.part p).flightList.filter (s.flightFree p) else []

/-- A flight is given to a partition: restored where a save stands, else started empty (R466). -/
def State.giveFlight (s : State) (p f : Nat) : State :=
  let x := s.flight f
  s.setFlight f { x with part := some p, st := if (s.flightImage f p).isSome then .restoring else .running }

/-- TIME_SLICE_START (R485). -/
def execTimeSliceStart (part : Nat) (s : State) : Out :=
  let x := s.part part
  if x.enable && (!(s.toTake part).isEmpty || (s.sliceOn part && !x.running)) then
    let t := (s.toTake part).foldl (fun s f => s.giveFlight part f) s
    .next (t.setPart part { t.part part with running := s.sliceOn part })
  else .next s

/-- The flights on which a partition has to stop: all that it occupies, at once (R466). -/
def State.toStop (s : State) (p : Nat) : List Nat :=
  if s.sliceOn p then [] else (s.flights.filter fun q => q.2.st == .running && q.2.part == some p).map (·.1)

/-- TIME_SLICE_END (R485). -/
def execTimeSliceEnd (part : Nat) (s : State) : Out :=
  let x := s.part part
  if !(s.toStop part).isEmpty || (x.running && !s.sliceOn part) then
    let t := s.setPart part { x with running := s.sliceOn part }
    .next (t.stopFlights part (s.toStop part))
  else .next s

/-! ### The partition table (R485, R486) -/

/-- Whether the slices of two entries meet within their common period. -/
def slicesMeet (a b : Part) : Bool :=
  let g := Nat.gcd a.period b.period
  let d := (b.offset + g - a.offset % g) % g
  d < a.slice || g - d < b.slice

/-- A table of an entry: 4 KiB aligned, in a page that 0x000 of the partition owns. -/
def State.tableOk (s : State) (p : Nat) (a : Word) : Bool :=
  a.toNat % 4096 == 0 && a.toNat < 2 ^ 46 && s.ownedBy0 p a.toNat

/-- The domain set that an entry names. -/
def State.readDoms (s : State) (a : Word) : BitVec 4096 :=
  BitVec.ofNat 4096 (leNat (Memory.bytes s.mem (s.chip.toNat * 2 ^ 46 + a.toNat) 512)) &&& ~~~ (BitVec.twoPow 4096 0) &&&
    ~~~ (BitVec.twoPow 4096 4095)

/-- Whether the front end accepts an entry (R486). -/
def State.entryOk (s : State) (p : Nat) (x : Part) : Bool :=
  let others := s.parts.filter fun q => q.1 != p && q.2.enable
  x.reserved.isEmpty && 1 ≤ x.period && 1 ≤ x.slice && x.slice ≤ x.period && x.offset + x.slice ≤ x.period &&
  s.tableOk p x.saveTable && s.tableOk p x.domWeights && s.tableOk p x.domSet &&
  x.flightList.all (fun f => f % 64 < s.flightsOn (f / 64)) &&
  others.all fun q =>
    (q.2.flights &&& x.flights == 0 || !slicesMeet x q.2) && q.2.doms &&& s.readDoms x.domSet == 0

/-- PARTITION_ENABLE (R486): the host sets enable, and the front end checks the entry. DESIGN CHOICE (log 58): the PASIDs of its
domains (R479) come with it. -/
def execPartitionEnable (part : Nat) (s : State) : Out :=
  let x := s.part part
  if !s.host.up || 64 ≤ part || x.enable then .next s
  else if s.entryOk part x then
    .next { s.setPart part { x with enable := true, refused := false, used := true, doms := s.readDoms x.domSet, pasids := s.freeCount }
      with freeCount := s.freeCount + 1 }
  else .next (s.setPart part { x with refused := true })

/-- PARTITION_DISABLE (R486): the host clears enable, which pre-empts the partition on all its flights. -/
def execPartitionDisable (part : Nat) (s : State) : Out :=
  let x := s.part part
  if !s.host.up || 64 ≤ part then .next s
  else if !x.enable then .next (s.setPart part { x with refused := false })
  else
    let t := s.setPart part { x with enable := false, running := false, refused := false }
    .next (t.stopFlights part (t.toStop part))

/-! ### CTXSAVE and CTXLOAD (R472 to R476) -/

/-- The keys of an image of 320 KiB at a virtual address of the issuer, as pieces within one page each, if it lies in
pages that 0x000 owns and the issuer may access (log 30). -/
def State.imageKeys (s : State) (a : Word) (kind : Kind) : Option (List (Nat × Nat × Nat)) :=
  if a.toNat % 2 ^ 16 != 0 then none
  else
    let n := 0x50000
    let first := min n (2 ^ 19 - a.toNat % 2 ^ 19)
    let pieces := if first == n then [(0, n)] else [(0, first), (first, n - first)]
    pieces.mapM fun (o, len) =>
      let va := a.toNat + o
      match s.checkByte s.who kind va with
      | .error _ => none
      | .ok w => if w.key < 2 ^ 64 && w.owner == 0 then some (o, w.key, len) else none

/-- Whether a core is one that CTXSAVE and CTXLOAD refuse (R474). -/
def State.badCore (s : State) (a : Word) : Bool :=
  let c := a.toNat
  8192 ≤ c || !s.coreEnabled c || s.isService c || s.flightPart (flightOf c) != s.myPart

/-- The status of a CTXSAVE that begins (R474). -/
def State.saveStatus (s : State) (a b : Word) : Nat :=
  if s.badCore a then 1
  else if (s.core a.toNat).mode != .serving || (s.core a.toNat).awaits.isSome || (s.flight (flightOf a.toNat)).st != .running then 2
  else if (s.imageKeys b .store).isNone then 3
  else 0

/-- A core that CTXSAVE does not save after all serves again, and its suspended tasks go on. -/
def State.unsave (s : State) (core : Nat) : State :=
  let s := (s.disarm core).onCore core fun x => { x with mode := .serving }
  if (s.flight (flightOf core)).st != .running then s
  else (s.taken core).foldl (fun (t : State) p => t.reload p.1) s

/-- A core's state is written to an image, and its granules are retagged and zeroed (R474). -/
def State.saveCore (s : State) (core : Nat) (segs : List (Nat × Nat × Nat)) : State :=
    let base := (segs.map (·.2.1)).headD 0
    let i : Image :=
      { addr := base, segs := segs, nonce := s.freeCount, lost := [], flight := false, source := core,
        cores := [(core, s.core core)], ctxs := s.taken core, lofts := [], barriers := [],
        spad := cellsIn s.mem (spadKey core 0) (2 ^ 18), rels := s.relsOf core, bad := [], keys := s.keyNumbers, part := s.myPart, spent := false }
    let t := (s.addImage i).emptyCore core true
    let t := { t with mem := Memory.setBytes t.mem base [1, 0] }
    t.onCore core fun x => { x with mode := .awaiting base s.cycle }

/-- Whether the issuing task is saving a core to an image. -/
def State.savingMine (s : State) (core image : Nat) : Bool :=
  match (s.core core).mode with
  | .saving i k n _ _ => i == image && k == s.cur && n == s.me.c.serial
  | _ => false

/-- CTXSAVE (R474): it waits, spinning, until the core's tasks are suspended. An image whose pages are then no longer writable is
BADIMAGE, and the core goes on. -/
def execCtxsave (d a b : Opnd) (s : State) : Out :=
  issue (.ctxsave d a b) s fun s =>
    match s.me.r.val2 a b with
    | none => .wait .queue s
    | some (x, y) =>
      let core := x.toNat
      let fin := fun (s : State) =>
        if !s.coreStopped core then Res.wait .migrate s
        else match s.imageKeys y .store with
          | none => .done (((s.pop2 a b).unsave core).result d 3)
          | some segs => .done (((s.pop2 a b).saveCore core segs).result d 0)
      if !s.me.room d then .wait .queue s
      else if s.hasParked then .wait .replay s
      else if !s.badCore x && s.savingMine core y.toNat then fin s
      else
        let n := s.saveStatus x y
        if n != 0 then .done ((s.pop2 a b).result d (BitVec.ofNat 64 n))
        else
          let limit := (s.part s.myPart).wdog
          fin ((s.onCore core fun z => { z with mode := .saving y.toNat s.cur s.me.c.serial s.cycle limit }).armWatch core limit)

/-- A CTXSAVE whose task has gone is over. -/
def State.abandonSave (s : State) (core : Nat) : State :=
  match (s.core core).mode with
  | .saving _ by_ serial _ _ =>
    if (s.ctx by_).live && (s.ctx by_).c.serial == serial then s else s.unsave core
  | _ => s

/-- Whether a core holds anything that CTXLOAD may not overwrite (R475). A box's tasks stand on its lead in the model, and
keep its members busy. -/
def State.coreInUse (s : State) (core : Nat) : Bool :=
  let x := s.core core
  x.box.isSome || !(s.liveCtxs fun k c => homeOf k c == core).isEmpty || !x.runq.isEmpty || !x.deque.isEmpty ||
    !x.launchq.isEmpty || !x.eng.queue.isEmpty || !x.loftq.isEmpty || x.slots.any (fun p => p.2.st != .empty) || x.rows.any fun p => p.2.tag.isSome

/-- The image that CTXLOAD finds at an address, with the version and kind that CTXSAVE wrote and its core awaiting load (R475). -/
def State.loadImage (s : State) (a : Word) : Option Image :=
  match s.imageKeys a .load with
  | none => none
  | some segs =>
    let base := (segs.map (·.2.1)).headD 0
    if Memory.bytes s.mem base 1 != [1] || (Memory.get s.mem (base + 1)).toNat % 4 != 0 then none
    else s.liveImages.find? fun i =>
      !i.flight && i.addr == base && i.segs == segs &&
        (s.core i.source).awaitsLoad.any fun q => q.1 == base

/-- The member table of a launch after a move (R476), with the done marks of its barriers and the entries on their way. -/
def State.remap (s : State) (src dst : Nat) (n : Nat) : State :=
  let a := memberKey s.chip.toNat src
  let b := memberKey s.chip.toNat dst
  let s := s.onLaunch n fun l => { l with
    members := l.members.map (fun p => if p.2 == a then (p.1, b) else p),
    moved := (src, dst) :: (l.moved.map fun p => if p.2 == src then (p.1, dst) else p).filter fun p => p.1 != src && p.1 != dst,
    pending := l.pending.map fun f => if f.core == src then { f with core := dst } else f }
  let redirect := fun (e : Entry) =>
    if e.launch == n && e.targetChip == s.chip && e.target == src then { e with target := dst } else e
  { s with
    msgs := s.msgs.map redirect,
    flights := s.flights.map fun p => (p.1, { p.2 with ingress := p.2.ingress.map redirect, barriers := p.2.barriers.map fun q =>
      if q.2.launch == n then (q.1, { q.2 with marks := q.2.marks.map fun m => if m == src then dst else m }) else q }) }

/-- The entries held in a core's queue for an image of it, and the others: while the core itself awaits load all are held,
and while it serves another image those of the launches with state in its own (R474). -/
def State.heldEntries (s : State) (core : Nat) (i : Image) : List Entry × List Entry :=
  let x := s.core core
  if x.awaits.isSome then x.runq.partition fun e => i.launches.any (· == e.launch) else (x.runq, [])

/-- CTXLOAD restores an image on a core (R475, R476); a core that itself awaits the load of its own image goes on to await it. -/
def State.loadCore (s : State) (i : Image) (dst : Nat) (into : List (Nat × Nat)) : State :=
  let src := i.source
  let s := s.failDoms (s.badDoms i)
  let (held, others) := s.heldEntries src i
  let s := s.restoreCore i src dst .serving into
  let s := (s.follow i src dst into).spend i
  let s := i.launches.foldl (fun s n => s.remap src dst n) s
  let s := if src == dst then s
    else s.onCore src fun x => { x with runq := others, mode := .serving, awaits := none, forward := some (dst, s.cycle + 2 ^ 20) }
  let s := s.enterAll ((s.keepEntries i held).map fun e => { e with target := dst })
  s.divertAll (i.ctxs.map fun p => placed into p.1)

/-- CTXLOAD (R475). -/
def execCtxload (d a b : Opnd) (s : State) : Out :=
  issue (.ctxload d a b) s fun s =>
    match s.me.r.val2 a b with
    | none => .wait .queue s
    | some (x, y) =>
      if !s.me.room d then .wait .queue s
      else if s.hasParked then .wait .replay s
      else
        let t := s.pop2 a b
        if s.badCore y then .done (t.result d 1)
        else if s.coreInUse y.toNat then .done (t.result d 2)
        else match s.loadImage x with
          | none => .done (t.result d 3)
          | some i => match t.placesOn y.toNat (i.ctxsOf i.source) [] with
            | none => .wait .migrate s
            | some into => .done ((t.loadCore i y.toNat into).result d 0)

/-- AWAIT_LOAD_TIMEOUT (R474): every launch with state in the image takes MIGR_FAIL, the held entries are discarded, and the
core returns to service. -/
def execAwaitLoadTimeout (core : Nat) (s : State) : Out :=
  match (s.core core).awaitsLoad with
  | some (b, since) =>
    if s.cycle < since + 2 ^ 26 then .next s
    else
      match s.liveImages.find? fun i => !i.flight && i.addr == b && i.source == core with
      | none => .next (s.onCore core fun x => { x with runq := [], mode := .serving, awaits := none })
      | some i =>
        let t := s.onCore core fun x => { x with runq := (s.heldEntries core i).2, mode := .serving, awaits := none }
        .next (i.launches.foldl (fun s n => s.endLaunch n .fault Cause.migrFail.code) (t.spend i))
  | none => .next s

/-- SEND_FORWARDING_EXPIRY (R476). -/
def execSendForwardingExpiry (core : Nat) (s : State) : Out :=
  match (s.core core).forward with
  | some (_, til) => if til ≤ s.cycle then .next (s.onCore core fun x => { x with forward := none }) else .next s
  | none => .next s

/-- WATCHDOG_EXPIRY (R468): a task that has not stopped in time takes WDOG. -/
def execWatchdogExpiry (ctx : Nat) (s : State) : Out :=
  let c := s.ctx ctx
  if c.live && c.t.watch == some 0 && c.st != .waiting .suspended then
    let s := s.setCtx ctx { c with t := { c.t with watch := none } }
    .next ((s.leaveTrap ctx).imprecise ctx .wdog 0)
  else .next s

end Sys2Proof.Machine
end
end

