-- ==== Sys2Proof/Machine/Deadlines.lean ====
section
/-!
DEFINITION. Expiries (R149, R323, R361, R364, R402 to R404, R422 to R426), the all-asleep trap (R292, R477, R478) and the
stop of an imprecise fault (R457).
-/
noncomputable section
namespace Sys2Proof.Machine

/-! ### Deadline expiry (R404, R422 to R426) -/

/-- Whether a launch's deadline has come (R402, R422). -/
def State.deadlineCome (s : State) (l : Launch) : Bool :=
  match l.mode with
  | 1 => l.deadline ≤ (s.die l.home).time
  | 2 => l.deadline ≤ l.counter
  | _ => false

/-- Whether a launch's expiry is to be applied: it has exactly one, none once every task has ended, though commands of the
launch may still run, or the launch ends abnormally (R422, R426), and none while its tasks are all saved (R470). -/
def State.expiryDue (s : State) (n : Nat) (l : Launch) : Bool :=
  !l.expired && l.ending.isNone && s.deadlineCome l && !s.tasksOver n l && !(s.savedTasks n && (s.tasksOf n).isEmpty)

/-- The entries of a queue that an expiry of a launch discards: all but leaves not yet started (R424). -/
def expired (n : Nat) (e : Entry) : Bool := e.launch == n && e.kind != .leaf

/-- A core without the entries that an expiry discards. -/
def Core.cutExpired (x : Core) (n : Nat) : Core :=
  { x with runq := x.runq.filter (fun e => !expired n e), deque := x.deque.filter (fun e => !expired n e) }

/-- How many entries of a core an expiry discards, and how many leaves wait in it. -/
def Core.expiredCount (x : Core) (n : Nat) : Nat := ((x.runq ++ x.deque).filter (expired n)).length
def Core.leafCount (x : Core) (n : Nat) : Nat := (x.runq.filter fun e => e.launch == n && e.kind == .leaf).length

/-- Whether a task is diverted, and counted, at its launch's expiry: one that is HELD is not yet (R404), and one that a fault has
stopped or its handler has ended is not at all (R404, R426). -/
def Ctx.divertsNow (c : Ctx) (n : Nat) : Bool :=
  c.live && c.t.launch == n && !c.t.diverted && c.st != .held && !c.struck && !c.unwind.any (·.why == .ends)

/-- The contexts that an expiry diverts. -/
def State.toDivert (s : State) (n : Nat) : List Nat := (s.allCtxs.filter fun p => p.2.divertsNow n).map (·.1)

/-- The cores of saved images. -/
def State.savedCores (s : State) : List Core := s.liveImages.flatMap fun i => i.cores.map (·.2)

/-- How many entries an expiry discards, and how many tasks it diverts, saved ones and leaves among them (R404, R424). -/
def State.discardCount (s : State) (n : Nat) : Nat :=
  ((s.cores.map (·.2) ++ s.savedCores).map (·.expiredCount n)).sum

def State.divertCount (s : State) (n : Nat) (l : Launch) : Nat :=
  (s.toDivert n).length + l.pending.length + ((s.cores.map (·.2) ++ s.savedCores).map (·.leafCount n)).sum +
    (s.liveImages.map fun i => (i.ctxs.filter fun p => p.2.divertsNow n).length).sum

/-- A launch's deadline expires (R424): work that has not begun is discarded, the words of the result record are released,
and the tasks are diverted. -/
def State.expire (s : State) (n : Nat) (l : Launch) : State :=
  let k := s.discardCount n
  let d := s.divertCount n l
  let when_ := if l.mode == 1 then (s.die l.home).time else l.counter
  let keys := s.toDivert n
  let cut := fun (l : List (Nat × Core)) => l.map fun p => (p.1, p.2.cutExpired n)
  let image := fun (i : Image) => if i.spent then i else { i with cores := cut i.cores }
  let s := { s with cores := cut s.cores, images := s.images.map image }
  let l := { l with expired := true, diverted := d, discarded := l.discarded + k }
  let s := s.setLaunch n l
  let s := if l.result == 0 then s else
    (s.hwStore (s.launchWho l) (l.result + 8) (natLe 8 (k % 2 ^ 32 * 2 ^ 32 + d % 2 ^ 32) ++ natLe 8 when_)).getD
      (s.hwBad (s.launchWho l) .store (l.result + 8) 16)
  keys.foldl State.divert s

/-- DEADLINE_EXPIRY (R422). -/
def execDeadlineExpiry (launch : Nat) (s : State) : Out :=
  match s.launch? launch with
  | none => .next s
  | some l => if s.expiryDue launch l then .next (s.expire launch l) else .next s

/-! ### Budgets (R343, R361, R364, R403, R425) -/

/-- Whether a task has used up its wrap-up budget. -/
def Ctx.wrapOver (c : Ctx) : Bool := c.live && c.t.wrapLeft == some 0 && !c.struck

/-- WRAP_UP_BUDGET_OVERRUN (R425): DEADLINE_HARD. -/
def execWrapUpBudgetOverrun (ctx : Nat) (s : State) : Out :=
  let c := s.ctx ctx
  if c.wrapOver then
    let s := s.setCtx ctx { c with t := { c.t with wrapLeft := none } }
    .next ((s.leaveTrap ctx).imprecise ctx .deadlineHard 0)
  else .next s

/-- Frame `depth` of a context, 1 the outermost. -/
def Ctx.frameAt (c : Ctx) (depth : Nat) : Option Frame := if depth == 0 then none else c.frames.reverse[depth - 1]?

/-- Whether frame `depth` has used up its per-call budget (R361) outside its own cleanup and wrap-up, and no unwind that
takes it out is under way. -/
def Ctx.budgetOver (c : Ctx) (depth : Nat) : Bool :=
  c.live && !c.struck &&
  (match c.frameAt depth with
   | some f => f.budget == 0 && !f.cleanup && !f.wrapup && !f.discard
   | none => false) && !c.covered .budget depth

/-- GATE_BUDGET_OVERRUN (R361). -/
def execGateBudgetOverrun (ctx depth : Nat) (s : State) : Out :=
  if (s.ctx ctx).budgetOver depth then .next ((s.leftWait ctx).budgetIn ctx depth) else .next s

/-- A frame of a stack whose cleanup, or whose wrap-up, has used up its budget: the innermost one is marked. -/
def markOver (p : Frame → Bool) : List Frame → List Frame
  | [] => []
  | f :: r => if p f then { f with discard := true } :: r else f :: markOver p r

/-- Whether a frame's cleanup has overrun (R343). -/
def Frame.cleanupOver (f : Frame) : Bool := f.cleanup && f.endLeft == 0 && !f.discard

/-- Whether a frame's wrap-up has overrun (R364). -/
def Frame.wrapupOver (f : Frame) : Bool := f.wrapup && !f.cleanup && f.endLeft == 0 && !f.discard

/-- An overrun discards the frame, and the unwind goes on. -/
def State.endOverrun (s : State) (k : Nat) (p : Frame → Bool) : State :=
  let c := s.ctx k
  if c.live && !c.struck && c.frames.any p then
    ((s.leftWait k).setCtx k { (s.leftWait k).ctx k with frames := markOver p c.frames }).unwound k
  else s

/-- CLEANUP_BUDGET_OVERRUN (R343). -/
def execCleanupBudgetOverrun (ctx : Nat) (s : State) : Out := .next (s.endOverrun ctx Frame.cleanupOver)

/-- GATE_WRAP_UP_OVERRUN (R364). -/
def execGateWrapUpOverrun (ctx : Nat) (s : State) : Out := .next (s.endOverrun ctx Frame.wrapupOver)

/-! ### Waits that end by time (R149, R323) -/

/-- SLEEP_TIME_LIMIT (R149): the SLEEP returns 0 at its context's next turn. -/
def execSleepTimeLimit (ctx : Nat) (s : State) : Out :=
  let c := s.ctx ctx
  match c.st with
  | .waiting (.sleep (some l)) => if l ≤ s.cycle then .next (s.setCtx ctx { c with wokeBy := some (0, 0) }) else .next s
  | _ => .next s

/-- PAUSE_EXPIRY (R323). -/
def execPauseExpiry (ctx : Nat) (s : State) : Out :=
  let c := s.ctx ctx
  match c.st with
  | .waiting (.pause (some til)) => if til ≤ s.cycle then .next (s.setCtx ctx { c with st := .ready }) else .next s
  | _ => .next s

/-! ### All asleep (R292, R477, R478) -/

/-- Whether a context sleeps with nothing that has woken it. -/
def Ctx.sleeps (c : Ctx) : Bool :=
  c.wasAsleep && c.wokeBy.isNone && (c.vs.head?.map Behind.on).all (· == .queue) &&
  match c.st with
  | .waiting (.sleep _) => !c.wake
  | _ => true

/-- Whether what a launch has sent over the link, or a wake for it there, is a packet in flight (R478). Whether a wake is
under way from another chip is free (log 31). -/
def State.onLink (s : State) (n : Nat) : Bool :=
  s.ports.any (fun p => p.2.unacked.any (·.launch == n)) ||
  (s.tasksOf n).any fun k => (s.ctx k).st == .waiting .tlwaitRemote && Config.wakeUnderWay n s.cycle

/-- Whether a sweep finds a launch all asleep with no packet in flight. A message is a packet until its task starts (log 31).
-/
def State.allAsleep (s : State) (n : Nat) (l : Launch) : Bool :=
  l.ending.isNone && l.woke.isEmpty && l.pending.isEmpty && l.away == 0 && l.children == 0 && !(s.tasksOf n).isEmpty &&
    (s.tasksOf n).all (fun k => (s.ctx k).sleeps) && !s.busyLaunch n && !s.savedWork n && !s.onLink n

/-- ALLASLEEP_TRAP (R477). -/
def execAllasleepTrap (launch : Nat) (s : State) : Out :=
  match s.launch? launch with
  | none => .next s
  | some l =>
    if s.allAsleep launch l then
      .next (((s.tasksOf launch).foldl (fun s k => s.imprecise k .allasleep 0) s).endLaunch launch .fault
        Cause.allasleep.code)
    else .next s

/-! ### The stop of an imprecise fault (R457) -/

/-- IMPRECISE_FAULT_STOP (R457): the launch ends FAULT with the cause; a task of no launch ends, a supervisor's once
the log has room (R382, R458). -/
def execImpreciseFaultStop (ctx : Nat) (s : State) : Out :=
  let c := s.ctx ctx
  match c.st, c.imp with
  | .waiting .fatal, some e =>
    if c.c.s then .next (if s.logFull (ctxDie ctx) then s else s.supervisorFault ctx)
    else
    let s := s.setCtx ctx { c with imp := none }
    if (s.launch? c.t.launch).isSome then .next (s.endLaunch c.t.launch .fault e.code) else .next (s.endTask ctx)
  | _, _ => .next s

end Sys2Proof.Machine
end
end

