-- ==== Sys2Proof/Machine/Service.lean ====
section
/-!
DEFINITION. What the service cores and the units do of themselves: handlers (R437, R453 to R455, R487), acknowledgements
(R442, R450), the links' accesses (R289, R495), the egress buckets (R379), the log (R384, R385) and attestation (R377).
-/
noncomputable section
namespace Sys2Proof.Machine

/-! ### Handlers (R437, R453 to R455, R487) -/

/-- The four words of entry i of a partition's handler table (R453). -/
def State.handlerWord (s : State) (part i j : Nat) : Word := s.tableWord ((s.part part).handlerBase + 32 * i + 8 * j)

/-- Whether entry i of a handler table matches a request (R453). -/
def State.handlerHit (s : State) (part i : Nat) (r : Request) : Bool :=
  let e := s.handlerWord part i 0
  let w := s.handlerWord part i 1
  let x := s.handlerWord part i 2
  e != 0 && !e.getLsbD 0 && w.extractLsb' 30 34 == 0 && x.extractLsb' 28 36 == 0 && x.extractLsb' 12 4 == 0 &&
    s.handlerWord part i 3 == 0 &&
    (w.extractLsb' 0 8).toNat == r.cause.code && (w.getLsbD 20 || w.extractLsb' 8 12 == r.dom) &&
    (w.getLsbD 21 || (w.extractLsb' 22 8).toNat == r.flight) &&
    (!(r.cause == .trap || r.cause == .brk) ||
      ((x.extractLsb' 0 12).toNat ≤ r.code.toNat && r.code.toNat ≤ (x.extractLsb' 16 12).toNat))

/-- The handler of a request: the lowest-numbered entry that matches (R453). -/
def State.handlerAt (s : State) (part : Nat) (r : Request) : Option Nat := (List.range 256).find? fun i => s.handlerHit part i r
def State.handlerOf (s : State) (part : Nat) (r : Request) : Option Word := (s.handlerAt part r).map fun i => s.handlerWord part i 0

/-- The bad lines among the entries that the search for a handler reads are logged (R371). -/
def State.handlersRead (s : State) (flight : Nat) (r : Request) : State :=
  let part := s.flightPart flight
  let n := ((s.handlerAt part r).map (· + 1)).getD 256
  let lines := ((List.range n).map fun i => ((s.part part).handlerBase + 32 * i) / 64 * 64).eraseDups
  lines.foldl (fun s pa => s.noteTable (flight / 64) (s.serviceCore flight) 0 pa) s

/-- The request that a supervisor queue serves next: the least finish time, ties in order of arrival. -/
def nextRequest (f : Flight) : Option Request :=
  firstBy (fun a b => if a.fin != b.fin then a.fin < b.fin else a.seq < b.seq) f.supq

/-- Requests that wait at their source enter the queue as far as it has room for their domains (R454, R487). -/
def State.refill (s : State) (flight : Nat) : List Request → State
  | [] => s
  | r :: l =>
    let f := s.flight flight
    let s := if s.supRoom f r.dom then
        s.setFlight flight (s.enterSup { f with supWait := f.supWait.filter (· != r) } r)
      else s
    s.refill flight l

/-- Whether the trap of a request is still undisposed. -/
def State.trapOpen (s : State) (t : TrapRef) : Bool :=
  match t with
  | .ctx k serial no => let c := s.ctx k; c.live && c.c.serial == serial && c.st == .held && c.trapNo == no
  | .replay core e no => (s.core core).replay.any fun p => p.id == e && p.no == no

/-- The context of the task that a request is about. -/
def State.trapCtx (s : State) (t : TrapRef) : Nat :=
  match t with
  | .ctx k _ _ => k
  | .replay core e _ => (((s.core core).replay.find? (·.id == e)).map (·.ctx)).getD 0

/-- A trap that no handler matches ends the launch (R455); a task of no launch ends. -/
def State.unmatched (s : State) (r : Request) : State :=
  if !s.trapOpen r.trap then s
  else
    let k := s.trapCtx r.trap
    let n := (s.ctx k).t.launch
    if (s.launch? n).isSome then
      (if r.cause == .xltFetch then s.endLaunch n .fetchOob 0 else s.endLaunch n .fault r.cause.code)
    else s.disposeEnd r.trap

/-- The handler task of a request starts in context 10 of the service core (R437). -/
def State.startHandler (s : State) (core : Nat) (r : Request) (entry : Word) : State :=
  let t := { Task.none with kind := .supervisor, trap := some r.trap }
  let gond : Nat := match r.trap with
    | .ctx k _ _ => if isG k then 2 ^ 15 else 0
    | .replay _ _ _ => 0
  s.beginTask (16 * core + 10) entry (BitVec.ofNat 64 (r.core + gond)) (BitVec.ofNat 64 r.ctx)
    (BitVec.ofNat 64 r.cause.code) (if r.cause == .trap then 0 else r.tval) 0 0 t (startPsw false false true)

/-- Whether a flight's service core can start a handler: context 10 is FREE, and a workspace is (R454, R35). -/
def State.handlerFree (s : State) (flight : Nat) : Bool :=
  let core := s.serviceCore flight
  s.coreEnabled core && !(s.ctx (16 * core + 10)).live && s.hasWs core

/-- HANDLER_START (R437, R454, R487). -/
def execHandlerStart (flight : Nat) (s : State) : Out :=
  let f := s.flight flight
  match if s.handlerFree flight then nextRequest f else none with
  | none => .next s
  | some r =>
    let s := s.setFlight flight { f with supq := f.supq.filter (· != r), vtime := r.fin }
    let s := s.refill flight (s.flight flight).supWait
    let t := s.handlersRead flight r
    match s.handlerOf (s.flightPart flight) r with
    | none => .next (t.unmatched r)
    | some e => .next (t.startHandler (s.serviceCore flight) r e)

/-! ### Acknowledgements (R442, R450) -/

/-- The commands of the engine context of a core, those that have been saved with it among them (R201, R472). -/
def State.enginesOf (s : State) (core : Nat) : List EngCmd :=
  (s.core core).eng.queue ++ s.liveImages.flatMap fun i => (find i.cores core .idle).eng.queue

/-- Whether an agent may acknowledge an invalidation: an engine only once no command of its queue holds a translation that
the invalidation covers, a saved one (R201) among them. -/
def State.mayAck (s : State) (a : InvAgent) (i : Inval) : Bool :=
  i.agents.any (· == a) &&
  match a with
  | .engine c => !(s.enginesOf c).any fun e => e.holding.any i.covers
  | _ => true

/-- An agent removes its entries under an invalidation. -/
def State.removeHeld (s : State) (a : InvAgent) (i : Inval) : State :=
  let keep := fun (l : List TlbEntry) => l.filter fun t => !i.covers t
  match a with
  | .core n => s.onCore n fun x => { x with tlb := keep x.tlb }
  | .flight n => s.onFlight n fun x => { x with tlb := keep x.tlb }
  | .gondola n => s.setGcore n { s.gcore n with tlb := keep (s.gcore n).tlb }
  | .engine _ => s

/-- Invalidations that everybody has acknowledged are over. -/
def State.closeInvals (s : State) : State :=
  { s with invals := s.invals.filter fun i => !i.agents.isEmpty || i.ats }

/-- INVALIDATION_ACKNOWLEDGE (R442). -/
def execInvalidationAcknowledge (agent : InvAgent) (s : State) : Out :=
  let mine := s.invals.filter (s.mayAck agent)
  if mine.isEmpty then .next s
  else
    let t := mine.foldl (fun s i => s.removeHeld agent i) s
    let invals := t.invals.map fun i =>
      if mine.any (·.id == i.id) then { i with agents := i.agents.filter (· != agent) } else i
    .next { t with invals := invals }.closeInvals

/-- The oldest invalidation that waits for the host. -/
def firstAts : List Inval → List Inval
  | [] => []
  | i :: r => if i.ats then { i with ats := false } :: r else i :: firstAts r

/-- ATS_INVALIDATION_COMPLETION (R442): the host completes its oldest request. -/
def execAtsInvalidationCompletion (s : State) : Out :=
  if s.host.up then .next { s with invals := firstAts s.invals }.closeInvals else .next s

/-! ### The links (R289, R495) -/

/-- TIMELINE_WAKE (R289): the home chip answers a waiter with the words that met its condition. -/
def execTimelineWake (ctx : Nat) (value status : Word) (s : State) : Out :=
  let c := s.ctx ctx
  if c.st == .waiting .tlwaitRemote then .next (s.setCtx ctx { c with wokeBy := some (value, status) }) else .next s

/-- The places of n bytes at a local physical address, for an agent of another chip: pages of this package whose owners'
keys are active (R495). -/
def State.localPlaces (s : State) (a n : Nat) : Option (List Where) :=
  (List.range n).mapM fun i =>
    let k := s.chip.toNat * 2 ^ 46 + a + i
    let e := s.potEntry (k / 2 ^ 19)
    if Config.dramExists (a + i) && (s.potBad (k / 2 ^ 19)).isNone && potValid e && (keyOf s.keys (potOwner e)).isSome && !s.inPot k &&
        !s.moving (k / 2 ^ 19) then
      some { key := s.place .load k, owner := potOwner e, metered := potMetered e }
    else none

/-- What a remote AMO of a width in bits stores (R318, R319). -/
def remoteAmo (o : BitVec 4) (bits old v : Nat) : Nat :=
  let f : Fmt := if bits == 32 then .fp32 else .fp64
  match o.toNat with
  | 0 => (old + v) % 2 ^ bits
  | 1 => old &&& v
  | 2 => old ||| v
  | 3 => old ^^^ v
  | 4 => if asInt bits old ≤ asInt bits v then old else v
  | 5 => if asInt bits v ≤ asInt bits old then old else v
  | 6 => min old v
  | 7 => max old v
  | 8 => v
  | 9 => (amoFadd f old v).1
  | 10 => (amoFmm f true old v).1
  | 11 => (amoFmm f false old v).1
  | 12 => (amoFamax f old v).1
  | _ => old

/-- How many bytes a remote atomic reaches. -/
def remoteWidth : RemoteOp → Nat
  | .tlsig => 8
  | .tlwait => 16
  | .amo _ w _ | .cas _ w _ => if w then 4 else 8

/-- What a remote atomic stores; none where it writes nothing (R318 to R320, R330). -/
def remoteOp (op : RemoteOp) (old v : Nat) : Option Nat :=
  let bits := 8 * remoteWidth op
  match op with
  | .tlsig => some ((old + v) % 2 ^ 64)
  | .tlwait => none
  | .amo o _ _ => some (remoteAmo o bits old (v % 2 ^ bits))
  | .cas e _ _ => if old == e.toNat % 2 ^ bits then some (v % 2 ^ bits) else none

/-- The scope of a remote atomic's release, if it is one: a timeline signal is one at system scope (R289, R306). -/
def remoteRelease : RemoteOp → Option (BitVec 3)
  | .tlsig => some 4
  | .tlwait => none
  | .amo _ _ r | .cas _ _ r => r

/-- The agent that stands for another chip in the record of releases. -/
def chipAgent (chip : BitVec 18) : Nat := 2 ^ 22 + chip.toNat

/-- Whether a request of another chip can reach this package. -/
def State.linked (s : State) (chip : BitVec 18) : Bool := chip != s.chip && s.ports.any (·.2.up)

/-- A transfer of the host or of another chip waits for an egress bucket; its stall is logged once, when it begins, and the record
waits for the ring (R380, R382, R384). DESIGN CHOICE (log 65): it waits in fault mode too, and its die is that of the page. -/
def State.stall (s : State) (i : Instr) (d : Dom) (cls : Nat) (addr : Word) (l : List Where) : State :=
  let die := Config.dieOf ((l.head?.map (·.key)).getD 0 % 2 ^ 46)
  if s.stalls.any (· == i) || s.logFull die then s.again i
  else ({ s with stalls := i :: s.stalls }.logAt die 0 false 5 d 0 (.ofNat 64 cls) addr (s.egLevel d cls)).again i

/-- A transfer goes: it has not stalled, or no longer does. -/
def State.unstall (s : State) (i : Instr) : State :=
  if s.stalls.isEmpty then s else { s with stalls := s.stalls.filter (· != i) }

/-- The domain that a transfer of a page charges (R378, R481): the owner. -/
def ownerOf (l : List Where) : Dom := (l.head?.map (·.owner)).getD 0

/-- The answer of n bytes of a page to another chip (R492): charged to the owner (R378), it waits while the bucket is empty or no
port has room for it; none then. -/
def State.answerTo (s : State) (i : Instr) (chip : BitVec 18) (addr n : Nat) (l : List Where) (t : State) : State :=
  let d := ownerOf l
  if (s.egBlocked d 2).isSome then s.stall i d 2 (.ofNat 64 addr) l
  else if !s.portRoom chip then s.again i
  else ((t.unstall i).charge d 2 n).respond chip

/-- Whether the words at the places of a timeline meet a condition (R288). -/
def State.timelineMet (s : State) (l : List Where) (threshold : Word) : Bool :=
  let b := s.peeks l
  tlMet (.ofNat 64 (leNat (b.take 8))) (.ofNat 64 (leNat (b.drop 8))) threshold

/-- The bad line in which a page's ownership entry stands is logged as hardware meets it (R371). -/
def State.notePot (s : State) (addr : Nat) : State :=
  match s.potBad ((s.chip.toNat * 2 ^ 46 + addr) / 2 ^ 19) with
  | none => s
  | some (c, k) => s.hwMac (Config.dieOf addr) 0 false 0 c k 0

/-- What a remote atomic leaves in memory and in the record of releases (R306, R318 to R320). -/
def State.remoteUpdate (s : State) (chip : BitVec 18) (op : RemoteOp) (value : Word) (l : List Where) : State :=
  match remoteOp op (leNat (s.peeks l)) value.toNat with
  | none => s
  | some x => (s.pokes l (natLe (remoteWidth op) x)).chain s.rels l ((remoteRelease op).map (unitRel (chipAgent chip)))

/-- REMOTE_ATOMIC (R289): performed at this package, the home; a TLWAIT is held here, a timeline signal sends nothing back,
and any other the old value. A bad line is logged (R371), and it has no effect here; DESIGN CHOICE (log 65): the reader is
0x000. -/
def execRemoteAtomic (chip : BitVec 18) (addr : Nat) (op : RemoteOp) (value : Word) (s : State) : Out :=
  let i := Instr.remoteAtomic chip addr op value
  let n := remoteWidth op
  if !s.linked chip || addr % n != 0 then .next s
  else match s.localPlaces addr n with
    | none => .next (s.notePot addr)
    | some l =>
      match s.linesBad l with
      | some (c, k, o) => .next (s.hwMac (Config.dieOf addr) 0 false 0 c k o)
      | none =>
        match op with
        | .tlwait =>
          if s.timelineMet l value then .next (s.answerTo i chip addr n l s)
          else .next { s with remoteWaits := s.remoteWaits ++ [{ chip := chip, addr := addr, threshold := value }] }
        | .tlsig => .next (s.remoteUpdate chip op value l)
        | .amo _ _ _ | .cas _ _ _ => .next (s.answerTo i chip addr n l (s.remoteUpdate chip op value l))

/-- The TLWAITs of other chips whose timelines now meet their conditions are woken over the link (R289): each comes again as it
came first, to be answered. -/
def State.remoteWakes (s : State) : State :=
  let ready := fun (w : RemoteWait) => (s.localPlaces w.addr 16).any fun l => s.timelineMet l w.threshold
  let woken := s.remoteWaits.filter ready
  if woken.isEmpty then s
  else
    { s with
      remoteWaits := s.remoteWaits.filter fun w => !ready w,
      inputs := (woken.map fun w => (s.cycle, Instr.remoteAtomic w.chip w.addr .tlwait w.threshold)) ++ s.inputs }

/-- REMOTE_ACCESS (R495): a read sends the owner's line back over the link (R492) as it stands, and the reading chip checks
it (R371). A write that merges into a line is merged by the issuing chip (R372): into a bad one it has no effect here, and
that chip takes the cause. -/
def execRemoteAccess (chip : BitVec 18) (addr : Nat) (acc : RemoteAcc) (s : State) : Out :=
  if !s.linked chip then .next s
  else match acc with
    | .read n =>
      match s.localPlaces addr n with
      | none => .next (s.notePot addr)
      | some l => .next (s.answerTo (.remoteAccess chip addr acc) chip addr n l s)
    | .write b rel =>
      match s.localPlaces addr b.length with
      | none => .next (s.notePot addr)
      | some l =>
        let whole := b.length == 64 && addr % 64 == 0
        match if whole then none else s.linesBad l with
        | some _ => .next s
        | none =>
          .next (((if whole then l.foldl State.sealLine s else s).pokes l b).chain [] l (rel.map (unitRel (chipAgent chip))))

/-! ### Egress buckets (R379) -/

/-- EGRESS_BUCKET_REFILL (R379): a bucket gains its rate for each microsecond, up to its capacity. Accesses that wait for it
try again at their contexts' turns. -/
def execEgressBucketRefill (dom : Dom) (cls : BitVec 2) (micros : Nat) (s : State) : Out :=
  let k := egKey dom cls.toNat
  match find? s.egress k with
  | none => .next s
  | some b =>
    if b.enable then
      .next { s with egress := put s.egress k { b with level := min (b.capacity : Int) (b.level + (b.rate * micros : Nat)) } }
    else .next s

/-! ### The log, debug and attestation (R377, R384, R385) -/

/-- LOG_CHECKPOINT_REQUEST (R385): a checkpoint after the latest record. -/
def execLogCheckpointRequest (die : Nat) (s : State) : Out :=
  if s.sec.booted && die < 4 && (s.die die).log.seq != 0 then .next (s.addCheckpoint die) else .next s

/-- DEBUG_ATTACH (R384). It waits while die 0's ring is full (R382). -/
def execDebugAttach (port : Nat) (target : Dom) (s : State) : Out :=
  if !s.sec.booted then .next s
  else if s.logFull 0 then .next (s.again (.debugAttach port target))
  else .next (s.logAt 0 0 false 7 0 target (BitVec.ofNat 64 port) 0 0)

/-- The bytes of an attestation report before its signature (R377). -/
def State.reportHead (s : State) (dom : Dom) (nonce : Vec) : List Byte :=
  let k := (slotOf s.keys dom).map (·.2)
  let d := s.die 0
  let bits := dom.toNat + (if (k.map (·.measured)).getD false then 2 ^ 16 else 0) + (if k.isSome then 2 ^ 17 else 0)
  natLe 8 1 ++ natLe 16 Config.chipSerial.toNat ++ natLe 64 s.sec.measurement.toNat ++ natLe 8 bits ++
    natLe 64 ((k.map KeySlot.measurement).getD 0).toNat ++ natLe 64 nonce.toNat ++ natLe 8 d.time ++
    natLe 8 ((d.log.seq + 2 ^ 64 - 1) % 2 ^ 64) ++ natLe 64 d.log.chain.toNat

/-- ATTESTATION_REQUEST (R377): the report is written at the mailbox's address. -/
def execAttestationRequest (dom : Dom) (nonce : Vec) (s : State) : Out :=
  if !s.sec.booted || !Config.dramExists s.sec.mailbox || !Config.dramExists (s.sec.mailbox + 815) then .next s
  else
    let h := s.reportHead dom nonce
    let b := h ++ (List.range 512).map (Config.sign h)
    let keys := (List.range b.length).map fun i => s.chip.toNat * 2 ^ 46 + s.sec.mailbox + i
    .next ((keys.zip b).foldl (fun s p => s.poke p.1 p.2) s)

end Sys2Proof.Machine
end
end

