-- ==== Sys2Proof/Machine/Outside.lean ====
section
/-!
DEFINITION. What the world outside does: the host through the aperture and BAR 0 (R480, R481, R486 to R491), power, boot
and firmware (R490, R496 to R500), time (R421), and Hexry Link (R492 to R494).
-/
noncomputable section
namespace Sys2Proof.Machine

/-! ### The aperture (R481) -/

/-- The aperture domain of a function. -/
def State.apDomain (s : State) (fn : Nat) : Dom := find s.host.apDom fn 0

/-- The aperture of a function as an agent (R481), if an access of n bytes from an address lies in it. -/
def State.apertureWho (s : State) (fn : Nat) (addr : Word) (n : Nat) : Option Who :=
  let d := s.apDomain fn
  if !s.host.up || 64 < fn || n == 0 || 2 ^ 36 < addr.toNat + n || !s.fnHolds fn d then none else some (s.domWho (partOfFn fn) d 0)

/-- The places of an access through the aperture, or none where it completes with Completer Abort. -/
def State.aperture (s : State) (fn : Nat) (addr : Word) (kind : Kind) (n : Nat) : Option (List Where) :=
  match (s.apertureWho fn addr n).map fun w => s.check w kind addr n with
  | some (.ok l) => if l.any fun p => p.key < 2 ^ 64 && potSealed (s.potEntry (p.key / 2 ^ 19)) then none else some l
  | _ => none

/-- The bad line that the translation or the ownership check of such an access meets, if any (R371). -/
def State.apertureBad (s : State) (fn : Nat) (addr : Word) (kind : Kind) (n : Nat) : Option (Cause × Nat × Dom) :=
  (s.apertureWho fn addr n).bind fun w => match s.check w kind addr n with
    | .error (c, x) => if c.precise then none else s.walkBad w x.toNat
    | .ok _ => none

/-- What the host is answered (R481). -/
def State.answer (s : State) (r : Reply) : State := { s with host := { s.host with replies := r :: s.host.replies } }

/-- Completer Abort (R481). -/
def State.abort (s : State) : State := s.answer { abort := true, data := [] }

/-- An access through the aperture that is refused, or meets a bad line, which is logged (R371, R387) once the ring has room
(R382); no plaintext of it is delivered. -/
def State.hostBad (s : State) (fn : Nat) (i : Instr) (bad : Option (Cause × Nat × Dom)) : State :=
  match bad with
  | none => s.abort
  | some (c, k, o) =>
    let die := Config.dieOf (k % 2 ^ 46)
    if c == .macFail && s.logFull die then s.again i else (s.logMacAt die 0 false (s.apDomain fn) c k o).abort

/-- Whether a list of places covers the line of one of them wholly. -/
def covers (l : List Where) (p : Where) : Bool := (List.range 64).all fun i => l.any fun q => q.key == p.key / 64 * 64 + i

/-- What an access through the aperture charges (R378, R481): class 1 to the owner of each page of the part, and what its
reads and its writes charge as accesses of the aperture's domain. -/
def State.apertureEgress (s : State) (fn : Nat) (reads writes : Bool) (l : List Where) : List (Dom × Nat × Nat) :=
  (perOwner (l.filter fun p => p.key < 2 ^ 64)).map (fun p => (p.1, 1, p.2)) ++
    (if reads then s.egressOf (s.apDomain fn) false l else []) ++ if writes then s.egressOf (s.apDomain fn) true l else []

/-- What an access through the aperture comes to that has passed its check (R379, R380, R492): it waits while a bucket that it
charges is empty, or no port carries it to another chip; else it is charged. -/
def State.hostGate (s : State) (i : Instr) (addr : Word) (charges : List (Dom × Nat × Nat)) (l : List Where) (vc : BitVec 2)
    (k : State → State) : State :=
  match s.egFirst charges with
  | some (d, cls, _) => s.stall i d cls addr l
  | none =>
    match ((s.unstall i).chargeAll charges).linkOut l vc 0 with
    | none => s.again i
    | some t => k t

/-- APERTURE_ACCESS (R481). A write seals the lines that it
covers, and merges into the others (R501). -/
def execApertureAccess (fn : Nat) (addr : Word) (acc : HostAccess) (s : State) : Out :=
  let i := Instr.apertureAccess fn addr acc
  if !s.host.up then .next s
  else match acc with
  | .read n =>
    match s.aperture fn addr .load n with
    | none => .next (s.hostBad fn i (s.apertureBad fn addr .load n))
    | some l =>
      if (s.linesBad l).isSome then .next (s.hostBad fn i (s.linesBad l))
      else .next (s.hostGate i addr (s.apertureEgress fn true false l) l 0 fun t => t.answer { abort := false, data := s.peeks l })
  | .write b =>
    match s.aperture fn addr .store b.length with
    | none => .next (s.hostBad fn i (s.apertureBad fn addr .store b.length))
    | some l =>
      let (whole, merged) := l.partition fun p => covers l p && !s.unreached p
      if (s.linesBad merged).isSome then .next (s.hostBad fn i (s.linesBad merged))
      else .next (s.hostGate i addr (s.apertureEgress fn false true l) l 0 fun t =>
        ((whole.foldl State.sealLine t).pokes l b).answer { abort := false, data := [] })

/-- What a host AtomicOp stores. -/
def hostResult (op : HostAtomic) (old : Word) : Word :=
  match op with
  | .fetchAdd v => old + v
  | .swap v => v
  | .cas e v => if old == e then v else old

/-- APERTURE_ATOMICOP (R479, R481): a relaxed read-modify-write, which keeps the releases it reads; the leaf must permit both
(R447), and the old value is its answer. One to host memory is refused: the device requests no AtomicOps (R479; log 58). -/
def execApertureAtomicop (fn : Nat) (addr : Word) (op : HostAtomic) (s : State) : Out :=
  let i := Instr.apertureAtomicop fn addr op
  if !s.host.up then .next s
  else if addr.toNat % 8 != 0 then .next s.abort
  else match s.aperture fn addr .load 8, s.aperture fn addr .store 8 with
  | some _, some l =>
    if l.any fun p => isHost p.key then .next s.abort
    else if (s.linesBad l).isSome then .next (s.hostBad fn i (s.linesBad l))
    else
      let old : Word := BitVec.ofNat 64 (leNat (s.peeks l))
      .next (s.hostGate i addr (s.apertureEgress fn true true l) l 2 fun t =>
        ((t.pokes l (natLe 8 (hostResult op old).toNat)).chain s.rels l none).answer { abort := false, data := natLe 8 old.toNat })
  | none, _ => .next (s.hostBad fn i (s.apertureBad fn addr .load 8))
  | some _, none => .next (s.hostBad fn i (s.apertureBad fn addr .store 8))

/-- APERTURE_DOMAIN_WRITE (R481): ignored unless the function's partition holds the domain. -/
def execApertureDomainWrite (fn : Nat) (value : Word) (s : State) : Out :=
  let d : Dom := value.extractLsb' 0 12
  if s.host.up && fn ≤ 64 && s.fnHolds fn d then .next { s with host := { s.host with apDom := put s.host.apDom fn d } }
  else .next s

/-! ### Registers with no behaviour of their own (R480, R482, R486, R489) -/

/-- Word i of a field of words, replaced. -/
def setField {n : Nat} (x : BitVec n) (i : Nat) (w : Word) : BitVec n :=
  (x &&& ~~~ ((BitVec.allOnes 64).setWidth n <<< (64 * i))) ||| (w.setWidth n <<< (64 * i))

/-- A field of a partition entry is written (R486); `reserved` records whether it held a reserved bit. -/
def Part.write (x : Part) (o : Nat) (v : Word) : Part :=
  let res := fun (bad : Bool) (y : Part) =>
    { y with reserved := if bad then o :: x.reserved.filter (· != o) else x.reserved.filter (· != o) }
  if o == 0x08 then { x with period := (v.extractLsb' 0 32).toNat, slice := (v.extractLsb' 32 32).toNat }
  else if o == 0x10 then res (v.extractLsb' 32 32 != 0) { x with offset := (v.extractLsb' 0 32).toNat }
  else if o == 0x18 then { x with saveTable := v }
  else if 0x20 ≤ o && o < 0x40 then { x with flights := setField x.flights ((o - 0x20) / 8) v }
  else if 0x40 ≤ o && o < 0x80 then { x with weights := setField x.weights ((o - 0x40) / 8) v }
  else if o == 0x80 then { x with domWeights := v }
  else if o == 0x88 then { x with domSet := v }
  else if 0x90 ≤ o then res (v != 0) x
  else x

/-- A field of a queue's configuration is written (R482): the ring base, and the word of flags, where a ring of more than 2^16
entries is ignored. -/
def SubQ.write (x : SubQ) (o : Nat) (v : Word) : SubQ :=
  if o == 0 then { x with base := v &&& ~~~ 0xFFF }
  else if o == 8 && (v.extractLsb' 0 4).toNat ≤ 12 then
    { x with logn := 4 + (v.extractLsb' 0 4).toNat, prio := (v.extractLsb' 8 2).toNat,
             process := (v.extractLsb' 10 6).toNat, enable := v.getLsbD 16,
             disconnected := x.disconnected && !v.getLsbD 16 }
  else x

/-- Whether the move registers may be written (R489). -/
def Move.open (m : Move) : Bool := m.st == .idle || m.st == .added || m.st == .refused

/-- The code of a move's state (R489). -/
def MoveState.code : MoveState → Nat
  | .idle => 0
  | .offered => 1
  | .removed => 2
  | .scrubbing => 3
  | .added => 4
  | .refused => 5

/-- Giver and receiver of a move: those of the offer. -/
def Move.giver (m : Move) : Nat := (m.ofPair.extractLsb' 0 6).toNat
def Move.receiver (m : Move) : Nat := (m.ofPair.extractLsb' 8 6).toNat

/-- The capacity word of a function (R489): of the giver in OFFERED and of the receiver in ADDED, each of which is told of
the block; zero for every other function. -/
def State.capacityWord (s : State) (fn : Nat) : Word :=
  let m := s.host.move
  let block := m.ofBlock &&& 0x0000FFFF80000000
  if m.st == .offered && m.giver + 1 == fn then block ||| BitVec.twoPow 64 48
  else if m.st == .added && m.receiver + 1 == fn then block ||| BitVec.twoPow 64 49
  else 0

/-- A word of a queue's configuration (R482). -/
def SubQ.word (x : SubQ) (o : Nat) : Word :=
  match o with
  | 0 => x.base
  | 8 => BitVec.ofNat 64 (x.logn - 4 + 2 ^ 8 * (x.prio % 4) + 2 ^ 10 * (x.process % 64) + (if x.enable then 2 ^ 16 else 0) +
      (if x.disconnected then 2 ^ 17 else 0))
  | 16 => BitVec.ofNat 64 (x.head % 2 ^ 32)
  | 24 => BitVec.ofNat 64 (x.lost.toNat + 2 ^ 32 * x.lostIdx.toNat)
  | _ => 0

/-- A word of a partition's entry (R486). -/
def Part.word (x : Part) (o : Nat) : Word :=
  if o == 0 then BitVec.ofNat 64 ((if x.enable then 1 else 0) + (if x.running then 2 else 0) + (if x.refused then 4 else 0))
  else if o == 0x08 then BitVec.ofNat 64 (x.period + 2 ^ 32 * x.slice)
  else if o == 0x10 then BitVec.ofNat 64 x.offset
  else if o == 0x18 then x.saveTable
  else if 0x20 ≤ o && o < 0x40 then x.flights.extractLsb' (8 * (o - 0x20)) 64
  else if 0x40 ≤ o && o < 0x80 then x.weights.extractLsb' (8 * (o - 0x40)) 64
  else if o == 0x80 then x.domWeights
  else if o == 0x88 then x.domSet
  else 0

/-- The flight core-count byte of a flight (R497). -/
def State.coreCountByte (s : State) (f : Nat) : Nat := if s.coresOn f == 0 then 0 else s.coresOn f / 8 - 1

/-- What an aligned 64-bit read of BAR 0 by a function gives; none where no rule gives a value (R480, R482, R486, R489, R491,
R496, R497). -/
def State.bar0 (s : State) (fn offset : Nat) : Option Word :=
  if offset % 8 != 0 then none
  else if offset == 0 then some s.host.enableWord
  else if offset == 0x40 then some (BitVec.ofNat 64 (s.host.resets.toNat + 2 ^ 32 * s.host.failedStep.toNat))
  else if offset == 0x80 then some ((s.apDomain fn).setWidth 64)
  else if offset == 0xC0 && fn != 0 then some (s.capacityWord fn)
  else if offset == 0xC8 && fn != 0 then some 0
  else if fn == 0 && 0x100 ≤ offset && offset < 0x120 then
    let m := s.host.move
    some (match offset - 0x100 with
      | 0 => m.block
      | 8 => m.pair
      | 16 => 0
      | _ => BitVec.ofNat 64 (m.st.code + 2 ^ 8 * m.refusal))
  else if 0x400 ≤ offset && offset < 0x500 then
    some (BitVec.ofNat 64 (leNat ((List.range 8).map fun i => BitVec.ofNat 8 (s.coreCountByte (offset - 0x400 + i)))))
  else if 0x2000 ≤ offset && offset < 0x2400 then
    some ((s.queue (queueKey fn ((offset - 0x2000) / 64))).word (offset % 64))
  else if fn == 0 && 0x4000 ≤ offset && offset < 0x8000 then some ((s.part ((offset - 0x4000) / 256)).word (offset % 256))
  else none

/-- REGISTER_WRITE (R480): an aligned 64-bit write by the host. Other offsets are read only, or have events of their own. -/
def execRegisterWrite (fn offset : Nat) (value : Word) (s : State) : Out :=
  if !s.host.up || 64 < fn || offset % 8 != 0 then .next s
  else if 0x2000 ≤ offset && offset < 0x2400 then
    let k := queueKey fn ((offset - 0x2000) / 64)
    .next (s.setQueue k ((s.queue k).write (offset % 64) value))
  else if fn == 0 && 0x4000 ≤ offset && offset < 0x8000 then
    let p := (offset - 0x4000) / 256
    if (s.part p).enable then .next s else .next (s.setPart p ((s.part p).write (offset % 256) value))
  else if fn == 0 && (offset == 0x100 || offset == 0x108) && s.host.move.open then
    let m := s.host.move
    .next { s with host := { s.host with move := if offset == 0x100 then { m with block := value } else { m with pair := value } } }
  else .next s

/-! ### Capacity moves (R488, R489) -/

/-- The pages of a move's block. -/
def State.movePages (s : State) (m : Move) : List Nat :=
  (List.range 4096).map fun i => (s.chip.toNat * 2 ^ 46 + m.base) / 2 ^ 19 + i

/-- Whether a page of a move's block has an owner without an active key (R488). -/
def State.keylessPage (s : State) (m : Move) : Bool := (s.movePages m).any fun p => (keyOf s.keys (potOwner (s.potEntry p))).isNone

/-- The refusal of an offer, 0 for none (R489). -/
def State.moveRefusal (s : State) (m : Move) : Nat :=
  if m.ofBlock.extractLsb' 0 31 != 0 || m.ofBlock.extractLsb' 48 16 != 0 || m.ofPair.extractLsb' 6 2 != 0 ||
      m.ofPair.extractLsb' 14 50 != 0 then 5
  else if m.ofBlock.extractLsb' 44 2 != 0 || !Config.dramExists m.base || !Config.dramExists (m.base + 2 ^ 31 - 1) then 1
  else if s.keylessPage m then 2
  else if (s.movePages m).any (fun p => !potValid (s.potEntry p) || potPart (s.potEntry p) != m.giver) then 3
  else 0

def State.setMove (s : State) (m : Move) : State := { s with host := { s.host with move := m } }

/-- MOVE_OFFER (R488, R489): the physical function writes the move registers and the command. -/
def execMoveOffer (block pair : Word) (s : State) : Out :=
  let m := s.host.move
  if !s.host.up then .next s
  else if !m.open then .next (s.setMove { m with refusal := 4 })
  else
    -- the receiver of the move before this one no longer sees the block as added
    let s := if m.st == .added then s.msix (m.receiver + 1) 0 else s
    let m := { m with block := block, pair := pair, ofBlock := block, ofPair := pair }
    let n := s.moveRefusal m
    if n != 0 then .next (s.setMove { m with st := .refused, refusal := n })
    else .next ((s.setMove { m with st := .offered, refusal := 0 }).msix (m.giver + 1) 0)

/-- MOVE_CANCEL (R488): in OFFERED only. -/
def execMoveCancel (s : State) : Out :=
  let m := s.host.move
  if s.host.up && m.st == .offered then .next ((s.setMove { m with st := .idle }).msix (m.giver + 1) 0) else .next s

/-- Whether a translation maps a page of the block of the move. -/
def State.inBlock (s : State) (t : TlbEntry) : Bool :=
  t.frame / 2 ^ 31 == (s.chip.toNat * 2 ^ 46 + s.host.move.base) / 2 ^ 31

/-- REMOVAL_ACKNOWLEDGE (R488, R489): the giver's function acknowledges; every entry of the block is frozen, its translations
are dropped, and scrubbing begins at once. A block with a page whose owner's key has become inactive since the offer is
refused. -/
def execRemovalAcknowledge (fn : Nat) (s : State) : Out :=
  let m := s.host.move
  if s.host.up && m.st == .offered && fn == m.giver + 1 then
    if s.keylessPage m then .next ((s.setMove { m with st := .refused, refusal := 2 }).msix fn 0) else
    let pot := (s.movePages m).foldl (fun l p => put l p (setBit (s.potEntry p) 16 true)) s.pot
    .next (((({ s with pot := pot }).dropTlbs s.inBlock).setMove { m with st := .scrubbing }).msix fn 0)
  else .next s

/-- The block's lines are zero under the receiver's key, and its entries the receiver's (R353, R488). -/
def State.giveBlock (s : State) (m : Move) (key : Nat) : State :=
  let lo := s.chip.toNat * 2 ^ 46 + m.base
  let pages := s.movePages m
  let e : Word := BitVec.ofNat 64 (0x8000 + 2 ^ 36 * m.receiver)
  let old := s.potEntry
  let images := s.images.map fun i => i.erase lo (2 ^ 31)
  let s := { s with
    mem := Memory.clear s.mem lo (2 ^ 31),
    pageKey := pages.foldl (fun l p => put l p key) s.pageKey,
    lineKey := s.lineKey.filter (fun p => p.1 / 2 ^ 25 != lo / 2 ^ 31),
    eccLines := s.eccLines.filter (fun l => l / 2 ^ 25 != lo / 2 ^ 31),
    rels := s.rels.filter (fun p => p.1 / 2 ^ 31 != lo / 2 ^ 31),
    images := images,
    pot := pages.foldl (fun l p => put l p e) s.pot }
  pages.foldl (fun s p =>
    s.logAt (Config.dieOf m.base) 0 false 8 0 0 (BitVec.ofNat 64 (p * 2 ^ 19 % 2 ^ 46)) (old p) e) s

/-- SCRUBBING_COMPLETE (R488): once no engine command holds a translation of the block, and the ring has room for the record
of each page (R382). -/
def execScrubbingComplete (s : State) : Out :=
  let m := s.host.move
  if m.st != .scrubbing ||
      (s.cores ++ s.liveImages.flatMap (·.cores)).any (fun p => p.2.eng.queue.any fun c => c.holding.any s.inBlock) ||
      s.logShort (Config.dieOf m.base) 4096 then .next s
  else match keyOf s.keys 0 with
    | none => .next s
    | some k => .next (((s.giveBlock m (sealNo k 0)).setMove { m with st := .added }).msix (m.receiver + 1) 0)

/-! ### Resets (R490, R491) -/

/-- What a started command has still to write to memory: addresses and lengths (R205 to R209). -/
def State.toWrite (s : State) (core : Nat) (c : EngCmd) : List (Word × Nat) :=
  let x := s.slot core c.slot
  let off := 64 * c.pos
  let rows := fun (_ : Unit) => ((List.range (shapeRows x.shape)).drop (c.pos / beatsPerRow x.shape)).filterMap fun i =>
    match s.engRow s core c x i with
    | .ok a _ => some (a, rowBytes x.shape)
    | _ => none
  match c.op with
  | .rget | .rgath => []
  | .rput | .rscat => rows ()
  | .rcopy | .rred | .rmcast =>
    (((c.word 0) :: ((List.range (c.replicas - 1)).map fun i => c.word (5 + i))).map fun a =>
      (a + BitVec.ofNat 64 off, c.len - off)) ++ (if c.word 3 == 0 then [] else [(c.word 3, 8)])

/-- Whether a command has still to write to host memory. -/
def State.writesHost (s : State) (core : Nat) (c : EngCmd) : Bool :=
  c.started && (s.toWrite core c).any fun p => (units p.1 p.2).any fun u =>
    match if inWindows (2 ^ 19 * u) then none else (s.translate (s.engWho core c) .store (2 ^ 19 * u)).toOption with
    | some t => isHost t.pbase
    | none => false

/-- Commands that have still to write to host memory fail with error 1 (R200, R491). -/
def State.failHostWrites (s : State) : State :=
  s.cores.foldl (fun (s : State) (p : Nat × Core) =>
    match p.2.eng.queue.find? (s.writesHost p.1) with
    | none => s
    | some c => s.engFail p.1 c { error := 1, cause := .engine, addr := 0 }) s

/-- HOT_RESET (R491), in self-hosted mode. -/
def execHotReset (s : State) : Out :=
  if !s.sec.booted || !s.sec.selfHosted then .next s
  else
    let queues := (List.range (16 * 65)).map fun k => (k, { s.queue k with disconnected := true })
    let invals := s.invals.map fun i => { i with ats := false }
    .next ({ s with
      host := { s.host with
        up := true, resets := s.host.resets + 1, queues := queues, msix := [], vectors := [], bars := [], config := [], replies := [] },
      invals := invals }.failHostWrites).closeInvals

/-- The package after a reset: the state after reset, but for the fuses and the flash, the chip's number, host memory, and
what the model itself keeps. An accepted firmware update takes effect now, and raises the fuse counter (R498). -/
def State.afterReset (s : State) : State :=
  let v := s.sec.pendingFw.getD s.sec.running
  let r := State.reset
  { r with
    sec := { r.sec with fuse := max s.sec.fuse (s.sec.pendingFw.getD 0), running := v, flash := s.sec.flash },
    host := { r.host with mem := s.host.mem, coreCounts := s.host.coreCounts }, chip := s.chip, seq := s.seq, freeCount := s.freeCount,
    agenda := s.agenda, inputs := s.inputs, cycle := s.cycle }

/-- PACKAGE_RESET (R490), in host-managed mode. -/
def execPackageReset (s : State) : Out :=
  if !s.sec.booted || s.sec.selfHosted then .next s else .next s.afterReset

/-! ### Boot, firmware, power (R496, R498 to R500) -/

/-- Whether the fuses enable what a part may have (R8, R497). -/
def fusesOk (b : BootInput) : Bool :=
  let w := b.enableWord
  w.extractLsb' 56 8 == 0 && w.extractLsb' 52 4 == 1 &&
    ((List.range 4).all fun d => let n := (w.extractLsb' (7 * d) 7).toNat; 1 ≤ n && n ≤ 64) && b.coreCounts.all (·.2 < 4)

/-- The boot step that fails, if one does (R496). A boot configuration out of its limits fails step 4. -/
def bootFails (b : BootInput) (fuse : Nat) : Option Nat :=
  if !b.signatureOk || b.version < fuse then some 1
  else if !b.measured then some 2
  else if !b.trained then some 3
  else if b.logK < 12 || 24 < b.logK || (b.ptpSource.any fun p => 24 ≤ p.toNat) || !fusesOk b then some 4
  else if !b.started then some 5
  else none

/-- A die after boot: its log writer and its tables (R382, R349, R350). -/
def bootDie (s : State) (b : BootInput) (die : Nat) : Die :=
  { s.die die with
    log := { Log.idle with k := b.logK, base := Config.logBase die, area := Config.logArea die,
                           consumer := Config.logConsumer die },
    potBase := b.potBase.getD die 0, listBase := b.listBase.getD die 0 }

/-- The package after a boot that did not fail (R496 step 5). -/
def State.booted (s : State) (b : BootInput) : State :=
  let slot := fun (d : Dom) (k : Nat) => ({ dom := d, key := k, measurement := 0, measured := false, images := [] } : KeySlot)
  let parts := (List.range 64).map fun p =>
    (p, { s.part p with spaceBase := b.spaceBase.getD p 0, handlerBase := b.handlerBase.getD p 0 })
  let ports := (List.range 24).map fun p => (p, { Port.idle with up := b.enableWord.getLsbD (28 + p) })
  { s with
    sec := { s.sec with
      booted := true, kernel := true, selfHosted := b.selfHosted, running := b.version, measurement := Config.firmwareMeasurement b.version,
      mailbox := b.mailbox, serviceMasks := b.serviceMasks, ptpSource := b.ptpSource },
    dies := (List.range 4).map (fun d => (d, bootDie s b d)),
    keys := [(0, slot 0 0), (1, slot 0xFFF 1)], keyBook := [Config.bootKey 0, Config.bootKey 0xFFF],
    parts := parts, ports := ports,
    host := { s.host with up := true, enableWord := b.enableWord, coreCounts := b.coreCounts } }

/-- The boot sequence (R496), of the firmware in the flash: that of an accepted update, or the version that comes with the
power-on. -/
def State.boot (s : State) (b : BootInput) : State :=
  let b := { b with version := s.sec.flash.getD b.version }
  match bootFails b s.sec.fuse with
  | some n => { s with stopped := some (.boot n), host := { s.host with failedStep := BitVec.ofNat 8 n } }
  | none => s.booted b

/-- POWER_ON_BOOT (R496). The power of a part that has booted has been off: it resets, in either mode (R498). -/
def execPowerOnBoot (b : BootInput) (s : State) : Out := .next ((if s.sec.booted then s.afterReset else s).boot b)

/-- FIRMWARE_UPDATE (R498): an accepted update stands in the flash until the next reset. -/
def execFirmwareUpdate (version : Nat) (verified : Bool) (s : State) : Out :=
  if verified && s.sec.fuse ≤ version then
    .next { s with sec := { s.sec with pendingFw := some version, flash := some version } }
  else .next s

/-- THERMAL_TRIP (R499). -/
def execThermalTrip (s : State) : Out := .next { s with stopped := some .thermal, host := { s.host with up := false } }

/-- THROTTLE_STEP (R500). -/
def execThrottleStep (up : Bool) (s : State) : Out :=
  .next { s with clock := if up then min 16 (s.clock + 1) else max 8 (s.clock - 1) }

/-! ### Time (R421) -/

/-- PTP_SYNCHRONISATION (R421): the first lock sets the time, never backward; every later correction is slewed. -/
def execPtpSynchronisation (die : Nat) (time : Nat) (offset : Int) (s : State) : Out :=
  let d := s.die die
  if 4 ≤ die then .next s
  else
    let n := if -100 ≤ offset && offset ≤ 100 then d.inRange + 1 else 0
    let d := { d with offset := offset, inRange := n, locked := 16 ≤ n, holdover := false }
    if d.everLocked then .next (s.setDie die { d with slew := -offset, rate := max (-1) (min 1 (-offset)) })
    else if 16 ≤ n then .next (s.setDie die { d with time := max d.time time, frac := 0, everLocked := true, slew := 0 })
    else .next (s.setDie die d)

/-- HOLDOVER (R421). -/
def execHoldover (die : Nat) (s : State) : Out :=
  if 4 ≤ die then .next s
  else .next (s.setDie die { s.die die with holdover := true, locked := false, inRange := 0 })

/-! ### Hexry Link (R492 to R494) -/

/-- Whether number a comes at or after number b among 4096. -/
def seqFrom (b a : BitVec 12) : Bool := (a - b).toNat < 2048

/-- Flits that an acknowledgement of number `ack` covers are no longer held. -/
def Port.acked (p : Port) (ack : BitVec 12) : Port := { p with unacked := p.unacked.filter fun f => !seqFrom f.seq ack }

/-- What a sender does with a negative acknowledgement: every flit from the number named is sent again (R493). -/
def Port.nack (p : Port) (expected : BitVec 12) : Port :=
  let l := p.unacked.filter fun f => seqFrom expected f.seq
  { p with unacked := l, sent := l.reverse ++ p.sent }

/-- A flit is refused (R493): refusals for CRC errors in a row count toward a retrain. -/
def Port.refuse (p : Port) (crc : Bool) : Port :=
  { p with nacks := p.nacks ++ [p.rxSeq], refused := if crc then p.refused + 1 else p.refused }

/-- A port receives a flit (R493). -/
def Port.receive (p : Port) (f : Flit) (room : Bool) : Port :=
  if !f.crcOk then p.refuse true
  else if 4 ≤ f.kind.toNat then p.refuse false
  else if f.kind == 2 then p.nack f.ack
  else if f.kind != 0 then p.acked f.ack
  else if f.seq != p.rxSeq || !room then (p.acked f.ack).refuse false
  else
    let q := p.acked f.ack
    { q with rxSeq := q.rxSeq + 1, received := f :: q.received, refused := 0 }

/-- FLIT_RECEIVE (R493): a port whose 16th refusal in a row was for a CRC error retrains first. -/
def execFlitReceive (port : Nat) (flit : Flit) (room : Bool) (s : State) : Out :=
  match find? s.ports port with
  | none => .next s
  | some p =>
    if p.up && p.refused < 16 then .next { s with ports := put s.ports port (p.receive flit room) } else .next s

/-- NEGATIVE_ACKNOWLEDGE (R493). -/
def execNegativeAcknowledge (port : Nat) (expected : BitVec 12) (s : State) : Out :=
  match find? s.ports port with
  | none => .next s
  | some p => if p.up then .next { s with ports := put s.ports port (p.nack expected) } else .next s

/-- The flits of a channel that a port which is down still holds leave again, in order, through the next port of the route (R494),
once it can hold them all (R493), so that one port holds what a channel has outstanding (R492). -/
def State.rechannel (s : State) (port : Nat) (dest : BitVec 18) (vc : BitVec 2) : State :=
  let p := find s.ports port .idle
  let (mine, rest) := p.unacked.partition fun f => f.dest == dest && f.vc == vc
  match s.reach dest.toNat with
  | none => s
  | some (n, q) =>
    if portLimit < q.unacked.length + mine.length then s
    else mine.foldl (fun t f => t.transmit n (find t.ports n .idle) f.dest f.vc f.payload f.launch)
      { s with ports := put s.ports port { p with unacked := rest } }

/-- The flits of a port that is down are rerouted, channel by channel. -/
def State.reroute (s : State) (port : Nat) (l : List Flit) : State :=
  ((l.map fun f => (f.dest, f.vc)).eraseDups).foldl (fun s c => s.rechannel port c.1 c.2) s

/-- Ports that are down and still hold flits try again. -/
def State.portsOn (s : State) : State :=
  s.ports.foldl (fun (s : State) (q : Nat × Port) => if q.2.up then s else s.reroute q.1 q.2.unacked) s

/-- PORT_RETRAIN (R494) of an enabled port (R497). -/
def execPortRetrain (port : Nat) (passing : LaneWidth) (s : State) : Out :=
  match if s.host.enableWord.getLsbD (28 + port) && port < 24 then find? s.ports port else none with
  | none => .next s
  | some p =>
    let run := fun (n : Nat) =>
      { s with ports := put s.ports port { p with lanes := n, up := true, refused := 0, sent := p.unacked.reverse ++ p.sent } }
    match passing with
    | .lanes8 => .next (run 8)
    | .lanes4 => .next (run 4)
    | .lanes2 => .next (run 2)
    | .none => .next ({ s with ports := put s.ports port { p with up := false, refused := 0 } }.reroute port p.unacked)

/-- The CRC-64 of ECMA-182 over a list of bytes (R492). -/
def crc64 (b : List Byte) : BitVec 64 :=
  let bit := fun (c : BitVec 64) => if c.msb then (c <<< 1) ^^^ 0x42F0E1EBA9EA3693 else c <<< 1
  b.foldl (fun (c : BitVec 64) (x : Byte) =>
    (List.range 8).foldl (fun (c : BitVec 64) _ => bit c) (c ^^^ (x.setWidth 64 <<< (56 : Nat)))) 0

/-- The 128 bytes of a flit: the payload, and the trailer with its CRC (R492). -/
def Flit.bytes (f : Flit) : List Byte :=
  let low : Nat := f.dest.toNat * 2 ^ 16 + f.vc.toNat * 2 ^ 34 + f.kind.toNat * 2 ^ 36 + f.ack.toNat * 2 ^ 40 + f.seq.toNat * 2 ^ 52
  let head := (f.payload ++ List.replicate 112 0).take 112 ++ natLe 8 low
  head ++ natLe 8 (crc64 head).toNat

end Sys2Proof.Machine
end
end

