-- ==== Sys2Proof/Machine/Dispatch.lean ====
section
/-!
DEFINITION. The meaning of every instruction and event of the opcode table, one arm for each constructor of Instr. Lean's
compiler makes no code for a constructor beyond the 245th (see Decode), so `exec` is marked noncomputable; the kernel
evaluates it.
-/
namespace Sys2Proof.Machine

open Sys2Proof in /-- The meaning of an instruction in the issuing context, or of an event of the part. -/ noncomputable
def exec (i : Instr) (s : State) : Host.Outcome State Fault Refusal :=
  match i with
  | .illh x => Sys2Proof.Machine.execIllh x s
  | .mov16 d s0 => Sys2Proof.Machine.execMov16 d s0 s
  | .add16 d s0 => Sys2Proof.Machine.execAdd16 d s0 s
  | .addi16 d i0 => Sys2Proof.Machine.execAddi16 d i0 s
  | .sub16 d s0 => Sys2Proof.Machine.execSub16 d s0 s
  | .and16 d s0 => Sys2Proof.Machine.execAnd16 d s0 s
  | .or16 d s0 => Sys2Proof.Machine.execOr16 d s0 s
  | .xor16 d s0 => Sys2Proof.Machine.execXor16 d s0 s
  | .shli16 d n => Sys2Proof.Machine.execShli16 d n s
  | .shri16 d n => Sys2Proof.Machine.execShri16 d n s
  | .srai16 d n => Sys2Proof.Machine.execSrai16 d n s
  | .li16 d i0 => Sys2Proof.Machine.execLi16 d i0 s
  | .ld16 d o => Sys2Proof.Machine.execLd16 d o s
  | .st16 s0 o => Sys2Proof.Machine.execSt16 s0 o s
  | .lds16 d o => Sys2Proof.Machine.execLds16 d o s
  | .sts16 s0 o => Sys2Proof.Machine.execSts16 s0 o s
  | .beqz a o => Sys2Proof.Machine.execBeqz a o s
  | .bnez a o => Sys2Proof.Machine.execBnez a o s
  | .j o => Sys2Proof.Machine.execJ o s
  | .jr16 a => Sys2Proof.Machine.execJr16 a s
  | .end16 => Sys2Proof.Machine.execEnd16 s
  | .pause16 => Sys2Proof.Machine.execPause16 s
  | .nop => Sys2Proof.Machine.execNop s
  | .break16 c => Sys2Proof.Machine.execBreak16 c s
  | .add d a b => Sys2Proof.Machine.execAdd d a b s
  | .sub d a b => Sys2Proof.Machine.execSub d a b s
  | .andI d a b => Sys2Proof.Machine.execAndI d a b s
  | .orI d a b => Sys2Proof.Machine.execOrI d a b s
  | .xorI d a b => Sys2Proof.Machine.execXorI d a b s
  | .andn d a b => Sys2Proof.Machine.execAndn d a b s
  | .shl d a b => Sys2Proof.Machine.execShl d a b s
  | .shr d a b => Sys2Proof.Machine.execShr d a b s
  | .sra d a b => Sys2Proof.Machine.execSra d a b s
  | .rol d a b => Sys2Proof.Machine.execRol d a b s
  | .ror d a b => Sys2Proof.Machine.execRor d a b s
  | .slt d a b => Sys2Proof.Machine.execSlt d a b s
  | .sltu d a b => Sys2Proof.Machine.execSltu d a b s
  | .minI d a b => Sys2Proof.Machine.execMinI d a b s
  | .maxI d a b => Sys2Proof.Machine.execMaxI d a b s
  | .minu d a b => Sys2Proof.Machine.execMinu d a b s
  | .maxu d a b => Sys2Proof.Machine.execMaxu d a b s
  | .mul d a b => Sys2Proof.Machine.execMul d a b s
  | .mulh d a b => Sys2Proof.Machine.execMulh d a b s
  | .mulhu d a b => Sys2Proof.Machine.execMulhu d a b s
  | .divI d a b => Sys2Proof.Machine.execDivI d a b s
  | .divu d a b => Sys2Proof.Machine.execDivu d a b s
  | .remI d a b => Sys2Proof.Machine.execRemI d a b s
  | .remu d a b => Sys2Proof.Machine.execRemu d a b s
  | .sel d a b => Sys2Proof.Machine.execSel d a b s
  | .addW d a b => Sys2Proof.Machine.execAddW d a b s
  | .subW d a b => Sys2Proof.Machine.execSubW d a b s
  | .shlW d a b => Sys2Proof.Machine.execShlW d a b s
  | .shrW d a b => Sys2Proof.Machine.execShrW d a b s
  | .sraW d a b => Sys2Proof.Machine.execSraW d a b s
  | .mulW d a b => Sys2Proof.Machine.execMulW d a b s
  | .clz d a => Sys2Proof.Machine.execClz d a s
  | .ctz d a => Sys2Proof.Machine.execCtz d a s
  | .popc d a => Sys2Proof.Machine.execPopc d a s
  | .sextB d a => Sys2Proof.Machine.execSextB d a s
  | .sextH d a => Sys2Proof.Machine.execSextH d a s
  | .sextW d a => Sys2Proof.Machine.execSextW d a s
  | .zextB d a => Sys2Proof.Machine.execZextB d a s
  | .zextH d a => Sys2Proof.Machine.execZextH d a s
  | .zextW d a => Sys2Proof.Machine.execZextW d a s
  | .brev d a => Sys2Proof.Machine.execBrev d a s
  | .bswap d a => Sys2Proof.Machine.execBswap d a s
  | .bext d a l p => Sys2Proof.Machine.execBext d a l p s
  | .bins d a l p => Sys2Proof.Machine.execBins d a l p s
  | .addi d a i0 => Sys2Proof.Machine.execAddi d a i0 s
  | .andImm d a i0 => Sys2Proof.Machine.execAndImm d a i0 s
  | .orImm d a i0 => Sys2Proof.Machine.execOrImm d a i0 s
  | .xorImm d a i0 => Sys2Proof.Machine.execXorImm d a i0 s
  | .slti d a i0 => Sys2Proof.Machine.execSlti d a i0 s
  | .sltiu d a i0 => Sys2Proof.Machine.execSltiu d a i0 s
  | .shli d a n => Sys2Proof.Machine.execShli d a n s
  | .shri d a n => Sys2Proof.Machine.execShri d a n s
  | .srai d a n => Sys2Proof.Machine.execSrai d a n s
  | .rori d a n => Sys2Proof.Machine.execRori d a n s
  | .addiW d a i0 => Sys2Proof.Machine.execAddiW d a i0 s
  | .li d i0 => Sys2Proof.Machine.execLi d i0 s
  | .lis d i0 => Sys2Proof.Machine.execLis d i0 s
  | .lpc d i0 => Sys2Proof.Machine.execLpc d i0 s
  | .jmp o => Sys2Proof.Machine.execJmp o s
  | .call o => Sys2Proof.Machine.execCall o s
  | .jr d a i0 => Sys2Proof.Machine.execJr d a i0 s
  | .bEq a b o => Sys2Proof.Machine.execBEq a b o s
  | .bNe a b o => Sys2Proof.Machine.execBNe a b o s
  | .bLt a b o => Sys2Proof.Machine.execBLt a b o s
  | .bGe a b o => Sys2Proof.Machine.execBGe a b o s
  | .bLtu a b o => Sys2Proof.Machine.execBLtu a b o s
  | .bGeu a b o => Sys2Proof.Machine.execBGeu a b o s
  | .bBs a b o => Sys2Proof.Machine.execBBs a b o s
  | .bBc a b o => Sys2Proof.Machine.execBBc a b o s
  | .ldB d b i0 => Sys2Proof.Machine.execLdB d b i0 s
  | .ldH d b i0 => Sys2Proof.Machine.execLdH d b i0 s
  | .ldW d b i0 => Sys2Proof.Machine.execLdW d b i0 s
  | .ldD d b i0 => Sys2Proof.Machine.execLdD d b i0 s
  | .ldBu d b i0 => Sys2Proof.Machine.execLdBu d b i0 s
  | .ldHu d b i0 => Sys2Proof.Machine.execLdHu d b i0 s
  | .ldWu d b i0 => Sys2Proof.Machine.execLdWu d b i0 s
  | .stB d b i0 => Sys2Proof.Machine.execStB d b i0 s
  | .stH d b i0 => Sys2Proof.Machine.execStH d b i0 s
  | .stW d b i0 => Sys2Proof.Machine.execStW d b i0 s
  | .stD d b i0 => Sys2Proof.Machine.execStD d b i0 s
  | .ldx d a b z s0 => Sys2Proof.Machine.execLdx d a b z s0 s
  | .ldxu d a b z s0 => Sys2Proof.Machine.execLdxu d a b z s0 s
  | .stx d a b z s0 => Sys2Proof.Machine.execStx d a b z s0 s
  | .ldaq d a z s0 => Sys2Proof.Machine.execLdaq d a z s0 s
  | .strl d a z s0 => Sys2Proof.Machine.execStrl d a z s0 s
  | .amoAdd d a b o s0 => Sys2Proof.Machine.execAmoAdd d a b o s0 s
  | .amoAnd d a b o s0 => Sys2Proof.Machine.execAmoAnd d a b o s0 s
  | .amoOr d a b o s0 => Sys2Proof.Machine.execAmoOr d a b o s0 s
  | .amoXor d a b o s0 => Sys2Proof.Machine.execAmoXor d a b o s0 s
  | .amoMin d a b o s0 => Sys2Proof.Machine.execAmoMin d a b o s0 s
  | .amoMax d a b o s0 => Sys2Proof.Machine.execAmoMax d a b o s0 s
  | .amoMinu d a b o s0 => Sys2Proof.Machine.execAmoMinu d a b o s0 s
  | .amoMaxu d a b o s0 => Sys2Proof.Machine.execAmoMaxu d a b o s0 s
  | .amoSwap d a b o s0 => Sys2Proof.Machine.execAmoSwap d a b o s0 s
  | .amoFadd d a b o s0 => Sys2Proof.Machine.execAmoFadd d a b o s0 s
  | .amoFmax d a b o s0 => Sys2Proof.Machine.execAmoFmax d a b o s0 s
  | .amoFmin d a b o s0 => Sys2Proof.Machine.execAmoFmin d a b o s0 s
  | .amoFamax d a b o s0 => Sys2Proof.Machine.execAmoFamax d a b o s0 s
  | .amoWAdd d a b o s0 => Sys2Proof.Machine.execAmoWAdd d a b o s0 s
  | .amoWAnd d a b o s0 => Sys2Proof.Machine.execAmoWAnd d a b o s0 s
  | .amoWOr d a b o s0 => Sys2Proof.Machine.execAmoWOr d a b o s0 s
  | .amoWXor d a b o s0 => Sys2Proof.Machine.execAmoWXor d a b o s0 s
  | .amoWMin d a b o s0 => Sys2Proof.Machine.execAmoWMin d a b o s0 s
  | .amoWMax d a b o s0 => Sys2Proof.Machine.execAmoWMax d a b o s0 s
  | .amoWMinu d a b o s0 => Sys2Proof.Machine.execAmoWMinu d a b o s0 s
  | .amoWMaxu d a b o s0 => Sys2Proof.Machine.execAmoWMaxu d a b o s0 s
  | .amoWSwap d a b o s0 => Sys2Proof.Machine.execAmoWSwap d a b o s0 s
  | .amoWFadd d a b o s0 => Sys2Proof.Machine.execAmoWFadd d a b o s0 s
  | .amoWFmax d a b o s0 => Sys2Proof.Machine.execAmoWFmax d a b o s0 s
  | .amoWFmin d a b o s0 => Sys2Proof.Machine.execAmoWFmin d a b o s0 s
  | .amoWFamax d a b o s0 => Sys2Proof.Machine.execAmoWFamax d a b o s0 s
  | .cas d a b o s0 => Sys2Proof.Machine.execCas d a b o s0 s
  | .casW d a b o s0 => Sys2Proof.Machine.execCasW d a b o s0 s
  | .fence f k s0 => Sys2Proof.Machine.execFence f k s0 s
  | .waitm d a b c o s0 => Sys2Proof.Machine.execWaitm d a b c o s0 s
  | .pause n => Sys2Proof.Machine.execPause n s
  | .faddD d a b r => Sys2Proof.Machine.execFaddD d a b r s
  | .fsubD d a b r => Sys2Proof.Machine.execFsubD d a b r s
  | .fmulD d a b r => Sys2Proof.Machine.execFmulD d a b r s
  | .fminD d a b => Sys2Proof.Machine.execFminD d a b s
  | .fmaxD d a b => Sys2Proof.Machine.execFmaxD d a b s
  | .fcmpeqD d a b => Sys2Proof.Machine.execFcmpeqD d a b s
  | .fcmpltD d a b => Sys2Proof.Machine.execFcmpltD d a b s
  | .fcmpleD d a b => Sys2Proof.Machine.execFcmpleD d a b s
  | .fsgnjD d a b => Sys2Proof.Machine.execFsgnjD d a b s
  | .fsgnjnD d a b => Sys2Proof.Machine.execFsgnjnD d a b s
  | .fsgnjxD d a b => Sys2Proof.Machine.execFsgnjxD d a b s
  | .fclassD d a => Sys2Proof.Machine.execFclassD d a s
  | .frcpD d a r => Sys2Proof.Machine.execFrcpD d a r s
  | .frsqD d a r => Sys2Proof.Machine.execFrsqD d a r s
  | .faddS d a b r => Sys2Proof.Machine.execFaddS d a b r s
  | .fsubS d a b r => Sys2Proof.Machine.execFsubS d a b r s
  | .fmulS d a b r => Sys2Proof.Machine.execFmulS d a b r s
  | .fminS d a b => Sys2Proof.Machine.execFminS d a b s
  | .fmaxS d a b => Sys2Proof.Machine.execFmaxS d a b s
  | .fcmpeqS d a b => Sys2Proof.Machine.execFcmpeqS d a b s
  | .fcmpltS d a b => Sys2Proof.Machine.execFcmpltS d a b s
  | .fcmpleS d a b => Sys2Proof.Machine.execFcmpleS d a b s
  | .fsgnjS d a b => Sys2Proof.Machine.execFsgnjS d a b s
  | .fsgnjnS d a b => Sys2Proof.Machine.execFsgnjnS d a b s
  | .fsgnjxS d a b => Sys2Proof.Machine.execFsgnjxS d a b s
  | .fclassS d a => Sys2Proof.Machine.execFclassS d a s
  | .frcpS d a r => Sys2Proof.Machine.execFrcpS d a r s
  | .frsqS d a r => Sys2Proof.Machine.execFrsqS d a r s
  | .fmaD d a b r => Sys2Proof.Machine.execFmaD d a b r s
  | .fmsD d a b r => Sys2Proof.Machine.execFmsD d a b r s
  | .fnmaD d a b r => Sys2Proof.Machine.execFnmaD d a b r s
  | .fnmsD d a b r => Sys2Proof.Machine.execFnmsD d a b r s
  | .fmaS d a b r => Sys2Proof.Machine.execFmaS d a b r s
  | .fmsS d a b r => Sys2Proof.Machine.execFmsS d a b r s
  | .fnmaS d a b r => Sys2Proof.Machine.execFnmaS d a b r s
  | .fnmsS d a b r => Sys2Proof.Machine.execFnmsS d a b r s
  | .fcvt d a r f t => Sys2Proof.Machine.execFcvt d a r f t s
  | .fmt a b c r t s0 n => Sys2Proof.Machine.execFmt a b c r t s0 n s
  | .cbld n b i0 => Sys2Proof.Machine.execCbld n b i0 s
  | .scset n a => Sys2Proof.Machine.execScset n a s
  | .scget d n => Sys2Proof.Machine.execScget d n s
  | .vadd d a b m s0 => Sys2Proof.Machine.execVadd d a b m s0 s
  | .vsub d a b m s0 => Sys2Proof.Machine.execVsub d a b m s0 s
  | .vmul d a b m s0 => Sys2Proof.Machine.execVmul d a b m s0 s
  | .vmin d a b m s0 => Sys2Proof.Machine.execVmin d a b m s0 s
  | .vmax d a b m s0 => Sys2Proof.Machine.execVmax d a b m s0 s
  | .vand d a b m s0 => Sys2Proof.Machine.execVand d a b m s0 s
  | .vor d a b m s0 => Sys2Proof.Machine.execVor d a b m s0 s
  | .vxor d a b m s0 => Sys2Proof.Machine.execVxor d a b m s0 s
  | .vandn d a b m s0 => Sys2Proof.Machine.execVandn d a b m s0 s
  | .vshl d a b m s0 => Sys2Proof.Machine.execVshl d a b m s0 s
  | .vshr d a b m s0 => Sys2Proof.Machine.execVshr d a b m s0 s
  | .vsra d a b m s0 => Sys2Proof.Machine.execVsra d a b m s0 s
  | .vabs d a m s0 => Sys2Proof.Machine.execVabs d a m s0 s
  | .vneg d a m s0 => Sys2Proof.Machine.execVneg d a m s0 s
  | .vsel d a b m s0 => Sys2Proof.Machine.execVsel d a b m s0 s
  | .vmov d a m s0 => Sys2Proof.Machine.execVmov d a m s0 s
  | .vmulh d a b m s0 => Sys2Proof.Machine.execVmulh d a b m s0 s
  | .vadds d a b m s0 => Sys2Proof.Machine.execVadds d a b m s0 s
  | .vsubs d a b m s0 => Sys2Proof.Machine.execVsubs d a b m s0 s
  | .vfma d a b m s0 r => Sys2Proof.Machine.execVfma d a b m s0 r s
  | .vfms d a b m s0 r => Sys2Proof.Machine.execVfms d a b m s0 r s
  | .vfnma d a b m s0 r => Sys2Proof.Machine.execVfnma d a b m s0 r s
  | .vfnms d a b m s0 r => Sys2Proof.Machine.execVfnms d a b m s0 r s
  | .vcmp n a b m s0 c => Sys2Proof.Machine.execVcmp n a b m s0 c s
  | .vredadd d a m s0 => Sys2Proof.Machine.execVredadd d a m s0 s
  | .vredmin d a m s0 => Sys2Proof.Machine.execVredmin d a m s0 s
  | .vredmax d a m s0 => Sys2Proof.Machine.execVredmax d a m s0 s
  | .vredamax d a m s0 => Sys2Proof.Machine.execVredamax d a m s0 s
  | .vredor d a m s0 => Sys2Proof.Machine.execVredor d a m s0 s
  | .vredand d a m s0 => Sys2Proof.Machine.execVredand d a m s0 s
  | .vbcast d s0 z => Sys2Proof.Machine.execVbcast d s0 z s
  | .vins d s0 i0 z => Sys2Proof.Machine.execVins d s0 i0 z s
  | .vextr d s0 i0 z => Sys2Proof.Machine.execVextr d s0 i0 z s
  | .vperm d a b s0 => Sys2Proof.Machine.execVperm d a b s0 s
  | .vslideup d a b s0 => Sys2Proof.Machine.execVslideup d a b s0 s
  | .vslidedn d a b s0 => Sys2Proof.Machine.execVslidedn d a b s0 s
  | .vzip d a b s0 => Sys2Proof.Machine.execVzip d a b s0 s
  | .vunzip d a b s0 => Sys2Proof.Machine.execVunzip d a b s0 s
  | .viota d s0 => Sys2Proof.Machine.execViota d s0 s
  | .vcvt d a u t => Sys2Proof.Machine.execVcvt d a u t s
  | .vcvtLo d a u t => Sys2Proof.Machine.execVcvtLo d a u t s
  | .vcvtHi d a u t => Sys2Proof.Machine.execVcvtHi d a u t s
  | .vcvtNarrow d a b u t => Sys2Proof.Machine.execVcvtNarrow d a b u t s
  | .vpack d a p => Sys2Proof.Machine.execVpack d a p s
  | .vunpkLo d a => Sys2Proof.Machine.execVunpkLo d a s
  | .vunpkHi d a => Sys2Proof.Machine.execVunpkHi d a s
  | .vdeq d a p => Sys2Proof.Machine.execVdeq d a p s
  | .vscale d a => Sys2Proof.Machine.execVscale d a s
  | .vqnt d a b p => Sys2Proof.Machine.execVqnt d a b p s
  | .vrcp d a m s0 => Sys2Proof.Machine.execVrcp d a m s0 s
  | .vrsq d a m s0 => Sys2Proof.Machine.execVrsq d a m s0 s
  | .vexp2 d a m s0 => Sys2Proof.Machine.execVexp2 d a m s0 s
  | .vlog2 d a m s0 => Sys2Proof.Machine.execVlog2 d a m s0 s
  | .vld d s0 o m => Sys2Proof.Machine.execVld d s0 o m s
  | .vst d s0 o m => Sys2Proof.Machine.execVst d s0 o m s
  | .vlds d s0 i0 z m => Sys2Proof.Machine.execVlds d s0 i0 z m s
  | .vsts d s0 i0 z m => Sys2Proof.Machine.execVsts d s0 i0 z m s
  | .vgath d s0 x z m => Sys2Proof.Machine.execVgath d s0 x z m s
  | .vscat d s0 x z m => Sys2Proof.Machine.execVscat d s0 x z m s
  | .vldt d t r c => Sys2Proof.Machine.execVldt d t r c s
  | .vstt d t r c => Sys2Proof.Machine.execVstt d t r c s
  | .rep n c s0 f => Sys2Proof.Machine.execRep n c s0 f s
  | .tset t a b => Sys2Proof.Machine.execTset t a b s
  | .tstate d t s0 => Sys2Proof.Machine.execTstate d t s0 s
  | .tdrain d t => Sys2Proof.Machine.execTdrain d t s
  | .tfree t => Sys2Proof.Machine.execTfree t s
  | .twait t => Sys2Proof.Machine.execTwait t s
  | .rget t a b => Sys2Proof.Machine.execRget t a b s
  | .rput t a b => Sys2Proof.Machine.execRput t a b s
  | .rcopy d a => Sys2Proof.Machine.execRcopy d a s
  | .rred d a => Sys2Proof.Machine.execRred d a s
  | .rgath t a b => Sys2Proof.Machine.execRgath t a b s
  | .rscat t a b => Sys2Proof.Machine.execRscat t a b s
  | .rmcast d a => Sys2Proof.Machine.execRmcast d a s
  | .rstat d => Sys2Proof.Machine.execRstat d s
  | .rctx d a b => Sys2Proof.Machine.execRctx d a b s
  | .lbld s0 t => Sys2Proof.Machine.execLbld s0 t s
  | .lswap => Sys2Proof.Machine.execLswap s
  | .lmm r e s0 c => Sys2Proof.Machine.execLmm r e s0 c s
  | .lzero r m => Sys2Proof.Machine.execLzero r m s
  | .ldrn r s0 => Sys2Proof.Machine.execLdrn r s0 s
  | .lpri p w => Sys2Proof.Machine.execLpri p w s
  | .lstat d => Sys2Proof.Machine.execLstat d s
  | .lfence => Sys2Proof.Machine.execLfence s
  | .start d a => Sys2Proof.Machine.execStart d a s
  | .hwait a => Sys2Proof.Machine.execHwait a s
  | .endTask => Sys2Proof.Machine.execEndTask s
  | .sleep d a => Sys2Proof.Machine.execSleep d a s
  | .selfId d => Sys2Proof.Machine.execSelfId d s
  | .sendMsg d a b => Sys2Proof.Machine.execSendMsg d a b s
  | .senda a b => Sys2Proof.Machine.execSenda a b s
  | .forkT a b => Sys2Proof.Machine.execForkT a b s
  | .joinT a b => Sys2Proof.Machine.execJoinT a b s
  | .doneB a => Sys2Proof.Machine.execDoneB a s
  | .launchI d a => Sys2Proof.Machine.execLaunchI d a s
  | .tlwait d a b s0 => Sys2Proof.Machine.execTlwait d a b s0 s
  | .tlsig a b s0 => Sys2Proof.Machine.execTlsig a b s0 s
  | .migrate d => Sys2Proof.Machine.execMigrate d s
  | .gcall d a b => Sys2Proof.Machine.execGcall d a b s
  | .gret a => Sys2Proof.Machine.execGret a s
  | .gpub d a => Sys2Proof.Machine.execGpub d a s
  | .grevoke d a => Sys2Proof.Machine.execGrevoke d a s
  | .grevokeKill d a b => Sys2Proof.Machine.execGrevokeKill d a b s
  | .ginfo d a b => Sys2Proof.Machine.execGinfo d a b s
  | .domid d a => Sys2Proof.Machine.execDomid d a s
  | .kact d a => Sys2Proof.Machine.execKact d a s
  | .kdeact d a => Sys2Proof.Machine.execKdeact d a s
  | .scrub d a b => Sys2Proof.Machine.execScrub d a b s
  | .egset d a b => Sys2Proof.Machine.execEgset d a b s
  | .compose d a => Sys2Proof.Machine.execCompose d a s
  | .decomp d => Sys2Proof.Machine.execDecomp d s
  | .timeI d a => Sys2Proof.Machine.execTimeI d a s
  | .dlread d a => Sys2Proof.Machine.execDlread d a s
  | .pvalid a b => Sys2Proof.Machine.execPvalid a b s
  | .wrapdone => Sys2Proof.Machine.execWrapdone s
  | .trapI c => Sys2Proof.Machine.execTrapI c s
  | .breakI c => Sys2Proof.Machine.execBreakI c s
  | .eret a => Sys2Proof.Machine.execEret a s
  | .csrr d n => Sys2Proof.Machine.execCsrr d n s
  | .csrw s0 n => Sys2Proof.Machine.execCsrw s0 n s
  | .csrs s0 n => Sys2Proof.Machine.execCsrs s0 n s
  | .csrc s0 n => Sys2Proof.Machine.execCsrc s0 n s
  | .tlbinv a b => Sys2Proof.Machine.execTlbinv a b s
  | .tlbsync => Sys2Proof.Machine.execTlbsync s
  | .wfi => Sys2Proof.Machine.execWfi s
  | .potw d a b => Sys2Proof.Machine.execPotw d a b s
  | .ctxsave d a b => Sys2Proof.Machine.execCtxsave d a b s
  | .ctxload d a b => Sys2Proof.Machine.execCtxload d a b s
  | .fdivD d a b => Sys2Proof.Machine.execFdivD d a b s
  | .fsqrtD d a => Sys2Proof.Machine.execFsqrtD d a s
  | .fdivS d a b => Sys2Proof.Machine.execFdivS d a b s
  | .fsqrtS d a => Sys2Proof.Machine.execFsqrtS d a s
  | .mul128 d a b => Sys2Proof.Machine.execMul128 d a b s
  | .clmul d a b => Sys2Proof.Machine.execClmul d a b s
  | .submissionDoorbell fn q tail => Sys2Proof.Machine.execSubmissionDoorbell fn q tail s
  | .launchAdmission die => Sys2Proof.Machine.execLaunchAdmission die s
  | .leafStart launch leaf => Sys2Proof.Machine.execLeafStart launch leaf s
  | .taskDispatch core => Sys2Proof.Machine.execTaskDispatch core s
  | .messageArrival index => Sys2Proof.Machine.execMessageArrival index s
  | .barrierPhaseRelease flight ctr => Sys2Proof.Machine.execBarrierPhaseRelease flight ctr s
  | .launchEnd launch => Sys2Proof.Machine.execLaunchEnd launch s
  | .engineBeat flight engine => Sys2Proof.Machine.execEngineBeat flight engine s
  | .engineCommandCompletion core => Sys2Proof.Machine.execEngineCommandCompletion core s
  | .kStepBoundary octet => Sys2Proof.Machine.execKStepBoundary octet s
  | .lbldStart core => Sys2Proof.Machine.execLbldStart core s
  | .lbldCompletion core => Sys2Proof.Machine.execLbldCompletion core s
  | .ldrnCompletion core => Sys2Proof.Machine.execLdrnCompletion core s
  | .ldrnStart core => Sys2Proof.Machine.execLdrnStart core s
  | .lzeroStart core => Sys2Proof.Machine.execLzeroStart core s
  | .lswapExchange core => Sys2Proof.Machine.execLswapExchange core s
  | .lstatStart core => Sys2Proof.Machine.execLstatStart core s
  | .deadlineExpiry launch => Sys2Proof.Machine.execDeadlineExpiry launch s
  | .wrapUpBudgetOverrun ctx => Sys2Proof.Machine.execWrapUpBudgetOverrun ctx s
  | .gateBudgetOverrun ctx depth => Sys2Proof.Machine.execGateBudgetOverrun ctx depth s
  | .cleanupBudgetOverrun ctx => Sys2Proof.Machine.execCleanupBudgetOverrun ctx s
  | .gateWrapUpOverrun ctx => Sys2Proof.Machine.execGateWrapUpOverrun ctx s
  | .watchdogExpiry ctx => Sys2Proof.Machine.execWatchdogExpiry ctx s
  | .allasleepTrap launch => Sys2Proof.Machine.execAllasleepTrap launch s
  | .sleepTimeLimit ctx => Sys2Proof.Machine.execSleepTimeLimit ctx s
  | .pauseExpiry ctx => Sys2Proof.Machine.execPauseExpiry ctx s
  | .handlerStart flight => Sys2Proof.Machine.execHandlerStart flight s
  | .impreciseFaultStop ctx => Sys2Proof.Machine.execImpreciseFaultStop ctx s
  | .taskSuspension ctx => Sys2Proof.Machine.execTaskSuspension ctx s
  | .colourCutClose part => Sys2Proof.Machine.execColourCutClose part s
  | .flightSaveComplete flight => Sys2Proof.Machine.execFlightSaveComplete flight s
  | .flightRestoreComplete flight => Sys2Proof.Machine.execFlightRestoreComplete flight s
  | .timeSliceStart part => Sys2Proof.Machine.execTimeSliceStart part s
  | .timeSliceEnd part => Sys2Proof.Machine.execTimeSliceEnd part s
  | .awaitLoadTimeout core => Sys2Proof.Machine.execAwaitLoadTimeout core s
  | .sendForwardingExpiry core => Sys2Proof.Machine.execSendForwardingExpiry core s
  | .invalidationAcknowledge agent => Sys2Proof.Machine.execInvalidationAcknowledge agent s
  | .atsInvalidationCompletion => Sys2Proof.Machine.execAtsInvalidationCompletion s
  | .timelineWake ctx value status => Sys2Proof.Machine.execTimelineWake ctx value status s
  | .remoteAtomic chip addr op value => Sys2Proof.Machine.execRemoteAtomic chip addr op value s
  | .apertureAccess fn addr acc => Sys2Proof.Machine.execApertureAccess fn addr acc s
  | .apertureAtomicop fn addr op => Sys2Proof.Machine.execApertureAtomicop fn addr op s
  | .apertureDomainWrite fn value => Sys2Proof.Machine.execApertureDomainWrite fn value s
  | .partitionEnable part => Sys2Proof.Machine.execPartitionEnable part s
  | .partitionDisable part => Sys2Proof.Machine.execPartitionDisable part s
  | .moveOffer block pair => Sys2Proof.Machine.execMoveOffer block pair s
  | .moveCancel => Sys2Proof.Machine.execMoveCancel s
  | .removalAcknowledge fn => Sys2Proof.Machine.execRemovalAcknowledge fn s
  | .scrubbingComplete => Sys2Proof.Machine.execScrubbingComplete s
  | .registerWrite fn offset value => Sys2Proof.Machine.execRegisterWrite fn offset value s
  | .hotReset => Sys2Proof.Machine.execHotReset s
  | .packageReset => Sys2Proof.Machine.execPackageReset s
  | .powerOnBoot boot => Sys2Proof.Machine.execPowerOnBoot boot s
  | .firmwareUpdate version verified => Sys2Proof.Machine.execFirmwareUpdate version verified s
  | .thermalTrip => Sys2Proof.Machine.execThermalTrip s
  | .throttleStep up => Sys2Proof.Machine.execThrottleStep up s
  | .ptpSynchronisation die time offset => Sys2Proof.Machine.execPtpSynchronisation die time offset s
  | .holdover die => Sys2Proof.Machine.execHoldover die s
  | .flitReceive port flit room => Sys2Proof.Machine.execFlitReceive port flit room s
  | .negativeAcknowledge port expected => Sys2Proof.Machine.execNegativeAcknowledge port expected s
  | .portRetrain port passing => Sys2Proof.Machine.execPortRetrain port passing s
  | .attestationRequest dom nonce => Sys2Proof.Machine.execAttestationRequest dom nonce s
  | .ill bits => Sys2Proof.Machine.execIll bits s
  | .egressBucketRefill dom cls micros => Sys2Proof.Machine.execEgressBucketRefill dom cls micros s
  | .queueEnable fn q => Sys2Proof.Machine.execQueueEnable fn q s
  | .debugAttach port target => Sys2Proof.Machine.execDebugAttach port target s
  | .logCheckpointRequest die => Sys2Proof.Machine.execLogCheckpointRequest die s
  | .remoteAccess chip addr acc => Sys2Proof.Machine.execRemoteAccess chip addr acc s

end Sys2Proof.Machine
end

