-- ==== Sys2Proof/Machine/Streams.lean ====
section
/-!
DEFINITION. The vector stream behind the scalar stream (R41, R46, R47): an instruction that it has not executed is executed
as at its place in program order once every older one is complete.
-/
noncomputable section
namespace Sys2Proof.Machine

/-- A context as it stands at the place in program order of the oldest instruction that its vector stream has not executed. The
v and m files are the vector stream's alone, and room in q2 and q3 is what the queues hold now (R41). -/
def Ctx.atPlace (c : Ctx) (l : Later) : Ctx :=
  { c with
    st := l.st, pc := l.pc, fmt := l.fmt, rep := l.rep, vs := [],
    r := { l.r with v := c.r.v, m := c.r.m, q2 := c.r.q2, q3 := c.r.q3 },
    c := { c.c with psw := l.psw, ret := l.ret, sr := l.sr } }

/-- The instruction has been executed, which made the context at its place d: its results join what the scalar stream has done
since, here and at the places of the younger instructions, with the flags that it has raised (R46). -/
def Ctx.joined (c d : Ctx) (v : Behind) (l : Later) (rest : List Behind) : Ctx :=
  let new := d.c.psw &&& ~~~ l.psw
  let drawn := d.c.sr != l.sr
  let n0 := l.r.q0.length - d.r.q0.length
  let n1 := l.r.q1.length - d.r.q1.length
  let p2 := d.r.q2.drop c.r.q2.length
  let p3 := d.r.q3.drop c.r.q3.length
  let younger := Behind.onLater fun x =>
    { x with
      psw := x.psw ||| new, sr := if drawn then d.c.sr else x.sr,
      r := { x.r with q0 := x.r.q0.drop n0, q1 := x.r.q1.drop n1, q2 := x.r.q2 ++ p2, q3 := x.r.q3 ++ p3 } }
  { d with
    st := c.st, pc := c.pc, fmt := c.fmt, rep := c.rep, since := c.since,
    r := { c.r with v := d.r.v, m := d.r.m, q0 := c.r.q0.drop n0, q1 := c.r.q1.drop n1, q2 := d.r.q2, q3 := d.r.q3 },
    c := { d.c with psw := c.c.psw ||| new, ret := c.c.ret, sr := if drawn then d.c.sr else c.c.sr },
    vs := d.vs.map (fun x => { x with age := v.age }) ++ rest.map younger }

/-- A launch's count of retired instructions is what it was in s and k more, though never more than its deadline value (R402,
R423). -/
def State.recount (t s : State) (n k : Nat) : State :=
  match s.launch? n with
  | none => t
  | some x => t.onLaunch n fun l =>
    { l with counter := if x.counting then max x.counter (min x.deadline (x.counter + k)) else x.counter }

/-- Whether a launch's deadline value leaves no room for k more retired instructions (R423). -/
def State.tooMany (s : State) (n k : Nat) : Bool := (s.launch? n).any fun l => l.counting && l.deadline < l.counter + k

/-- The retired-instruction number of the oldest instruction that has not been executed, or of the next one to issue. -/
def nextRet (rest : List Behind) (c : Ctx) : Word := (((rest.filterMap (·.later)).head?).map (·.ret)).getD c.c.ret

/-- The oldest instruction of a vector stream is executed (R41, R46). Where it must still wait, it stays. Where it raises a
cause, every younger instruction of either stream is without effect: the context stands as at its place. So it does where it has
stored to words of w registers in its own workspace, which every later instruction reads (R34), and where the deadline value of
its launch comes before what had issued after it (R423); that is done again, and nothing of it had left the registers (R46). -/
def State.execLater (s : State) (k : Nat) (v : Behind) (l : Later) (rest : List Behind) : State :=
  let c := s.ctx k
  match exec l.ins ({ s.focus k with me := c.atPlace l }) with
  | .next u =>
    let t := u.focus s.cur
    let d := t.ctx k
    if !d.live || d.c.serial != c.c.serial then t
    else if d.c.ret == l.ret + 1 then
      match (d.vs.filterMap (·.later)).head? with
      | some x => { t with launches := s.launches }.setCtx k { c with vs := { v with later := some { l with st := x.st } } :: rest }
      | none =>
        let n := (nextRet rest c - l.ret).toNat
        if d.r.w == l.r.w && !(l.risky && s.tooMany c.t.launch n) then (t.recount s c.t.launch n).setCtx k (c.joined d v l rest)
        else (t.recount s c.t.launch 1).setCtx k { d with r := { d.r with q2 := l.r.q2, q3 := l.r.q3 } }
    else (t.recount s c.t.launch 0).setCtx k { d with r := { d.r with q2 := l.r.q2, q3 := l.r.q3 }, vs := [] }
  | _ => s

/-- The vector stream of a context goes on as far as it can: pushes, the entry of loft commands, and the instructions that it
has not executed, in order (R41, R46, R213). -/
def State.vectorOn (s : State) (k : Nat) : Nat → State
  | 0 => s
  | n + 1 =>
    let t := s.streamOn k ((s.ctx k).vs.length + 1)
    match (t.ctx k).vs with
    | [] => t
    | v :: rest => match v.later with
      | none => t
      | some l =>
        let u := t.execLater k v l rest
        if (u.ctx k).vs.length ≤ rest.length then u.vectorOn k n else u

/-- Every vector stream goes on, but those of tasks that are suspended or about to stop. -/
def State.vectorsOn (s : State) : State :=
  (s.allCtxs.filter fun p => p.2.live && !p.2.vs.isEmpty && p.2.st != .waiting .suspended && p.2.st != .waiting .fatal).foldl
    (fun s p => (s.vectorOn p.1 (p.2.vs.length + 1)).regsOut p.1) s

end Sys2Proof.Machine
end
end

