-- ==== Sys2Proof/Machine/Schedule.lean ====
section
/-!
DEFINITION. The order of the machine's steps (log 2): in each cycle every core gives one context its turn (R28, R334),
and then the cycle ends: time and budgets advance, and the events that are due enter the agenda, which the next steps
work off.
-/
noncomputable section
namespace Sys2Proof.Machine

/-- What follows a step that goes on. -/
def Out.map (o : Out) (f : State → State) : Out :=
  match o with
  | .next s => .next (f s)
  | .fault e => .fault e
  | .refused r => .refused r

/-- Whether a row of the table is an event: it has no encoding. -/
def isEvent (i : Instr) : Bool := (encode i).isNone

/-! ### Rotation (R27, R28, R334) -/

/-- Whether a context may take a turn: it holds a task that is neither HELD nor in a wait that an event ends. -/
def Ctx.runnable (c : Ctx) : Bool :=
  match c.st with
  | .free | .held => false
  | .waiting .fatal | .waiting .suspended | .waiting (.pause (some _)) => false
  | .waiting .tlwaitRemote => c.wokeBy.isSome
  | _ => true

/-- The number of the core of a context among all cores: small cores first. -/
def unitOf (k : Nat) : Nat := if isG k then 8192 + coreOf k else coreOf k

/-- The context whose turn is next on the core of a context. -/
def State.turnOf (s : State) (k : Nat) : Nat := if isG k then (s.gcore (coreOf k)).turn else (s.core (coreOf k)).turn

/-- The place of a context in the round of turns: by core, then in rotation from the context whose turn is next. -/
def State.rank (s : State) (k : Nat) : Nat :=
  let n := if isG k then 4 else 11
  16 * unitOf k + (numOf k + n - s.turnOf k % n) % n

/-- Of the contexts that may take a turn at rank r or later, the first: its rank and its key. -/
def State.firstTurn (s : State) (r : Nat) : List (Nat × Ctx) → Option (Nat × Nat)
  | [] => none
  | (k, c) :: l =>
    let rest := s.firstTurn r l
    if c.runnable && r ≤ s.rank k then
      match rest with
      | none => some (s.rank k, k)
      | some (q, j) => if s.rank k < q then some (s.rank k, k) else some (q, j)
    else rest

/-- The context that takes its turn next in this cycle. -/
def State.nextCtx (s : State) : Option (Nat × Nat) := s.firstTurn s.rot s.allCtxs

/-- Whether a turn came to nothing: the context still waits for its instruction. -/
def waited (a b : Ctx) : Bool :=
  a.c.ret == b.c.ret && match b.st with
    | .waiting _ => true
    | _ => false

/-- After a turn: where the instruction waits, the core gives its slot to the next context in rotation; else the slot is
used, and rotation goes on from the context after it. What it wrote to its registers stands in the workspace (R32). -/
def State.turned (k rank : Nat) (before : Ctx) (s : State) : State :=
  let s := s.regsOut k
  if waited before (s.ctx k) then { s with rot := rank + 1 }
  else
    let s := { s with rot := 16 * (unitOf k + 1) }
    if isG k then s.setGcore (coreOf k) { s.gcore (coreOf k) with turn := (numOf k + 1) % 4 }
    else s.onCore (coreOf k) fun x => { x with turn := (numOf k + 1) % 11 }

/-! ### Issue (R60, R74, R76, R179) -/

/-- A precise cause that comes of the bits at the PC, or of their absence, before any instruction is known. -/
def State.raiseBits (s : State) (c : Cause) (tval : Word) (bits : Nat) : State :=
  match s.behind with
  | some w => s.waiting w
  | none =>
    let s := if s.me.wasAsleep then s.noteWoke s.me.t.launch (ctxFlight s.cur) else s
    s.takeTrap c tval s.me.pc s.me.pc bits 0

/-- A fatal cause of a fetch (R371, R457). -/
def State.fetchFatal (s : State) (c : Cause) (tval : Word) (key : Nat) (owner : Dom) : State :=
  if c == .macFail && s.myLogFull then s.waiting .log else (s.logMac c key owner).imprecise s.cur c tval

/-- The length in bytes that the bits of a fetch show (R60). -/
def fetchLen (w : Nat) : Nat := if w % 2 == 0 then 2 else 4

/-- The instruction that bits stand for in the issuing context: rotated in a REP body (R179). -/
def Ctx.instr (c : Ctx) (i : Instr) : Instr :=
  match c.rep with
  | none => i
  | some r => rotate r i

/-- The decoder's answer is executed: an encoding with a reserved field is ENC, and UND where its row is unavailable, or
is FMT or REP in a REP body (R72, R74, R76). -/
def State.execDecoded (s : State) (w : Nat) : Decoded → Out
  | .ok i => exec (s.me.instr i) s
  | .enc g =>
    let inBody := s.me.rep.isSome && fetchLen w == 4 && (w / 2 % 128 == 0x45 || w / 2 % 128 == 0x60)
    .next (s.raiseBits (if s.unavailable g || inBody then .und else .enc) (BitVec.ofNat 64 w) w)

/-- The issuing context fetches its next instruction and executes it. DESIGN CHOICE (log 54): each pass of a REP fetches its
body anew, and the set of R178 is checked before pass 0 alone. -/
def State.issueNext (s : State) : Out :=
  match s.fetch with
  | .trap c a => .next (s.raiseBits c a 0)
  | .fatal c a k o => .next (s.fetchFatal c a k o)
  | .bits w =>
    match s.fetchSent (fetchLen w) with
    | none => .next (s.waiting .send)
    | some t => (t.keepTlbs t.who .fetch t.me.pc (fetchLen w)).execDecoded w (decodeFetched w)

/-! ### The turn of a context -/

/-- The frame of a context, by its depth, that has used up its budget: the outermost. -/
def Ctx.overDepth (c : Ctx) : Option Nat := ((List.range c.frames.length).map (· + 1)).find? c.budgetOver

/-- Whether the issuing context has passed so many instructions that have not retired that the next one would not retire
before its launch's deadline (R423): it waits for those that the vector stream can still execute without it. -/
def State.outran (s : State) : Bool :=
  let c := s.me
  c.lags && !s.lstatBlocks s.cur c.r && (s.launch? c.t.launch).any fun l => l.counting && l.deadline ≤ l.counter + c.passed

/-- What comes before the next instruction of the issuing context, if anything does: an expiry of its launch, the slot that
PAUSE 0 gives up (R323), a diversion that a trap or a wait had held back or that older instructions hold back, an unwind, the
stores of a discarded window, a budget that is used up, a deadline that it would pass. -/
def State.before (s : State) : Option Out :=
  let k := s.cur
  let c := s.me
  let n := c.t.launch
  if (s.launch? n).any (s.expiryDue n) then some (execDeadlineExpiry n s)
  else if c.st == .waiting (.pause none) then some (.next { s with me := { c with st := .ready }, rot := s.rank k + 1 })
  else if s.divertDue k then some (.next (s.divertLate k))
  else if c.unwindDue then some (.next (s.runUnwind k 40))
  else if c.t.divPending && c.unwind.isEmpty then some (.next { s with rot := s.rank k + 1 })
  else if !c.zeroing.isEmpty then
    let t := s.zeroStep k c.zeroing.length
    some (.next (if (t.ctx k).zeroing.length < c.zeroing.length then t else { t with rot := s.rank k + 1 }))
  else if c.wrapOver then some (execWrapUpBudgetOverrun k s)
  else match c.overDepth with
    | some d => some (execGateBudgetOverrun k d s)
    | none =>
      if c.frames.any Frame.cleanupOver then some (execCleanupBudgetOverrun k s)
      else if c.frames.any Frame.wrapupOver then some (execGateWrapUpOverrun k s)
      else if s.outran then some (.next { s with rot := s.rank k + 1 })
      else none

/-- The turn of the issuing context, at a rank of the round. -/
def State.turn (s : State) (rank : Nat) : Out :=
  match s.before with
  | some o => o
  | none => Out.map s.issueNext (State.turned s.cur rank s.me)

/-! ### The end of a cycle: time and budgets (R361, R421, R425, R468, R500) -/

/-- The units of 1/15135120 ns in a nanosecond, and in a cycle at a clock in sixteenths of 1.05 GHz. -/
def nsUnits : Nat := 15135120
def cycleUnits (clock : Nat) : Nat := 230630400 / clock

/-- One cycle of a die's time (R421): a correction is slewed 1 ns in 5250 cycles, which are 5000 ns or more, and never makes
the time run back. -/
def Die.tick (d : Die) (clock cycle : Nat) : Die :=
  let f := d.frac + cycleUnits clock
  let n := f / nsUnits
  let d := { d with time := d.time + n, frac := f % nsUnits }
  if cycle % 5250 != 0 then d
  else if d.holdover then
    -- the last disciplined rate goes on (R421)
    if d.rate < 0 && n == 0 then d else { d with time := (d.time + d.rate).toNat }
  else if 0 < d.slew then { d with time := d.time + 1, slew := d.slew - 1 }
  else if d.slew < 0 && 1 ≤ n then { d with time := d.time - 1, slew := d.slew + 1 }
  else d

def Frame.tick (f : Frame) : Frame :=
  { f with budget := f.budget - 1, endLeft := if f.cleanup || f.wrapup then f.endLeft - 1 else f.endLeft }

/-- One cycle of a context that holds a task. -/
def Ctx.tick (c : Ctx) : Ctx :=
  if c.live then
    { c with
      c := { c.c with cyc := c.c.cyc + 1 },
      frames := c.frames.map Frame.tick,
      t := { c.t with
        wrapLeft := c.t.wrapLeft.map (· - 1),
        watch := if c.st == .waiting .suspended then c.t.watch else c.t.watch.map (· - 1) } }
  else c

/-! ### The events that are due -/

/-- Launches of a state by number. -/
def State.launchNos (s : State) : List Nat := s.launches.map (·.1)

/-- Events of launches and contexts that time and faults bring about. -/
def State.dueTime (s : State) : List Instr :=
  let l := s.allCtxs
  let ctx := fun (p : Nat → Ctx → Bool) (f : Nat → Instr) =>
    (l.filter fun q => q.2.live && p q.1 q.2).map fun q => f q.1
  ctx (fun _ c => c.st == .waiting .fatal && c.imp.isSome) .impreciseFaultStop ++
  (s.launches.filter fun p => s.expiryDue p.1 p.2).map (fun p => .deadlineExpiry p.1) ++
  ctx (fun _ c => c.wrapOver) .wrapUpBudgetOverrun ++
  l.flatMap (fun q => (((List.range q.2.frames.length).map (· + 1)).filter q.2.budgetOver).map fun d =>
    Instr.gateBudgetOverrun q.1 d) ++
  ctx (fun _ c => c.frames.any Frame.cleanupOver) .cleanupBudgetOverrun ++
  ctx (fun _ c => c.frames.any Frame.wrapupOver) .gateWrapUpOverrun ++
  ctx (fun _ c => c.t.watch == some 0) .watchdogExpiry ++
  ctx (fun _ c => match c.st with
    | .waiting (.sleep (some t)) => t ≤ s.cycle
    | _ => false) .sleepTimeLimit ++
  ctx (fun _ c => match c.st with
    | .waiting (.pause (some t)) => t ≤ s.cycle
    | _ => false) .pauseExpiry

/-- The suspensions that are due: a task that has just retired a PAUSE among them, before the PAUSE is over (R467). -/
def State.dueStops (s : State) : List Instr :=
  (s.allCtxs.filter fun p => s.stopAsked p.1 && s.atBoundary p.1).map fun p => Instr.taskSuspension p.1

/-- Events of pre-emption and of the movement of cores. -/
def State.dueSaves (s : State) : List Instr :=
  (((s.flights.filter fun p => p.2.cutting).map fun p => p.2.part.getD 0).eraseDups.filter s.cutReady).map
    Instr.colourCutClose ++
  s.flights.flatMap (fun p => match p.2.st with
    | .saving => [Instr.flightSaveComplete p.1]
    | .restoring => [Instr.flightRestoreComplete p.1]
    | _ => []) ++
  (s.parts.filter fun p => !(s.toStop p.1).isEmpty || (p.2.running && !s.sliceOn p.1)).map (fun p => Instr.timeSliceEnd p.1) ++
  (s.parts.filter fun p => p.2.enable && (!(s.toTake p.1).isEmpty || (s.sliceOn p.1 && !p.2.running))).map
    (fun p => Instr.timeSliceStart p.1) ++
  s.cores.flatMap (fun p =>
    (match p.2.awaitsLoad with
     | some (_, since) => if since + 2 ^ 26 ≤ s.cycle then [Instr.awaitLoadTimeout p.1] else []
     | none => []) ++
    (match p.2.forward with
     | some (_, til) => if til ≤ s.cycle then [Instr.sendForwardingExpiry p.1] else []
     | none => []))

/-- Whether one leaf start goes before another (R428): priority, slack, arrival, leaf number. -/
def State.leafBefore (s : State) (a b : Nat × Launch × Leaf) : Bool :=
  if a.2.1.prio != b.2.1.prio then b.2.1.prio.toNat < a.2.1.prio.toNat
  else
    let sa := s.slack a.1
    let sb := s.slack b.1
    if sa != sb then sa < sb
    else if a.2.1.seq != b.2.1.seq then a.2.1.seq < b.2.1.seq
    else if a.1 != b.1 then a.1 < b.1 else a.2.2.num < b.2.2.num

/-- An entry goes into a list that an order sorts. -/
def insertBy {α : Type} (before : α → α → Bool) (x : α) : List α → List α
  | [] => [x]
  | y :: l => if before x y then x :: y :: l else y :: insertBy before x l

/-- The leaves that can start, in the order of R428. -/
def State.dueLeaves (s : State) : List Instr :=
  let l := s.launches.flatMap fun p => (p.2.pending.filter (s.leafReady p.2)).map fun f => (p.1, p.2, f)
  (l.foldr (insertBy s.leafBefore) []).map fun q => Instr.leafStart q.1 q.2.2.num

/-- Events of the front ends, of messages and of barriers. -/
def State.dueWork (s : State) : List Instr :=
  ((List.range 4).filter fun d => !(s.cands d).isEmpty).map Instr.launchAdmission ++
  s.dueLeaves ++
  (List.range s.msgs.length).reverse.map Instr.messageArrival ++
  (s.cores.filter fun p => (s.dispatchCtx p.1).isSome && (s.pick p.1).isSome).map (fun p => Instr.taskDispatch p.1) ++
  s.flights.flatMap (fun p => (p.2.barriers.filter fun b => b.2.count == 0).map fun b =>
    Instr.barrierPhaseRelease p.1 b.1) ++
  (s.launches.filter fun p => p.2.ending.isSome || s.launchOver p.1 p.2).map (fun p => Instr.launchEnd p.1)

/-- The command that may start on a core. -/
def State.dueStart (s : State) (core : Nat) : List Instr :=
  match s.startable core with
  | none => []
  | some c => match c.op with
    | .lbld _ => [Instr.lbldStart core]
    | .ldrn _ => [Instr.ldrnStart core]
    | .lzero _ _ => [Instr.lzeroStart core]
    | .lswap => [Instr.lswapExchange core]
    | .lstat _ => [Instr.lstatStart core]
    | .lmm _ _ _ => []

/-- Started commands of a core whose time has passed. -/
def State.dueEnd (s : State) (core : Nat) : List Instr :=
  (s.core core).loftq.flatMap fun c =>
    if c.started && c.doneAt ≤ s.cycle then
      match c.op with
      | .lbld _ => [Instr.lbldCompletion core]
      | .ldrn _ => [Instr.ldrnCompletion core]
      | _ => []
    else []

/-- Events of the reel engines and the lofts: each engine moves at most one beat a cycle (R198). -/
def State.dueUnits (s : State) : List Instr :=
  let cores := s.cores.map (·.1)
  let engines := ((cores.filter s.engReady).map (· / 16)).eraseDups
  let octets := ((cores.filter fun c => !(s.core c).loftq.isEmpty).map octetOf ++
    (s.lofts.filter fun p => p.2.passEnd.isSome).map fun p => p.1).eraseDups
  (cores.filter fun c => s.engOn c && s.engDone c).map Instr.engineCommandCompletion ++
  engines.map (fun e => Instr.engineBeat (e / 2) (e % 2)) ++
  (octets.filter s.loftDue).map Instr.kStepBoundary ++
  cores.flatMap s.dueEnd ++ cores.flatMap s.dueStart

/-- Events of the service cores, and acknowledgements. -/
def State.dueService (s : State) : List Instr :=
  (s.flights.filter fun p => !p.2.supq.isEmpty && s.handlerFree p.1).map (fun p => Instr.handlerStart p.1) ++
  ((s.invals.flatMap (·.agents)).eraseDups.filter fun a => s.invals.any (s.mayAck a)).map Instr.invalidationAcknowledge

/-- Buckets gain their rate for each microsecond of die time that has passed (R379; die 0's, log 4). -/
def State.dueRefill (s : State) (micros : Nat) : List Instr :=
  if micros == 0 then []
  else (s.egress.filter (·.2.enable)).map fun p => Instr.egressBucketRefill (BitVec.ofNat 12 (p.1 / 4)) (BitVec.ofNat 2 p.1) micros

/-- Every event that is due. -/
def State.due (s : State) (micros : Nat) : List Instr :=
  s.dueStops ++ s.dueTime ++ s.dueSaves ++ s.dueWork ++ s.dueUnits ++ s.dueService ++ s.dueRefill micros

/-- Whether the instruction that a sleeping context waits at would go on at its next turn, its condition met meanwhile (R292). -/
def State.couldGoOn (s : State) (k : Nat) : Bool :=
  match (s.focus k).issueNext with
  | .next t => !waited (s.ctx k) (t.ctx k)
  | _ => true

/-- The launches that a sweep finds all asleep (R477): one sweep in 1024 cycles. -/
def State.sweep (s : State) : List Instr :=
  if s.cycle % 1024 == 0 then
    (s.launches.filter fun p => s.allAsleep p.1 p.2 && !(s.tasksOf p.1).any s.couldGoOn).map fun p => Instr.allasleepTrap p.1
  else []

/-- A sweep clears the woke bits that it passes (R477). -/
def State.swept (s : State) : State :=
  if s.cycle % 1024 == 0 then { s with launches := s.launches.map fun p => (p.1, { p.2 with woke := [] }) } else s

/-- Time, the counts of cycles and the budgets advance by a cycle. DESIGN CHOICE (log 59): the performance counter of a domain
counts the cycles that its tasks hold contexts. -/
def State.advance (s : State) : State :=
  let cycle := s.cycle + 1
  let busy := (s.allCtxs.filter (·.2.live)).map (·.2.c.dom.toNat)
  let dies := (List.range 4).map fun d => (d, (s.die d).tick s.clock cycle)
  { s with cycle := cycle, dies := dies, me := s.me.tick, ctxs := s.ctxs.map (fun p => (p.1, p.2.tick)), rot := 0,
           perf := busy.foldl (fun l d => put l d (find l d 0 + 1)) s.perf }

/-- Records that wait for room in a ring are made (R382). -/
def State.allLogsOn (s : State) : State := s.dies.foldl (fun s p => s.logsOn p.1 p.2.log.waiting) s

/-- A log writer that meets a bad line at its consumer index logs it, once (R371, R382). -/
def State.noteConsumers (s : State) : State :=
  s.dies.foldl (fun s p => match s.consumerBad p.1 with
    | some (c, key, owner) => if s.errLog.any (· == (key / 64, c)) then s else s.hwMac p.1 0 false 0xFFF c key owner
    | none => s) s

/-- What the units do by themselves at the end of a cycle: the cuts for which kills wait begin (R471), flights that have
stopped are SAVING (R466), what can complete of the vector streams does (R41, R213), replays that wait, records that wait,
the flits of ports that are down and the TLWAITs of other chips are tried again, and a save whose task has gone is over. -/
def State.settle (s : State) : State :=
  let s := s.killCuts
  let s := s.flights.foldl (fun s p => if p.2.st == .stopping then s.settleFlight p.1 else s) s
  let s := s.vectorsOn.replaysOn.noteConsumers.allLogsOn.portsOn.remoteWakes
  s.cores.foldl (fun s p => s.abandonSave p.1) s

/-- The cycle ends: what has come from outside enters the agenda first, then the events that are due. -/
def State.tick (s : State) : State :=
  let t := s.advance.settle
  let micros := (t.die 0).time / 1000 - (s.die 0).time / 1000
  let (now, later) := t.inputs.partition fun p => p.1 ≤ t.cycle
  let asleep := t.sweep
  let t := t.swept
  { t with agenda := (now.map (·.2)).filter isEvent ++ asleep ++ t.due micros, inputs := later }

end Sys2Proof.Machine
end
end

