-- ==== Sys2Proof/Machine/Step.lean ====
section
/-!
DEFINITION. The step: an event of the agenda, or a context's turn, or the end of the cycle (log 2); and how the host places
an instruction where the next step fetches it.
-/
noncomputable section
namespace Sys2Proof.Machine

/-- One step of the package. It stops for good once the package has stopped (R496, R499). -/
def step (s : State) : Host.Outcome State Fault Refusal :=
  match s.stopped with
  | some _ => .fault .packageStopped
  | none =>
    match s.agenda with
    | i :: rest => if isEvent i then exec i { s with agenda := rest } else .next { s with agenda := rest }
    | [] =>
      match s.nextCtx with
      | some (rank, k) => (s.focus k).turn rank
      | none => .next s.tick

/-- s with the instruction w as the first that context 0 of core 0 fetches, in a task of domain 0x000 with psw.S = 1 that no
launch started (log 6): the micro-kernel, to which its workspace belongs, has been started, the key of 0x000 is active, and the
core's TLB maps the page of address 0. -/
def State.withFetchWord (s : State) (nbits w : Nat) : State :=
  let base := s.chip.toNat * 2 ^ 46
  let map : TlbEntry :=
    { asid := 0, dom := 0, page := 0, pageSize := 2 ^ 19, frame := base, leaf := 7,
      units := [{ vbase := 0, pbase := base, own := 7, owner := 0, metered := false }] }
  let key : KeySlot := { dom := 0, key := 0, measurement := 0, measured := false, images := [] }
  let task := { Task.none with seen := s.past.length }
  let s := s.focus 0
  let t := { s with
    me := { Ctx.idle with st := .ready, c := { Csr.zero with psw := startPsw false false true, wp := localWindow 0x3A000 }, t := task },
    mem := Memory.setBytes s.mem base (natLe 4 (w % 2 ^ nbits)),
    keys := if (keyOf s.keys 0).isSome then s.keys else put s.keys 0 key,
    host := { s.host with enableWord := Config.enableWord }, sec := { s.sec with kernel := true }, agenda := [], rot := 0, stopped := none }
  t.onCore 0 fun x => { x with tlb := map :: x.tlb, used := 0 :: x.used, turn := 0 }

end Sys2Proof.Machine
end
end

