-- ==== Sys2Proof/Safety.lean ====
section
/-!
DEFINITION. The terms in which statements about the machine are made: when an instruction issues, what completing means,
what a frame leaves alone, and the results of instructions written as integers, apart from the definitions of Machine/.
-/
noncomputable section
namespace Sys2Proof.Safety
open Sys2Proof.Machine

/-! ### Issue and completion -/

/-- The issuing context issues i: none of UND, ENC and PRIV of R76 applies, the scalar stream is not 64 instructions ahead of an
incomplete vector-stream instruction, and nothing that the vector stream has yet to execute holds i back (R46, R47). -/
def issues (s : State) (i : Instr) : Prop := s.precheck i = none ∧ s.me.tooFar = false ∧ s.heldBack i = false

/-- i has retired in t, and the PC goes on after it. -/
def retires (i : Instr) (t : State) : Out := .next (t.retire false none (ilen i))

/-- i has retired in t, and the PC goes on at pc. -/
def jumps (i : Instr) (pc : Word) (t : State) : Out := .next (t.retire false (some pc) (ilen i))

/-- The control register psw.TR is clear: no trace BREAK follows (R461). -/
def quiet (s : State) : Prop := s.me.c.tr = false

/-- The GMATH opcode (R159). -/
def isGmath : Instr → Bool
  | .fdivD _ _ _ | .fsqrtD _ _ | .fdivS _ _ _ | .fsqrtS _ _ | .mul128 _ _ _ | .clmul _ _ _ => true
  | _ => false

/-! ### Invariants -/

/-- The contexts other than the issuing one stand in rising order of their keys, and its key is not among them. -/
def tidy (s : State) : Prop := (s.ctxs.map (·.1)).Pairwise (· < ·) ∧ ∀ p ∈ s.ctxs, p.1 ≠ s.cur

/-- The canonical form of a state: of its memory, and of its contexts. -/
def canonical (s : State) : Prop := Memory.wf s.mem = true ∧ tidy s

/-! ### What stands -/

/-- A key at which no register of the issuing task stands (R34). -/
def notOwn (s : State) (k : Nat) : Prop :=
  ∀ b, wsBase (spadCore k) s.cur s.me = some b → ¬ (isSpad k = true ∧ b ≤ spadOff k ∧ spadOff k < b + 0x540)

/-- Every launch stands but for its count of retired instructions and its woke bits (R402, R477). -/
def launchesStand (s t : State) : Prop :=
  ∀ n, ∃ count woke, t.launch? n = (s.launch? n).map fun l => { l with counter := count, woke := woke }

/-- Everything but the issuing context and those counts stands: memory, every other context, every core, flight, loft, die, and
all that the system keeps. -/
def othersStand (s t : State) : Prop := t = { s with me := t.me, launches := t.launches } ∧ launchesStand s t

/-- Every core and flight stands but for the translations that it holds (R449). -/
def unitsStand (s t : State) : Prop :=
  (∀ k, t.core k = { s.core k with tlb := (t.core k).tlb }) ∧ (∀ k, t.gcore k = { s.gcore k with tlb := (t.gcore k).tlb }) ∧
  ∀ k, t.flight k = { s.flight k with tlb := (t.flight k).tlb }

/-- What a load leaves outside the issuing context: everything but the translations held, the egress charged (R378), the flit of a
request to another chip (R492) and its free bytes, and the counts of retired instructions. -/
def loadStands (s t : State) : Prop :=
  t = { s with
    me := t.me, launches := t.launches, cores := t.cores, gcores := t.gcores, flights := t.flights, egress := t.egress,
    egressBytes := t.egressBytes, ports := t.ports, freeCount := t.freeCount } ∧ launchesStand s t ∧ unitsStand s t

/-- What a store leaves outside the issuing context: what a load leaves, but for the bytes of memory, the registers of other
contexts in whose workspaces they stand (R34), and what is kept of bytes and lines: their releases, their seals, what they
were, and the images they lie in. -/
def storeStands (s t : State) : Prop :=
  t = { s with
    me := t.me, launches := t.launches, cores := t.cores, gcores := t.gcores, flights := t.flights, egress := t.egress,
    egressBytes := t.egressBytes, ports := t.ports, freeCount := t.freeCount, ctxs := t.ctxs, mem := t.mem,
    host := { s.host with mem := t.host.mem }, rels := t.rels, lineKey := t.lineKey, eccLines := t.eccLines, past := t.past,
    images := t.images } ∧ launchesStand s t ∧ unitsStand s t ∧
  ∀ k, k ≠ s.cur → t.ctx k = { s.ctx k with r := (t.ctx k).r }

/-- The control registers but for c.ret, which counts the instruction (R58), and psw.PP, which is clear after it (R56). -/
def controlStands (s t : State) : Prop :=
  t.me.c = { s.me.c with ret := s.me.c.ret + 1, psw := setBit s.me.c.psw 1 false }

/-- The registers but for the destination d, the queues that `touched` names, and the l file. A push that waits in the vector
stream may come to q2 or q3 once room there lets it, or an older one (R41). -/
def registersStand (s t : State) (d : Opnd) (touched : List Opnd) : Prop :=
  (∀ n : WReg, d ≠ .w n → t.me.r.getW n = s.me.r.getW n) ∧ (∀ n : BitVec 3, d ≠ .o n → t.me.r.getO n = s.me.r.getO n) ∧
  (∀ n : BitVec 2, d ≠ .q n → .q n ∉ touched → s.me.vs = [] ∨ n.toNat < 2 → t.me.r.getQ n = s.me.r.getQ n) ∧
  t.me.r.v = s.me.r.v ∧ t.me.r.m = s.me.r.m ∧ t.me.r.sc = s.me.r.sc ∧ t.me.r.cb = s.me.r.cb

/-- The rest of the issuing context stands: its frames, its task, its unwind, its wake latch, and all else but its status, its PC
with the repetition, its registers with the vector stream, and its control registers. -/
def taskStands (s t : State) : Prop :=
  t.me = { s.me with st := t.me.st, pc := t.me.pc, rep := t.me.rep, r := t.me.r, vs := t.me.vs, c := t.me.c }

/-- The push of a result into the l file (R39). -/
def pushed (s t : State) (x : Word) : Prop := t.me.r.l = #v[x, s.me.r.l[0], s.me.r.l[1], s.me.r.l[2]]

/-! ### Integer results (R64, R125 to R133) -/

/-- Bits 31:0 of an integer, as a signed number. -/
def low32 (n : Int) : Int := Int.bmod n (2 ^ 32)

/-- The number whose bit i is b i. -/
def ofBits (b : Nat → Bool) : Nat := ((List.range 64).map fun i => if b i then 2 ^ i else 0).sum

/-- d, a, b and the result of a two-source integer instruction as an integer, of which d gets bits 63:0; the first
argument is the old d. -/
def intBinary : Instr → Option (Opnd × Opnd × Opnd × (Word → Word → Word → Int))
  | .add d a b => some (d, a, b, fun _ x y => x.toNat + y.toNat)
  | .sub d a b => some (d, a, b, fun _ x y => x.toNat - y.toNat)
  | .andI d a b => some (d, a, b, fun _ x y => ofBits fun i => x.getLsbD i && y.getLsbD i)
  | .orI d a b => some (d, a, b, fun _ x y => ofBits fun i => x.getLsbD i || y.getLsbD i)
  | .xorI d a b => some (d, a, b, fun _ x y => ofBits fun i => x.getLsbD i != y.getLsbD i)
  | .andn d a b => some (d, a, b, fun _ x y => ofBits fun i => x.getLsbD i && !y.getLsbD i)
  | .shl d a b => some (d, a, b, fun _ x y => x.toNat * 2 ^ (y.toNat % 64))
  | .shr d a b => some (d, a, b, fun _ x y => x.toNat / 2 ^ (y.toNat % 64))
  | .sra d a b => some (d, a, b, fun _ x y => x.toInt / 2 ^ (y.toNat % 64))
  | .rol d a b => some (d, a, b, fun _ x y => ofBits fun i => x.getLsbD ((i + 64 - y.toNat % 64) % 64))
  | .ror d a b => some (d, a, b, fun _ x y => ofBits fun i => x.getLsbD ((i + y.toNat % 64) % 64))
  | .slt d a b => some (d, a, b, fun _ x y => if x.toInt < y.toInt then 1 else 0)
  | .sltu d a b => some (d, a, b, fun _ x y => if x.toNat < y.toNat then 1 else 0)
  | .minI d a b => some (d, a, b, fun _ x y => if x.toInt ≤ y.toInt then x.toInt else y.toInt)
  | .maxI d a b => some (d, a, b, fun _ x y => if x.toInt ≥ y.toInt then x.toInt else y.toInt)
  | .minu d a b => some (d, a, b, fun _ x y => if x.toNat ≤ y.toNat then x.toNat else y.toNat)
  | .maxu d a b => some (d, a, b, fun _ x y => if x.toNat ≥ y.toNat then x.toNat else y.toNat)
  | .mul d a b => some (d, a, b, fun _ x y => x.toNat * y.toNat)
  | .mulh d a b => some (d, a, b, fun _ x y => (x.toInt * y.toInt) / 2 ^ 64)
  | .mulhu d a b => some (d, a, b, fun _ x y => (x.toNat * y.toNat) / 2 ^ 64)
  | .divI d a b => some (d, a, b, fun _ x y =>
      if y.toNat = 0 then -1 else if x.toInt = -2 ^ 63 ∧ y.toInt = -1 then x.toInt else x.toInt.tdiv y.toInt)
  | .divu d a b => some (d, a, b, fun _ x y => if y.toNat = 0 then 2 ^ 64 - 1 else x.toNat / y.toNat)
  | .remI d a b => some (d, a, b, fun _ x y =>
      if y.toNat = 0 then x.toInt else if x.toInt = -2 ^ 63 ∧ y.toInt = -1 then 0
      else x.toInt - x.toInt.tdiv y.toInt * y.toInt)
  | .remu d a b => some (d, a, b, fun _ x y => if y.toNat = 0 then x.toNat else x.toNat - x.toNat / y.toNat * y.toNat)
  | .sel d a b => some (d, a, b, fun old x y => if old.toNat ≠ 0 then x.toNat else y.toNat)
  | .addW d a b => some (d, a, b, fun _ x y => low32 (x.toNat + y.toNat))
  | .subW d a b => some (d, a, b, fun _ x y => low32 (x.toNat - y.toNat))
  | .shlW d a b => some (d, a, b, fun _ x y => low32 (x.toNat * 2 ^ (y.toNat % 32)))
  | .shrW d a b => some (d, a, b, fun _ x y => low32 (x.toNat % 2 ^ 32 / 2 ^ (y.toNat % 32)))
  | .sraW d a b => some (d, a, b, fun _ x y => low32 x.toNat / 2 ^ (y.toNat % 32))
  | .mulW d a b => some (d, a, b, fun _ x y => low32 (x.toNat * y.toNat))
  | .add16 d a => some (.w d, .w d, .w a, fun _ x y => x.toNat + y.toNat)
  | .sub16 d a => some (.w d, .w d, .w a, fun _ x y => x.toNat - y.toNat)
  | .and16 d a => some (.w d, .w d, .w a, fun _ x y => ofBits fun i => x.getLsbD i && y.getLsbD i)
  | .or16 d a => some (.w d, .w d, .w a, fun _ x y => ofBits fun i => x.getLsbD i || y.getLsbD i)
  | .xor16 d a => some (.w d, .w d, .w a, fun _ x y => ofBits fun i => x.getLsbD i != y.getLsbD i)
  | _ => none

/-- The number of leading members of a list that satisfy p. -/
def leading (p : Nat → Bool) (l : List Nat) : Nat := (l.takeWhile p).length

/-- d, a and the result of a one-source integer instruction as an integer, of which d gets bits 63:0; the first argument
is the old d. -/
def intUnary : Instr → Option (Opnd × Opnd × (Word → Word → Int))
  | .clz d a => some (d, a, fun _ x => leading (fun i => !x.getLsbD (63 - i)) (List.range 64))
  | .ctz d a => some (d, a, fun _ x => leading (fun i => !x.getLsbD i) (List.range 64))
  | .popc d a => some (d, a, fun _ x => ((List.range 64).map fun i => if x.getLsbD i then 1 else 0).sum)
  | .sextB d a => some (d, a, fun _ x => Int.bmod x.toNat (2 ^ 8))
  | .sextH d a => some (d, a, fun _ x => Int.bmod x.toNat (2 ^ 16))
  | .sextW d a => some (d, a, fun _ x => Int.bmod x.toNat (2 ^ 32))
  | .zextB d a => some (d, a, fun _ x => (x.toNat % 2 ^ 8 : Nat))
  | .zextH d a => some (d, a, fun _ x => (x.toNat % 2 ^ 16 : Nat))
  | .zextW d a => some (d, a, fun _ x => (x.toNat % 2 ^ 32 : Nat))
  | .brev d a => some (d, a, fun _ x => ofBits fun i => x.getLsbD (63 - i))
  | .bswap d a => some (d, a, fun _ x => ofBits fun i => x.getLsbD (8 * (7 - i / 8) + i % 8))
  | .bext d a l p => some (d, a, fun _ x => (x.toNat / 2 ^ p.toNat % 2 ^ (l.toNat + 1) : Nat))
  | .bins d a l p => some (d, a, fun old x => ofBits fun i =>
      if p.toNat ≤ i ∧ i < p.toNat + (l.toNat + 1) then x.getLsbD (i - p.toNat) else old.getLsbD i)
  | .addi d a i => some (d, a, fun _ x => x.toNat + i.toInt)
  | .andImm d a i => some (d, a, fun _ x => ofBits fun j => x.getLsbD j && i.getLsbD (min j 11))
  | .orImm d a i => some (d, a, fun _ x => ofBits fun j => x.getLsbD j || i.getLsbD (min j 11))
  | .xorImm d a i => some (d, a, fun _ x => ofBits fun j => x.getLsbD j != i.getLsbD (min j 11))
  | .slti d a i => some (d, a, fun _ x => if x.toInt < i.toInt then 1 else 0)
  | .sltiu d a i => some (d, a, fun _ x => if (x.toNat : Int) < i.toInt % 2 ^ 64 then 1 else 0)
  | .addiW d a i => some (d, a, fun _ x => low32 (x.toNat + i.toInt))
  | .shli d a n => some (d, a, fun _ x => (x.toNat * 2 ^ n.toNat : Nat))
  | .shri d a n => some (d, a, fun _ x => (x.toNat / 2 ^ n.toNat : Nat))
  | .srai d a n => some (d, a, fun _ x => x.toInt / 2 ^ n.toNat)
  | .rori d a n => some (d, a, fun _ x => ofBits fun i => x.getLsbD ((i + n.toNat) % 64))
  | .mov16 d a => some (.w d, .w a, fun _ x => x.toNat)
  | .addi16 d i => some (.w d, .w d, fun _ x => x.toNat + i.toInt)
  | .shli16 d n => some (.w d, .w d, fun _ x => (x.toNat * 2 ^ n.toNat : Nat))
  | .shri16 d n => some (.w d, .w d, fun _ x => (x.toNat / 2 ^ n.toNat : Nat))
  | .srai16 d n => some (.w d, .w d, fun _ x => x.toInt / 2 ^ n.toNat)
  | _ => none

/-- d and the result of an instruction with no source, from the old d and the instruction's own address. -/
def intNullary : Instr → Option (Opnd × (Word → Word → Int))
  | .li d i => some (d, fun _ _ => i.toInt)
  | .lis d i => some (d, fun old _ => (old.toNat * 2 ^ 18 + i.toNat : Nat))
  | .lpc d i => some (d, fun _ pc => pc.toNat + 2 * i.toInt)
  | .li16 d i => some (.w d, fun _ _ => i.toInt)
  | _ => none

/-! ### Control flow (R64, R134 to R136) -/

/-- a, b, the offset in halfwords and the condition of a 32-bit branch. -/
def branches : Instr → Option (Opnd × Opnd × Int × (Word → Word → Prop))
  | .bEq a b o => some (a, b, o.toInt, fun x y => x = y)
  | .bNe a b o => some (a, b, o.toInt, fun x y => x ≠ y)
  | .bLt a b o => some (a, b, o.toInt, fun x y => x.toInt < y.toInt)
  | .bGe a b o => some (a, b, o.toInt, fun x y => x.toInt ≥ y.toInt)
  | .bLtu a b o => some (a, b, o.toInt, fun x y => x.toNat < y.toNat)
  | .bGeu a b o => some (a, b, o.toInt, fun x y => x.toNat ≥ y.toNat)
  | .bBs a b o => some (a, b, o.toInt, fun x y => x.getLsbD (y.toNat % 64) = true)
  | .bBc a b o => some (a, b, o.toInt, fun x y => x.getLsbD (y.toNat % 64) = false)
  | _ => none

/-- a, the offset and the condition of a 16-bit branch. -/
def branches16 : Instr → Option (WReg × Int × (Word → Prop))
  | .beqz a o => some (a, o.toInt, fun x => x = 0)
  | .bnez a o => some (a, o.toInt, fun x => x ≠ 0)
  | _ => none

/-- A PC at a number of halfwords from another. -/
def halfwordsFrom (pc : Word) (n : Int) : Word := BitVec.ofInt 64 (pc.toNat + 2 * n)

/-! ### Scalar memory (R64, R139, R142) -/

/-- What a scalar load does: d, the address, the bytes, whether the value is sign-extended, and the sources popped. -/
structure LoadForm where
  d : Opnd
  ea : State → Word
  n : Nat
  signed : Bool
  pops : List Opnd

/-- The sum of a base and a signed offset. -/
def baseOff (b : Opnd) (o : Int) (s : State) : Word := BitVec.ofInt 64 (((s.me.r.val b).getD 0).toNat + o)

/-- The base plus a scaled index (R142). -/
def baseIndex (a b : Opnd) (k : BitVec 2) (s : State) : Word :=
  match s.me.r.val2 a b with
  | some (x, y) => BitVec.ofNat 64 (x.toNat + y.toNat * 2 ^ k.toNat)
  | none => 0

/-- The loads. -/
def loadForm : Instr → Option LoadForm
  | .ldB d b i => some { d := d, ea := baseOff b i.toInt, n := 1, signed := true, pops := [] }
  | .ldH d b i => some { d := d, ea := baseOff b i.toInt, n := 2, signed := true, pops := [] }
  | .ldW d b i => some { d := d, ea := baseOff b i.toInt, n := 4, signed := true, pops := [] }
  | .ldD d b i => some { d := d, ea := baseOff b i.toInt, n := 8, signed := false, pops := [] }
  | .ldBu d b i => some { d := d, ea := baseOff b i.toInt, n := 1, signed := false, pops := [] }
  | .ldHu d b i => some { d := d, ea := baseOff b i.toInt, n := 2, signed := false, pops := [] }
  | .ldWu d b i => some { d := d, ea := baseOff b i.toInt, n := 4, signed := false, pops := [] }
  | .ldx d a b z k => some { d := d, ea := baseIndex a b k, n := 2 ^ z.toNat, signed := true, pops := [a, b] }
  | .ldxu d a b z k => some { d := d, ea := baseIndex a b k, n := 2 ^ z.toNat, signed := false, pops := [a, b] }
  | .ld16 d o => some { d := .w d, ea := baseOff (.w 29) (8 * o.toNat), n := 8, signed := false, pops := [] }
  | .lds16 d o => some { d := .w d, ea := baseOff (.w 30) (8 * o.toNat), n := 8, signed := false, pops := [] }
  | _ => none

/-- What a scalar store does: the value, the address, the bytes, and the sources popped. -/
structure StoreForm where
  value : State → Option Word
  ea : State → Word
  n : Nat
  pops : List Opnd

/-- The stores. -/
def storeForm : Instr → Option StoreForm
  | .stB d b i => some { value := (·.me.r.val d), ea := baseOff b i.toInt, n := 1, pops := [d] }
  | .stH d b i => some { value := (·.me.r.val d), ea := baseOff b i.toInt, n := 2, pops := [d] }
  | .stW d b i => some { value := (·.me.r.val d), ea := baseOff b i.toInt, n := 4, pops := [d] }
  | .stD d b i => some { value := (·.me.r.val d), ea := baseOff b i.toInt, n := 8, pops := [d] }
  | .stx d a b z k => some { value := fun s => ((s.me.r.popped a).popped b).val d, ea := baseIndex a b k, n := 2 ^ z.toNat,
                             pops := [a, b, d] }
  | .st16 a o => some { value := (·.me.r.val (.w a)), ea := baseOff (.w 29) (8 * o.toNat), n := 8, pops := [] }
  | .sts16 a o => some { value := (·.me.r.val (.w a)), ea := baseOff (.w 30) (8 * o.toNat), n := 8, pops := [] }
  | _ => none

/-- The value that n loaded bytes give. -/
def loaded (signed : Bool) (b : List Byte) : Int :=
  if signed then Int.bmod (leNat b) (2 ^ (8 * b.length)) else leNat b

/-- A list of sources is popped in order. -/
def popAll (l : List Opnd) (s : State) : State :=
  match l with
  | [] => s
  | [a] => s.pop a
  | [a, b] => s.pop2 a b
  | a :: b :: c :: _ => (s.pop2 a b).pop c

/-- Every source of an indexed form has a value. -/
def sourcesReady (l : List Opnd) (s : State) : Prop :=
  match l with
  | a :: b :: _ => (s.me.r.val2 a b).isSome = true
  | _ => True

/-! ### Atomic operations (R318, R319) -/

/-- A read-modify-write: d, the address register, the value register, the ordering and the scope, the bytes, whether the old
value is sign-extended into d, and what is stored with the flags raised. -/
structure AmoForm where
  d : WReg
  a : WReg
  b : WReg
  o : BitVec 2
  c : BitVec 3
  n : Nat
  signed : Bool
  op : Nat → Nat → Nat × Flags

/-- The read-modify-writes: the stored value from the old value and from B, both as numbers of the width. -/
def amoForm : Instr → Option AmoForm
  | .amoAdd d a b o c => some (.mk d a b o c 8 false fun x y => ((x + y) % 2 ^ 64, 0))
  | .amoAnd d a b o c => some (.mk d a b o c 8 false fun x y => (x &&& y, 0))
  | .amoOr d a b o c => some (.mk d a b o c 8 false fun x y => (x ||| y, 0))
  | .amoXor d a b o c => some (.mk d a b o c 8 false fun x y => (x ^^^ y, 0))
  | .amoMin d a b o c => some (.mk d a b o c 8 false fun x y => (if Int.bmod x (2 ^ 64) ≤ Int.bmod y (2 ^ 64) then x else y, 0))
  | .amoMax d a b o c => some (.mk d a b o c 8 false fun x y => (if Int.bmod x (2 ^ 64) ≥ Int.bmod y (2 ^ 64) then x else y, 0))
  | .amoMinu d a b o c => some (.mk d a b o c 8 false fun x y => (if x ≤ y then x else y, 0))
  | .amoMaxu d a b o c => some (.mk d a b o c 8 false fun x y => (if x ≥ y then x else y, 0))
  | .amoSwap d a b o c => some (.mk d a b o c 8 false fun _ y => (y, 0))
  | .amoFadd d a b o c => some (.mk d a b o c 8 false fun x y => Fmt.round .fp64 false .rne ((Fmt.val .fp64 x).add (Fmt.val .fp64 y) .rne))
  | .amoFmax d a b o c => some (.mk d a b o c 8 false (Fmt.minMax .fp64 true))
  | .amoFmin d a b o c => some (.mk d a b o c 8 false (Fmt.minMax .fp64 false))
  | .amoFamax d a b o c => some (.mk d a b o c 8 false fun x y => Fmt.minMax .fp64 true (x % 2 ^ 63) (y % 2 ^ 63))
  | .amoWAdd d a b o c => some (.mk d a b o c 4 true fun x y => ((x + y) % 2 ^ 32, 0))
  | .amoWAnd d a b o c => some (.mk d a b o c 4 true fun x y => (x &&& y, 0))
  | .amoWOr d a b o c => some (.mk d a b o c 4 true fun x y => (x ||| y, 0))
  | .amoWXor d a b o c => some (.mk d a b o c 4 true fun x y => (x ^^^ y, 0))
  | .amoWMin d a b o c => some (.mk d a b o c 4 true fun x y => (if Int.bmod x (2 ^ 32) ≤ Int.bmod y (2 ^ 32) then x else y, 0))
  | .amoWMax d a b o c => some (.mk d a b o c 4 true fun x y => (if Int.bmod x (2 ^ 32) ≥ Int.bmod y (2 ^ 32) then x else y, 0))
  | .amoWMinu d a b o c => some (.mk d a b o c 4 true fun x y => (if x ≤ y then x else y, 0))
  | .amoWMaxu d a b o c => some (.mk d a b o c 4 true fun x y => (if x ≥ y then x else y, 0))
  | .amoWSwap d a b o c => some (.mk d a b o c 4 true fun _ y => (y, 0))
  | .amoWFadd d a b o c => some (.mk d a b o c 4 false fun x y => Fmt.round .fp32 false .rne ((Fmt.val .fp32 x).add (Fmt.val .fp32 y) .rne))
  | .amoWFmax d a b o c => some (.mk d a b o c 4 false (Fmt.minMax .fp32 true))
  | .amoWFmin d a b o c => some (.mk d a b o c 4 false (Fmt.minMax .fp32 false))
  | .amoWFamax d a b o c => some (.mk d a b o c 4 false fun x y => Fmt.minMax .fp32 true (x % 2 ^ 31) (y % 2 ^ 31))
  | _ => none

/-- The address, the ordering and the bytes of AMO, AMO.W, CAS and CAS.W. -/
def atomicForm : Instr → Option (WReg × BitVec 2 × Nat)
  | .cas _ a _ o _ => some (a, o, 8)
  | .casW _ a _ o _ => some (a, o, 4)
  | i => (amoForm i).map fun f => (f.a, f.o, f.n)

/-- What an access that has been performed leaves, as its ordering and scope say (R306, R317): the record of a release at the
bytes written, and the check of an acquire. -/
def ordered (s u : State) (ea : Word) (n : Nat) (o : BitVec 2) (c : BitVec 3) : State :=
  let t := u.chain s.rels (u.relPlaces ea n) (if o.getLsbD 1 then some (u.myRel c) else none)
  if o.getLsbD 0 then t.acquire s.rels ea n c else t

/-! ### Floating-point results (R154 to R159) -/

/-- A two-source rounded operation: d, a, b, the rounding select, the format, and the exact result from the old d, A and B. -/
structure FopForm where
  d : Opnd
  a : Opnd
  b : Opnd
  r : RSel
  f : Fmt
  exact : Val → Val → Val → Mode → Exact

/-- The two-source rounded operations. -/
def fopTwo : Instr → Option FopForm
  | .faddD d a b r => some (.mk d a b r .fp64 fun _ x y m => x.add y m)
  | .fsubD d a b r => some (.mk d a b r .fp64 fun _ x y m => x.add y.negate m)
  | .fmulD d a b r => some (.mk d a b r .fp64 fun _ x y _ => x.mul y)
  | .fmaD d a b r => some (.mk d a b r .fp64 fun c x y m => Val.fma x y c m)
  | .fmsD d a b r => some (.mk d a b r .fp64 fun c x y m => Val.fma x y c.negate m)
  | .fnmaD d a b r => some (.mk d a b r .fp64 fun c x y m => Val.fma x.negate y c.negate m)
  | .fnmsD d a b r => some (.mk d a b r .fp64 fun c x y m => Val.fma x.negate y c m)
  | .fdivD d a b => some (.mk d a b .dyn .fp64 fun _ x y _ => x.div y)
  | .faddS d a b r => some (.mk d a b r .fp32 fun _ x y m => x.add y m)
  | .fsubS d a b r => some (.mk d a b r .fp32 fun _ x y m => x.add y.negate m)
  | .fmulS d a b r => some (.mk d a b r .fp32 fun _ x y _ => x.mul y)
  | .fmaS d a b r => some (.mk d a b r .fp32 fun c x y m => Val.fma x y c m)
  | .fmsS d a b r => some (.mk d a b r .fp32 fun c x y m => Val.fma x y c.negate m)
  | .fnmaS d a b r => some (.mk d a b r .fp32 fun c x y m => Val.fma x.negate y c.negate m)
  | .fnmsS d a b r => some (.mk d a b r .fp32 fun c x y m => Val.fma x.negate y c m)
  | .fdivS d a b => some (.mk d a b .dyn .fp32 fun _ x y _ => x.div y)
  | _ => none

/-- The one-source rounded operations: d, a, the rounding select, the format and the exact result. -/
def fopOne : Instr → Option (Opnd × Opnd × RSel × Fmt × (Val → Exact))
  | .frcpD d a r => some (d, a, r, .fp64, Val.rcp)
  | .frsqD d a r => some (d, a, r, .fp64, Val.rsqrt)
  | .fsqrtD d a => some (d, a, .dyn, .fp64, Val.sqrt)
  | .frcpS d a r => some (d, a, r, .fp32, Val.rcp)
  | .frsqS d a r => some (d, a, r, .fp32, Val.rsqrt)
  | .fsqrtS d a => some (d, a, .dyn, .fp32, Val.sqrt)
  | _ => none

/-- The operations on patterns: d, a, b, the format, and the result with the flags. -/
def fopBits : Instr → Option (Opnd × Opnd × Opnd × Fmt × (Nat → Nat → Nat × Flags))
  | .fminD d a b => some (d, a, b, .fp64, Fmt.minMax .fp64 false)
  | .fmaxD d a b => some (d, a, b, .fp64, Fmt.minMax .fp64 true)
  | .fcmpeqD d a b => some (d, a, b, .fp64, cmpBits .fp64 0)
  | .fcmpltD d a b => some (d, a, b, .fp64, cmpBits .fp64 1)
  | .fcmpleD d a b => some (d, a, b, .fp64, cmpBits .fp64 2)
  | .fsgnjD d a b => some (d, a, b, .fp64, fun x y => (x % 2 ^ 63 + y / 2 ^ 63 * 2 ^ 63, 0))
  | .fsgnjnD d a b => some (d, a, b, .fp64, fun x y => (x % 2 ^ 63 + (1 - y / 2 ^ 63) * 2 ^ 63, 0))
  | .fsgnjxD d a b => some (d, a, b, .fp64, fun x y => (x % 2 ^ 63 + (x / 2 ^ 63 + y / 2 ^ 63) % 2 * 2 ^ 63, 0))
  | .fminS d a b => some (d, a, b, .fp32, Fmt.minMax .fp32 false)
  | .fmaxS d a b => some (d, a, b, .fp32, Fmt.minMax .fp32 true)
  | .fcmpeqS d a b => some (d, a, b, .fp32, cmpBits .fp32 0)
  | .fcmpltS d a b => some (d, a, b, .fp32, cmpBits .fp32 1)
  | .fcmpleS d a b => some (d, a, b, .fp32, cmpBits .fp32 2)
  | .fsgnjS d a b => some (d, a, b, .fp32, fun x y => (x % 2 ^ 31 + y / 2 ^ 31 * 2 ^ 31, 0))
  | .fsgnjnS d a b => some (d, a, b, .fp32, fun x y => (x % 2 ^ 31 + (1 - y / 2 ^ 31) * 2 ^ 31, 0))
  | .fsgnjxS d a b => some (d, a, b, .fp32, fun x y => (x % 2 ^ 31 + (x / 2 ^ 31 + y / 2 ^ 31) % 2 * 2 ^ 31, 0))
  | _ => none

/-- The instruction runs where it issues: a GMATH instruction on a gondola core alone (R77). -/
def runsHere (s : State) (i : Instr) : Prop := isGmath i = true → isG s.cur = true

/-- The carry-less product (R159): bit k is the xor over i + j = k of A bit i and B bit j. -/
def clmulBits (x y : Word) : Nat :=
  ((List.range 127).map fun k =>
    (((List.range (k + 1)).filter fun i => x.getLsbD i && y.getLsbD (k - i)).length % 2) * 2 ^ k).sum

/-- The integer operations of GMATH: d, a, b and the 128-bit result. -/
def wideForm : Instr → Option (Opnd × Opnd × Opnd × (Word → Word → Nat))
  | .mul128 d a b => some (d, a, b, fun x y => x.toNat * y.toNat)
  | .clmul d a b => some (d, a, b, clmulBits)
  | _ => none

/-! ### Vector registers (R111, R112, R160 to R171) -/

/-- Element j of a width in bits of a register (R111). -/
def element (n : Nat) (v : Vec) (j : Nat) : Nat := v.toNat / 2 ^ (n * j) % 2 ^ n

/-- A masked operation on elements: vd, va, vb, the mask field, the size, and the operation of one lane. -/
structure LaneForm where
  d : VReg
  a : VReg
  b : VReg
  m : MReg
  z : Sz
  op : LaneOp

/-- VALU and VFN, but for VSEL; a one-source form reads va twice. -/
def laneForm : Instr → Option LaneForm
  | .vadd d a b m z => some (.mk d a b m z (laneArith (· + ·) fun x y m => x.add y m))
  | .vsub d a b m z => some (.mk d a b m z (laneArith (· - ·) fun x y m => x.add y.negate m))
  | .vmul d a b m z => some (.mk d a b m z (laneArith (· * ·) fun x y _ => x.mul y))
  | .vmin d a b m z => some (.mk d a b m z (laneMinMax false))
  | .vmax d a b m z => some (.mk d a b m z (laneMinMax true))
  | .vand d a b m z => some (.mk d a b m z (laneBits fun _ x y => x &&& y))
  | .vor d a b m z => some (.mk d a b m z (laneBits fun _ x y => x ||| y))
  | .vxor d a b m z => some (.mk d a b m z (laneBits fun _ x y => x ^^^ y))
  | .vandn d a b m z => some (.mk d a b m z (laneBits fun f x y => x &&& (2 ^ f.bits - 1 - y)))
  | .vshl d a b m z => some (.mk d a b m z (laneBits fun f x y => x <<< (y % f.bits)))
  | .vshr d a b m z => some (.mk d a b m z (laneBits fun f x y => x >>> (y % f.bits)))
  | .vsra d a b m z => some (.mk d a b m z (laneInt fun f x y => x / 2 ^ (f.ofInt y % f.bits)))
  | .vmulh d a b m z => some (.mk d a b m z (laneInt fun f x y => x * y / (2 ^ f.bits : Nat)))
  | .vadds d a b m z => some (.mk d a b m z (laneInt fun f x y => f.clamp (x + y)))
  | .vsubs d a b m z => some (.mk d a b m z (laneInt fun f x y => f.clamp (x - y)))
  | .vabs d a m z => some (.mk d a a m z (fun f _ x _ a => (if f.isFloat then x % 2 ^ (f.bits - 1) else f.ofInt (f.int x).natAbs, a)))
  | .vneg d a m z => some (.mk d a a m z (fun f _ x _ a => (if f.isFloat then x ^^^ 2 ^ (f.bits - 1) else f.ofInt (-f.int x), a)))
  | .vmov d a m z => some (.mk d a a m z (fun _ _ x _ a => (x, a)))
  | .vrcp d a m z => some (.mk d a a m z (laneFn Val.rcp))
  | .vrsq d a m z => some (.mk d a a m z (laneFn Val.rsqrt))
  | .vexp2 d a m z => some (.mk d a a m z (laneFn Val.exp2))
  | .vlog2 d a m z => some (.mk d a a m z (laneFn Val.log2))
  | _ => none

/-- The lanes in order: those that are active become what the operation gives, and its draws and flags go on to the next. -/
def lanes (s : State) (p : LaneForm) : List Nat × Acc :=
  let f := Fmt.ofSz p.z
  sweep (s.me.r.active p.m f.bits)
    (fun j => p.op f s.me.c.rm ((s.vec f.bits p.a).getD j 0) ((s.vec f.bits p.b).getD j 0)) 0 (s.vec f.bits p.d) s.acc

/-- VALU in an integer size, as an operation on signed integers of n bits. -/
def vecInt : Instr → Option (VReg × VReg × VReg × MReg × Sz × (Nat → Int → Int → Int))
  | .vadd d a b m z => some (d, a, b, m, z, fun _ x y => x + y)
  | .vsub d a b m z => some (d, a, b, m, z, fun _ x y => x - y)
  | .vmul d a b m z => some (d, a, b, m, z, fun _ x y => x * y)
  | .vmin d a b m z => some (d, a, b, m, z, fun _ x y => if x ≤ y then x else y)
  | .vmax d a b m z => some (d, a, b, m, z, fun _ x y => if x ≥ y then x else y)
  | .vmulh d a b m z => some (d, a, b, m, z, fun n x y => x * y / 2 ^ n)
  | .vsra d a b m z => some (d, a, b, m, z, fun n x y => x / 2 ^ (y % n).toNat)
  | .vshl d a b m z => some (d, a, b, m, z, fun n x y => x * 2 ^ (y % n).toNat)
  | .vshr d a b m z => some (d, a, b, m, z, fun n x y => x % 2 ^ n / 2 ^ (y % n).toNat)
  | .vadds d a b m z => some (d, a, b, m, z, fun n x y => max (-2 ^ (n - 1)) (min (2 ^ (n - 1) - 1) (x + y)))
  | .vsubs d a b m z => some (d, a, b, m, z, fun n x y => max (-2 ^ (n - 1)) (min (2 ^ (n - 1) - 1) (x - y)))
  | .vabs d a m z => some (d, a, a, m, z, fun _ x _ => if x < 0 then -x else x)
  | .vneg d a m z => some (d, a, a, m, z, fun _ x _ => -x)
  | .vmov d a m z => some (d, a, a, m, z, fun _ x _ => x)
  | _ => none

/-- The fused forms (R165): 0 VFMA, 1 VFMS, 2 VFNMA, 3 VFNMS. -/
def fusedForm : Instr → Option (Nat × VReg × VReg × VReg × MReg × Sz × RSel)
  | .vfma d a b m z r => some (0, d, a, b, m, z, r)
  | .vfms d a b m z r => some (1, d, a, b, m, z, r)
  | .vfnma d a b m z r => some (2, d, a, b, m, z, r)
  | .vfnms d a b m z r => some (3, d, a, b, m, z, r)
  | _ => none

/-- One lane of a fused form. -/
def fusedLane (s : State) (op : Nat) (d a b : VReg) (z : Sz) (r : RSel) (j : Nat) (acc : Acc) : Nat × Acc :=
  let f := Fmt.ofSz z
  let x := (s.vec f.bits a).getD j 0
  let y := (s.vec f.bits b).getD j 0
  let c := (s.vec f.bits d).getD j 0
  if f.isFloat then
    acc.round (s.me.c.mode r) fun md => f.round false md (Val.fused op (f.val x) (f.val y) (f.val c) md)
  else
    let p := f.int x * f.int y
    (f.ofInt ((if op < 2 then p else -p) + (if op = 0 ∨ op = 3 then f.int c else -f.int c)), acc)

/-- The reductions (R122, R167): vd, va, the mask field, the size, and the result from the format, psw.RM, the active lanes and
the elements. -/
def reduceForm : Instr → Option (VReg × VReg × MReg × Sz × (Fmt → RmCode → (Nat → Bool) → List Nat → Acc → Nat × Acc))
  | .vredadd d a m z => some (d, a, m, z, fun f rm act l acc =>
      treeReduce (if f.isFloat then 2 ^ (f.bits - 1) else 0) (laneArith (· + ·) (fun x y m => x.add y m) f rm) act l acc)
  | .vredmin d a m z => some (d, a, m, z, fun f rm act l acc =>
      if f.isFloat then acc.plain (floatReduce f false (f.infinity false) (activeElems act l))
      else treeReduce (2 ^ (f.bits - 1) - 1) (laneMinMax false f rm) act l acc)
  | .vredmax d a m z => some (d, a, m, z, fun f rm act l acc =>
      if f.isFloat then acc.plain (floatReduce f true (f.infinity true) (activeElems act l))
      else treeReduce (2 ^ (f.bits - 1)) (laneMinMax true f rm) act l acc)
  | .vredamax d a m z => some (d, a, m, z, fun f _ act l acc =>
      if f.isFloat then acc.plain (floatReduce f true 0 ((activeElems act l).map (· % 2 ^ (f.bits - 1))))
      else treeReduce 0 (fun x y c => (max x y, c)) act (l.map fun x => (f.int x).natAbs) acc)
  | .vredor d a m z => some (d, a, m, z, fun _ _ act l acc => treeReduce 0 (fun x y c => (x ||| y, c)) act l acc)
  | .vredand d a m z => some (d, a, m, z, fun f _ act l acc =>
      treeReduce (2 ^ f.bits - 1) (fun x y c => (x &&& y, c)) act l acc)
  | _ => none

/-- VPERM: vd, va, vb, the size, and element i of the result from n, the elements of va and those of vb (R169). -/
def permForm : Instr → Option (VReg × VReg × VReg × Sz × (Nat → (Nat → Nat) → (Nat → Nat) → Nat → Nat))
  | .vperm d a b z => some (d, a, b, z, fun n x y i => x (y i % n))
  | .vslideup d a b z => some (d, a, b, z, fun _ x y i => if i < y 0 then 0 else x (i - y 0))
  | .vslidedn d a b z => some (d, a, b, z, fun n x y i => if n ≤ i + y 0 then 0 else x (i + y 0))
  | .vzip d a b z => some (d, a, b, z, fun _ x y i => if i % 2 = 0 then x (i / 2) else y (i / 2))
  | .vunzip d a b z => some (d, a, b, z, fun n x y i => if i < n / 2 then x (2 * i) else y (2 * (i - n / 2)))
  | _ => none

/-- VCVT: vd, the sizes, and the source elements in order (R170). -/
def convertForm : Instr → Option (VReg × Sz × Sz × (Nat → State → List Nat))
  | .vcvt d a u t => some (d, u, t, fun n s => s.vec n a)
  | .vcvtLo d a u t => some (d, u, t, fun n s => (s.vec n a).take (512 / n / 2))
  | .vcvtHi d a u t => some (d, u, t, fun n s => (s.vec n a).drop (512 / n / 2))
  | .vcvtNarrow d a b u t => some (d, u, t, fun n s => s.vec n a ++ s.vec n b)
  | _ => none

/-! ### Vector memory (R172 to R175) -/

/-- A vector access: the register, the mask field, the bytes of an element, the alignment that is checked, the elements'
addresses, the sources popped, and what the sources must hold. -/
structure VecAccess where
  d : VReg
  m : MReg
  n : Nat
  align : Nat
  pieces : State → List Piece
  pops : List Opnd
  ready : State → Prop

/-- The active elements of n bytes at the addresses that f gives. -/
def elementsAt (m : MReg) (n : Nat) (f : State → Nat → Int) (s : State) : List Piece :=
  ((List.range (64 / n)).filter (s.me.r.active m (8 * n))).map fun j =>
    { index := j, ea := BitVec.ofInt 64 (f s j), offs := List.range n }

/-- The VM form: the 64 bytes from the base plus 64 times the offset, of which the active ones are accessed (R173). -/
def blockAt (m : MReg) (b : Opnd) (o : BitVec 11) (s : State) : List Piece :=
  let l := (List.range 64).filter (s.me.r.active m 8)
  if l = [] then [] else [{ index := 0, ea := BitVec.ofInt 64 (((s.me.r.val b).getD 0).toNat + 64 * o.toInt), offs := l }]

/-- The bytes of an element of a size. -/
def sizeBytes (z : Sz) : Nat := (Fmt.ofSz z).bits / 8

/-- Element j of a base at a byte stride (R174). -/
def strideAt (b k : Opnd) (s : State) (j : Nat) : Int := ((s.me.r.val b).getD 0).toNat + j * ((s.me.r.val k).getD 0).toNat

/-- Element j of a base at a signed index (R175). -/
def indexAt (b : Opnd) (x : VReg) (n : Nat) (s : State) (j : Nat) : Int :=
  ((s.me.r.val b).getD 0).toNat + Int.bmod (element (8 * n) (s.me.r.getV x) j) (2 ^ (8 * n))

/-- The vector loads to elements, and the vector stores. -/
def vecLoad : Instr → Option VecAccess
  | .vld d b o m => some (.mk d m 1 64 (blockAt m b o) [] fun _ => True)
  | .vlds d b k z m => some (.mk d m (sizeBytes z) (sizeBytes z) (elementsAt m (sizeBytes z) (strideAt b k)) [k]
      fun s => (s.me.r.val k).isSome = true)
  | .vgath d b x z m => some (.mk d m (sizeBytes z) (sizeBytes z) (elementsAt m (sizeBytes z) (indexAt b x (sizeBytes z))) []
      fun _ => True)
  | _ => none
def vecStore : Instr → Option VecAccess
  | .vst d b o m => some (.mk d m 1 64 (blockAt m b o) [] fun _ => True)
  | .vsts d b k z m => some (.mk d m (sizeBytes z) (sizeBytes z) (elementsAt m (sizeBytes z) (strideAt b k)) [k]
      fun s => (s.me.r.val k).isSome = true)
  | .vscat d b x z m => some (.mk d m (sizeBytes z) (sizeBytes z) (elementsAt m (sizeBytes z) (indexAt b x (sizeBytes z))) []
      fun _ => True)
  | _ => none

/-! ### Gates -/

/-- The instructions that raise GATE inside a gate, wherever they run (R145, R148, R326, R327, R329, R333, R405, R410). -/
def outsideGates : Instr → Bool
  | .start _ _ | .sendMsg _ _ _ | .senda _ _ | .forkT _ _ | .joinT _ _ | .launchI _ _ | .endTask | .end16 | .wrapdone
  | .compose _ _ | .migrate _ => true
  | _ => false

/-- The line in which the address-space entry of a domain of a partition stands is good (R371, R448). -/
def spaceGood (s : State) (part : Nat) (d : Dom) : Prop := s.tableBad ((s.part part).spaceBase + 16 * d.toNat) = none

/-! ### Engine and loft commands -/

/-- A slot that the issuing task may name: READY, of its domain. -/
def slotMine (s : State) (t : Slot) : Prop := (s.slot s.myCore t).st = .ready ∧ (s.slot s.myCore t).dom = s.me.c.dom

/-- A command of the RSLOT encoding (R205, R206): the slot, the sources, the command, whether it fills the slot, and whether
B is an address. -/
structure SlotForm where
  t : Slot
  a : Opnd
  b : Opnd
  op : EngOp
  fills : Bool
  table : Bool

/-- The slot commands. -/
def slotForm : Instr → Option SlotForm
  | .rget t a b => some (.mk t a b .rget true false)
  | .rput t a b => some (.mk t a b .rput false false)
  | .rgath t a b => some (.mk t a b .rgath true true)
  | .rscat t a b => some (.mk t a b .rscat false true)
  | _ => none

/-- The descriptor commands (R207 to R209): d, a and the command. -/
def descForm : Instr → Option (Opnd × Opnd × EngOp)
  | .rcopy d a => some (d, a, .rcopy)
  | .rred d a => some (d, a, .rred)
  | .rmcast d a => some (d, a, .rmcast)
  | _ => none

/-- The slot of a loft command, and of a VT form. -/
def namesTile : Instr → Option Slot
  | .lbld t _ | .lmm _ _ t _ | .ldrn _ t | .vldt _ t _ _ | .vstt _ t _ _ => some t
  | _ => none

/-- The engine command that the issuing task kicks: what is captured of it, and the serial (R195, R196, R204). -/
def kicked (s : State) (op : EngOp) (t : Slot) (a b : Word) : EngCmd :=
  { op := op, slot := t, a := a, b := b, dom := s.me.c.dom, asid := s.me.c.asid, ttb := s.me.c.ttb, s := s.me.c.s,
    launch := s.me.t.launch, ctx := s.cur, task := s.me.c.serial, depth := s.me.c.gd,
    serial := (s.core s.myCore).eng.lastSerial + 1, started := false, released := false, pos := 0,
    desc := [], row := none, held := [], rowHeld := [] }

/-- An address of the issuing core's local window as every core names it; any other address stands (R202). -/
def everywhere (s : State) (a : Word) : Word :=
  if 0x00FFFFFFFFFC0000 ≤ a.toNat ∧ a.toNat < 2 ^ 56 then coreWindow s.myCore (a.toNat - 0x00FFFFFFFFFC0000) else a

/-- The prefix that an unprefixed loft command stands for, with format codes A, B and result and a rounding mode (R239). -/
def unprefixed (a b c : BitVec 4) (r : RmCode) : Prefix := { fa := a, fb := b, fc := c, rm := r, sat := false, sc := 0, cb := 0 }

end Sys2Proof.Safety
end
end

