-- ==== Sys2Proof/Certificates/Slice0/Obligations.lean ====
section
/-!
DEFINITION. The statements for the provers.
-/
noncomputable section
open Sys2Proof Sys2Proof.Machine Sys2Proof.Safety

/-! ### The machine -/

/-- A step with nothing on the agenda gives the context whose turn it is its turn: where nothing else comes before it, the
instruction decoded from the bits at its PC is executed (rotated inside a REP body), with the translations that the fetch used
kept, and a fetch from another chip sent over the link (R492), and the turn is taken; a fetch that no port can carry waits. The
order of turns is the model's choice of log 2. -/
def Obligations.StepRunsDecodedInstruction : Prop :=
  ∀ (s : State) (rank k w : Nat) (i : Instr),
    s.stopped = none → s.agenda = [] → s.nextCtx = some (rank, k) → (s.focus k).before = none →
    (s.focus k).fetch = .bits w → decodeFetched w = .ok i →
    let u := s.focus k
    (∀ v, u.fetchSent (fetchLen w) = some v →
      step s = Out.map (exec (u.me.instr i) (v.keepTlbs v.who .fetch v.me.pc (fetchLen w))) (State.turned k rank u.me)) ∧
    (u.fetchSent (fetchLen w) = none → step s = .next ((u.waiting .send).turned k rank u.me))

/-- An event at the head of the agenda is performed; with no agenda and no context to issue, the cycle ends (log 2). -/
def Obligations.StepWithoutAnInstruction : Prop :=
  (∀ (s : State) (i : Instr) (l : List Instr), s.stopped = none → s.agenda = i :: l → encode i = none →
    step s = exec i { s with agenda := l }) ∧
  (∀ s : State, s.stopped = none → s.agenda = [] → s.nextCtx = none → step s = .next s.tick)

/-- Fetching (R60, R61, R74, R300): a halfword is the two bytes at its address as memory holds them, where no store has changed
them since the task's dispatch, and otherwise what they hold or what they held before such a store (the choice is the free
value of log 14); one whose check fails traps, with the halfword's address. An even halfword is the instruction, and any other
takes the next halfword as its upper half. -/
def Obligations.FetchReturnsOldOrNewHalfwords : Prop :=
  (∀ (s : State) (pc : Word) (l : List Where), s.check s.who .fetch pc 2 = .ok l → s.linesBad l = none →
    let k := (l.head?.map Where.key).getD 0
    let now := leNat (s.peeks l)
    ((∀ e ∈ s.past.take (s.past.length - s.me.t.seen), e.1 ≠ k ∧ e.1 ≠ k + 1) → s.halfword pc = .bits now) ∧
    ∃ h, s.halfword pc = .bits h ∧ (h = now ∨ h ∈ s.olderHalves s.me.t.seen k now)) ∧
  (∀ (s : State) (pc a : Word) (c : Cause), s.check s.who .fetch pc 2 = .error (c, a) →
    c.precise = true → s.halfword pc = .trap c (a &&& ~~~ 1)) ∧
  (∀ (s : State) (h : Nat), s.halfword s.me.pc = .bits h →
    (h % 2 = 0 → s.fetch = .bits h) ∧
    (∀ g, h % 2 = 1 → s.halfword (s.me.pc + 2) = .bits g → s.fetch = .bits (h + 2 ^ 16 * g)))

/-- A step keeps the canonical form of memory (addresses strictly rising, no entry equal to what an unlisted byte reads as)
and of the contexts. -/
def Obligations.StepKeepsCanonicalForm : Prop :=
  ∀ s t : State, canonical s → step s = .next t → canonical t

/-- The state after reset has the canonical form, and the values that the spec gives for reset: the times are 0 (R421), the
array's banks are EMPTY and bank 0 is active (R226), every engine context's weight is 16 (R198) and its serials 0 (R204),
every run queue may overflow to 256 entries (R274), the watchdog limit is 2^22 and every seed 0 (R55). -/
def Obligations.ResetHoldsSpecValues : Prop :=
  canonical State.reset ∧ (∀ d, (State.reset.die d).time = 0) ∧
  (∀ o, (State.reset.loft o).bank0.filled = false ∧ (State.reset.loft o).bank1.filled = false ∧
    (State.reset.loft o).active = false) ∧
  (∀ c, (State.reset.core c).eng.weight = 16 ∧ (State.reset.core c).eng.lastSerial = 0 ∧
    (State.reset.core c).eng.doneSerial = 0 ∧ (State.reset.core c).overflow = 256) ∧
  (∀ p, (State.reset.part p).wdog = 2 ^ 22) ∧ (∀ k, (State.reset.ctx k).c.seed = 0)

/-- Decoding what the encoder gives for a well-formed instruction gives the instruction back, with every operand. -/
def Obligations.DecodingUndoesEncoding : Prop :=
  ∀ (i : Instr) (n w : Nat), i.wf = true → encode i = some (n, w) → decode w = .ok i

/-- The first cause of R76 that applies is raised: UND where the instruction is unavailable, or is FMT or REP in a REP body,
whichever pass finds it there (R72), else ENC where it is ill formed, else PRIV for a supervisor instruction in user state. A
GMATH opcode on a small core, for which R77 gives no order, is left out. -/
def Obligations.CausesComeInOrder : Prop :=
  ∀ (i : Instr) (s : State), encode i ≠ none → (isGmath i = true → isG s.cur = true) →
    let inBody := i.isControl = true ∧ s.me.rep.isSome = true
    ((s.unavailable i.grp = true ∨ inBody) → exec i s = .next (s.raise i .und 0 0)) ∧
    (s.unavailable i.grp = false → ¬ inBody → i.wf = false → exec i s = .next (s.raise i .enc 0 0)) ∧
    (s.unavailable i.grp = false → ¬ inBody → i.wf = true → i.needsS = true → s.me.c.s = false →
      exec i s = .next (s.raise i .priv 0 0))

/-- A precise cause of a user task, once every older instruction is complete: the context is HELD at the instruction, with
its registers and psw as they stand; c.cause, c.xpc, c.xpsw and c.tval are written; the trap record's 64 bytes hold the same
with the resume PC, the serial, the domain and the context; a pending prefix word is kept in the workspace's save area
(R238), and no other byte of memory changes; and a handler request for the trap is at the service core of the flight, in its
queue or waiting for room (R451, R452, R454). Where a gondola thread's record and the prefix word stand, and which flight
serves a gondola core whose own is not enabled, is the model's choice (logs 18, 61 and 64). -/
def Obligations.TrapTakesTheException : Prop :=
  ∀ (i : Instr) (s : State) (c : Cause) (tval : Word) (code : Nat),
    Memory.wf s.mem = true → s.behind = none → s.me.c.s = false →
    let t := s.raise i c tval code
    let a := tvalOf c (s.me.bits i) tval
    let resume := if c = .trap ∨ c = .brk then s.me.pc + BitVec.ofNat 64 (ilen i) else s.me.pc
    t.me.st = .held ∧ t.me.pc = s.me.pc ∧ t.me.r = s.me.r ∧
    t.me.c = { s.me.c with cause := BitVec.ofNat 64 c.code, xpc := s.me.pc, xpsw := s.me.c.psw.setWidth 64, tval := a } ∧
    Memory.bytes t.mem (s.recordKey s.cur) 64 =
      recordBytes (BitVec.ofNat 64 c.code) s.me.pc (s.me.c.psw.setWidth 64) a (s.me.bits i) code resume s.me.c.serial s.me.c.dom
        (numOf s.cur) ∧
    (∀ k, (k < s.recordKey s.cur ∨ s.recordKey s.cur + 64 ≤ k) →
      (s.me.c.pp = true → ∀ p, wsKey s.cur s.me = some p → k < p + 0x550 ∨ p + 0x554 ≤ k) →
      Memory.get t.mem k = Memory.get s.mem k) ∧
    (∀ p, s.me.c.pp = true → wsKey s.cur s.me = some p → (p + 0x554 ≤ s.recordKey s.cur ∨ s.recordKey s.cur + 64 ≤ p + 0x550) →
      Memory.bytes t.mem (p + 0x550) 4 = natLe 4 s.me.fmt.toNat) ∧
    ∃ r ∈ (t.flight (s.servedBy s.cur)).supq ++ (t.flight (s.servedBy s.cur)).supWait,
      r.trap = .ctx s.cur s.me.c.serial t.me.trapNo ∧ r.cause = c ∧ r.tval = a ∧ r.dom = s.me.c.dom ∧
      r.code = BitVec.ofNat 12 code ∧ r.core = coreOf s.cur ∧ r.ctx = numOf s.cur

/-- A supervisor task that raises a precise cause ends: its context is FREE, and the event is logged (R458), once the ring has
room for the record (R382). A handler's linked trap is disposed of as ERET 1 does: a task HELD outside any gate, which no fork
started, ends too, and a parked store is gone with its task's others. -/
def Obligations.SupervisorFaultEndsTheTask : Prop :=
  ∀ (i : Instr) (s : State) (c : Cause) (tval : Word) (code : Nat),
    s.behind = none → s.me.c.s = true → s.myLogFull = false →
    let t := s.raise i c tval code
    let ends := t.me.st = .free ∧ (t.die (ctxDie s.cur)).log.seq = (s.die (ctxDie s.cur)).log.seq + 1
    (s.me.t.trap = none → ends) ∧
    (∀ k serial no, s.me.t.trap = some (.ctx k serial no) → k ≠ s.cur → (s.ctx k).st = .held → (s.ctx k).c.serial = serial →
      (s.ctx k).trapNo = no → (s.ctx k).frames = [] → (s.ctx k).t.join = none → ends ∧ (t.ctx k).st = .free) ∧
    (∀ core e no p, s.me.t.trap = some (.replay core e no) →
      (s.core core).replay.find? (fun q => q.id == e && q.no == no) = some p → p.ctx ≠ s.cur → (s.ctx p.ctx).live = true →
      (s.ctx p.ctx).c.serial = p.serial → homeOf p.ctx (s.ctx p.ctx) = core → (s.ctx p.ctx).frames = [] →
      (s.ctx p.ctx).t.join = none →
      ends ∧ (t.ctx p.ctx).st = .free ∧ ∀ q ∈ (t.core core).replay, q.ofTask p.ctx p.serial = false)

/-- TRAP, BREAK, BREAK_16, ILLH and an undecodable word take their exceptions, whatever the mode (R64, R74, R461). ILLH and
an undecodable word have no well-formed encoding of their own: they raise UND. An access that a check refuses has no effect
and raises the cause: a scalar load or store, which never raises ALIGN (R140, R141), a vector access, with the address of its
first failing element (R172), and AMO, CAS, LDAQ and STRL, which raise ALIGN on an address that is no multiple of the size
(R316). A store's XLT_STORE is otherwise (R307), but for STRL's. -/
def Obligations.TrapsRaiseTheirCauses : Prop :=
  (∀ (c : BitVec 12) (s : State), issues s (.trapI c) → exec (.trapI c) s = .next (s.raise (.trapI c) .trap 0 c.toNat)) ∧
  (∀ (c : BitVec 12) (s : State), issues s (.breakI c) → exec (.breakI c) s = .next (s.raise (.breakI c) .brk 0 c.toNat)) ∧
  (∀ (c : BitVec 10) (s : State), issues s (.break16 c) → exec (.break16 c) s = .next (s.raise (.break16 c) .brk 0 c.toNat)) ∧
  (∀ (x : BitVec 10) (s : State), exec (.illh x) s = .next (s.raise (.illh x) .und 0 0)) ∧
  (∀ (x : BitVec 32) (s : State), exec (.ill x) s = .next (s.raise (.ill x) .und 0 0)) ∧
  (∀ (i : Instr) (s : State) (f : LoadForm) (c : Cause) (a : Word), loadForm i = some f → issues s i → sourcesReady f.pops s →
    s.me.room f.d = true → s.unitParked (f.ea s) f.n = false → s.check s.who .load (f.ea s) f.n = .error (c, a) →
    c.precise = true → exec i s = .next (s.raise i c a 0)) ∧
  (∀ (i : Instr) (s : State) (f : StoreForm) (c : Cause) (a : Word), storeForm i = some f → issues s i → sourcesReady f.pops s →
    (f.value s).isSome = true → s.unitParked (f.ea s) f.n = false → s.check s.who .store (f.ea s) f.n = .error (c, a) →
    c.precise = true → ¬ (c = .xltStore ∧ stepOf a.toNat c = 2) → exec i s = .next (s.raise i c a 0)) ∧
  (∀ (i : Instr) (s : State) (f : VecAccess) (c : Cause) (a : Word) (x : Bool), issues s i → f.ready s →
    s.piecesParked (f.pieces s) = false → c.precise = true →
    (vecLoad i = some f → s.checkPieces .load f.align (f.pieces s) = .error (c, a, x) → exec i s = .next (s.raise i c a 0)) ∧
    (vecStore i = some f → s.checkPieces .store f.align (f.pieces s) = .error (c, a, x) → ¬ (x = true ∧ c = .xltStore) →
      exec i s = .next (s.raise i c a 0))) ∧
  (∀ (i : Instr) (s : State) (a : WReg) (o : BitVec 2) (n : Nat), atomicForm i = some (a, o, n) → issues s i →
    ((s.w a).toNat % n ≠ 0 → exec i s = .next (s.raise i .align (s.w a) 0)) ∧
    (∀ c x, (s.w a).toNat % n = 0 → (o.getLsbD 1 = true → s.hasParked = false) → s.unitParked (s.w a) n = false →
      rmwChecked (s.check s.who .store (s.w a) n) (s.check s.who .load (s.w a) n) = .error (c, x) → c.precise = true →
      exec i s = .next (s.raise i c x 0))) ∧
  (∀ (d a : WReg) (z : BitVec 2) (c : BitVec 3) (s : State), issues s (.ldaq d a z c) →
    ((s.w a).toNat % 2 ^ z.toNat ≠ 0 → exec (.ldaq d a z c) s = .next (s.raise (.ldaq d a z c) .align (s.w a) 0)) ∧
    (∀ e x, (s.w a).toNat % 2 ^ z.toNat = 0 → s.unitParked (s.w a) (2 ^ z.toNat) = false →
      s.check s.who .load (s.w a) (2 ^ z.toNat) = .error (e, x) → e.precise = true →
      exec (.ldaq d a z c) s = .next (s.raise (.ldaq d a z c) e x 0))) ∧
  (∀ (d a : WReg) (z : BitVec 2) (c : BitVec 3) (s : State), issues s (.strl d a z c) →
    ((s.w a).toNat % 2 ^ z.toNat ≠ 0 → exec (.strl d a z c) s = .next (s.raise (.strl d a z c) .align (s.w a) 0)) ∧
    (∀ e x, (s.w a).toNat % 2 ^ z.toNat = 0 → s.hasParked = false →
      s.check s.who .store (s.w a) (2 ^ z.toNat) = .error (e, x) → e.precise = true →
      exec (.strl d a z c) s = .next (s.raise (.strl d a z c) e x 0)))

/-- Retirement adds 1 to c.ret, clears psw.PP and a wait, and moves the PC past the instruction, or to its target (R58, R62);
inside a REP body the PC follows the repetition. NOP does this and no more. psw.TR = 1: a BREAK with code 0xFFF follows the
instruction, with c.xpc at the next instruction (R461). -/
def Obligations.NopRetiresAndTraceBreaks : Prop :=
  (∀ s : State, issues s .nop → quiet s → s.me.rep = none →
     ∃ t, exec .nop s = .next t ∧ othersStand s t ∧ controlStands s t ∧ taskStands s t ∧ t.me.r = s.me.r ∧
       t.me.st = .ready ∧ t.me.pc = s.me.pc + 2) ∧
  (∀ s : State, issues s .nop → s.me.c.tr = true → s.me.c.s = false → s.me.rep = none →
     ∃ t, exec .nop s = .next t ∧ t.me.st = .held ∧ t.me.c.cause = 10 ∧ t.me.c.xpc = s.me.pc + 2 ∧ t.me.resume = s.me.pc + 2 ∧
       t.me.c.ret = s.me.c.ret + 1 ∧ t.me.r = s.me.r)

/-! ### Integer instructions and control flow -/

/-- Two-source integer instructions (R64, R125 to R127): A is read before B, d gets bits 63:0 of the result and the l file is
pushed. A write to w0 is discarded and the push still happens (R66). -/
def Obligations.IntegerBinaryResults : Prop :=
  ∀ (i : Instr) (s : State) (d a b : Opnd) (f : Word → Word → Word → Int) (x y : Word),
    intBinary i = some (d, a, b, f) → issues s i → s.me.r.val2 a b = some (x, y) → s.me.room d = true →
    exec i s = retires i ((s.pop2 a b).result d (BitVec.ofInt 64 (f (s.me.r.old d) x y)))

/-- One-source integer instructions, bit fields and immediates (R64, R128 to R132). -/
def Obligations.IntegerUnaryResults : Prop :=
  ∀ (i : Instr) (s : State) (d a : Opnd) (f : Word → Word → Int) (x : Word),
    intUnary i = some (d, a, f) → issues s i → s.me.r.val a = some x → s.me.room d = true →
    exec i s = retires i ((s.pop a).result d (BitVec.ofInt 64 (f (s.me.r.old d) x)))

/-- LI, LIS, LPC and LI_16 (R64, R133). -/
def Obligations.ImmediateResults : Prop :=
  ∀ (i : Instr) (s : State) (d : Opnd) (f : Word → Word → Int),
    intNullary i = some (d, f) → issues s i → s.me.room d = true →
    exec i s = retires i (s.result d (BitVec.ofInt 64 (f (s.me.r.old d) s.me.pc)))

/-- The frame of the register forms above: where one has its effect, the l file is pushed, and every register but the
destination and the queues it names, every control register but c.ret and psw.PP, every flag, and everything outside the
context stands; every byte of memory reads as before, but for the registers in the task's own workspace. -/
def Obligations.IntegerFormsChangeOnlyTheirDestination : Prop :=
  ∀ (i : Instr) (s : State) (d a b : Opnd) (f : Word → Word → Word → Int) (x y : Word),
    (intBinary i = some (d, a, b, f) ∨
      (b = .w 0 ∧ ∃ g, intUnary i = some (d, a, g)) ∨ (a = .w 0 ∧ b = .w 0 ∧ ∃ g, intNullary i = some (d, g))) →
    issues s i → quiet s → s.me.live = true → s.me.r.val2 a b = some (x, y) → s.me.room d = true →
    ∃ t z, exec i s = .next t ∧ othersStand s t ∧ controlStands s t ∧ taskStands s t ∧ registersStand s t d [a, b] ∧
      pushed s t z ∧ (∀ n : WReg, n ≠ 0 → d = .w n → t.me.r.getW n = z) ∧ ∀ k, notOwn s k → t.peek k = s.peek k

/-- An empty queue as a source, or a full queue as a destination, makes an integer instruction, a scalar load or store, or a
floating-point instruction wait with nothing popped, written or counted; VBCAST, VINS and VEXTR wait in the vector stream, and the
scalar stream goes on (R41). -/
def Obligations.QueuesMakeTheInstructionWait : Prop :=
  (∀ (i : Instr) (s : State) (d a b : Opnd), issues s i → runsHere s i →
    ((∃ f, intBinary i = some (d, a, b, f)) ∨ (∃ f r, fopBits i = some (d, a, b, r, f)) ∨
      ∃ p, fopTwo i = some p ∧ p.d = d ∧ p.a = a ∧ p.b = b) →
    (s.me.r.val2 a b = none ∨ s.me.room d = false) → exec i s = .next (s.waiting .queue)) ∧
  (∀ (i : Instr) (s : State) (d a : Opnd), issues s i → runsHere s i →
    ((∃ f, intUnary i = some (d, a, f)) ∨ (∃ r f g, fopOne i = some (d, a, r, f, g)) ∨ i = .fclassD d a ∨ i = .fclassS d a ∨
      ∃ r p q, i = .fcvt d a r p q) →
    (s.me.r.val a = none ∨ s.me.room d = false) → exec i s = .next (s.waiting .queue)) ∧
  (∀ (i : Instr) (s : State) (d : Opnd) (f : Word → Word → Int), intNullary i = some (d, f) → issues s i → s.me.room d = false →
    exec i s = .next (s.waiting .queue)) ∧
  (∀ (i : Instr) (s : State) (f : LoadForm), loadForm i = some f → issues s i → (¬ sourcesReady f.pops s ∨ s.me.room f.d = false) →
    exec i s = .next (s.waiting .queue)) ∧
  (∀ (i : Instr) (s : State) (f : StoreForm), storeForm i = some f → issues s i → (¬ sourcesReady f.pops s ∨ f.value s = none) →
    exec i s = .next (s.waiting .queue)) ∧
  (∀ (i : Instr) (s : State) (d : VReg) (a b : Opnd) (z : Sz), issues s i → quiet s →
    (i = .vbcast d a z ∧ s.me.r.val a = none) ∨ (i = .vins d a b z ∧ s.me.r.val2 a b = none) ∨
      (i = .vextr d a b z ∧ s.me.r.val b = none) →
    ∃ t, exec i s = .next t ∧ t.me.st = .ready ∧ t.me.c.ret = s.me.c.ret + 1 ∧ t.me.r = s.me.r ∧
      ∃ v l, t.me.vs = (s.me.vs ++ [v]).map (fun (x : Behind) => { x with age := x.age + 1 }) ∧ v.later = some l ∧ l.ins = i)

/-- JMP, J and CALL jump by a signed number of halfwords from their own address; CALL first writes w31 with the address after
it and pushes it (R64, R134). JR reads its target, clears its bit 0, and then links, but for d = w0, which writes and pushes
nothing; JR_16 is JR w0, a, 0 (R62, R64, R135). -/
def Obligations.JumpsGoToTheirTargets : Prop :=
  (∀ (o : BitVec 24) (s : State), issues s (.jmp o) → exec (.jmp o) s = jumps (.jmp o) (halfwordsFrom s.me.pc o.toInt) s) ∧
  (∀ (o : BitVec 10) (s : State), issues s (.j o) → exec (.j o) s = jumps (.j o) (halfwordsFrom s.me.pc o.toInt) s) ∧
  (∀ (o : BitVec 24) (s : State), issues s (.call o) →
    exec (.call o) s = jumps (.call o) (halfwordsFrom s.me.pc o.toInt) (s.result (.w 31) (s.me.pc + 4))) ∧
  (∀ (d a : Opnd) (i : BitVec 12) (s : State) (x : Word), issues s (.jr d a i) → s.me.r.val a = some x → s.me.room d = true →
    exec (.jr d a i) s = jumps (.jr d a i) (BitVec.ofInt 64 ((x.toNat + i.toInt) / 2 * 2))
      (if d = .w 0 then s.pop a else (s.pop a).result d (s.me.pc + 4))) ∧
  (∀ (a : WReg) (s : State), issues s (.jr16 a) →
    exec (.jr16 a) s = jumps (.jr16 a) (BitVec.ofNat 64 ((s.me.r.getW a).toNat / 2 * 2)) s)

/-- Branches (R64, R136): taken where the condition holds, else past the branch; neither writes a register nor pushes. -/
def Obligations.BranchesFollowTheirConditions : Prop :=
  (∀ (i : Instr) (s : State) (a b : Opnd) (o : Int) (c : Word → Word → Prop) (x y : Word),
    branches i = some (a, b, o, c) → issues s i → s.me.r.val2 a b = some (x, y) →
    (c x y → exec i s = jumps i (halfwordsFrom s.me.pc o) (s.pop2 a b)) ∧ (¬ c x y → exec i s = retires i (s.pop2 a b))) ∧
  (∀ (i : Instr) (s : State) (a : WReg) (o : Int) (c : Word → Prop),
    branches16 i = some (a, o, c) → issues s i →
    (c (s.me.r.getW a) → exec i s = jumps i (halfwordsFrom s.me.pc o) s) ∧ (¬ c (s.me.r.getW a) → exec i s = retires i s))

/-! ### Scalar loads and stores -/

/-- Scalar loads (R64, R139, R142) whose access passes its checks: d gets the bytes, little-endian, sign- or zero-extended. -/
def Obligations.LoadResults : Prop :=
  ∀ (i : Instr) (s u : State) (f : LoadForm) (b : List Byte),
    loadForm i = some f → issues s i → sourcesReady f.pops s → s.me.room f.d = true → s.load (f.ea s) f.n = .ok b u →
    exec i s = retires i ((popAll f.pops u).result f.d (BitVec.ofInt 64 (loaded f.signed b)))

/-- Scalar stores (R64, R139, R142) whose access passes its checks store the low n bytes of the value, and write no register.
One whose translation fails parks in the replay queue of its core (R307): it retires, and an entry holds its address, its
data, whose it is and the address that failed, with a trap record and a request to the service core (R452, R454); a full
queue makes it wait. That STX reads its data after its address, and that a task with no home core has no queue to park in, is
the model's choice (logs 22 and 19). -/
def Obligations.StoresComplete : Prop :=
  (∀ (i : Instr) (s u : State) (f : StoreForm) (x : Word),
     storeForm i = some f → issues s i → sourcesReady f.pops s → f.value s = some x →
     s.store (f.ea s) (natLe f.n x.toNat) = .ok () u → exec i s = retires i (popAll f.pops u)) ∧
  (∀ (i : Instr) (s : State) (f : StoreForm) (x a : Word),
     storeForm i = some f → issues s i → sourcesReady f.pops s → f.value s = some x → s.unitParked (f.ea s) f.n = false →
     s.check s.who .store (f.ea s) f.n = .error (.xltStore, a) → stepOf a.toNat .xltStore = 2 →
     let parks := s.parkIn s.cur s.who a false [(f.ea s, numbered (natLe f.n x.toNat))] (s.me.bits i) s.me.pc none
     (8192 ≤ homeOf s.cur s.me → exec i s = .next (s.raise i .xltStore a 0)) ∧
     (homeOf s.cur s.me < 8192 → parks = none → exec i s = .next (s.waiting .replay)) ∧
     (∀ u, homeOf s.cur s.me < 8192 → parks = some u → exec i s = retires i (popAll f.pops u))) ∧
  (∀ (s : State) (k : Nat) (w : Who) (fail xpc : Word) (vec : Bool) (parts : List (Word × List (Nat × Byte))) (bits : Nat)
     (payer : Option Dom), Memory.wf s.mem = true →
     let c := (s.ctx k).c
     let core := homeOf k (s.ctx k)
     let parks := s.parkIn k w fail vec parts bits xpc payer
     ((∀ e, e < 8 → ∃ q ∈ (s.core core).replay, q.id = e) → parks = none) ∧
     ((∃ e, e < 8 ∧ ∀ q ∈ (s.core core).replay, q.id ≠ e) → ∃ u, parks = some u) ∧
     (∀ u, parks = some u → ∃ p : Parked, p.id < 8 ∧ (∀ q ∈ (s.core core).replay, q.id ≠ p.id) ∧
       (u.core core).replay = (s.core core).replay ++ [p] ∧ p.ctx = k ∧ p.serial = c.serial ∧ p.parts = parts ∧ p.fail = fail ∧
       p.dom = w.dom ∧ p.go = false ∧
       Memory.bytes u.mem (replayKey core p.id) 64 =
         recordBytes 7 xpc (c.psw.setWidth 64) fail bits 0 xpc c.serial w.dom (numOf k) ∧
       ∃ r ∈ (u.flight (flightOf core)).supq ++ (u.flight (flightOf core)).supWait,
         r.trap = .replay core p.id p.no ∧ r.cause = .xltStore ∧ r.tval = fail ∧ r.dom = w.dom))

/-- What a load leaves: every byte of memory, and everything but the destination, the l file, c.ret, and outside the context the
translations kept, the egress charged, and a request to another chip with its free bytes (log 32). -/
def Obligations.LoadsChangeOnlyTheirDestination : Prop :=
  ∀ (i : Instr) (s u : State) (f : LoadForm) (b : List Byte),
    loadForm i = some f → issues s i → quiet s → s.me.live = true → sourcesReady f.pops s → s.me.room f.d = true →
    s.load (f.ea s) f.n = .ok b u →
    ∃ t, exec i s = .next t ∧ loadStands s t ∧ controlStands s t ∧ taskStands s t ∧
      registersStand s t f.d f.pops ∧ pushed s t (BitVec.ofInt 64 (loaded f.signed b)) ∧
      ∀ k, notOwn s k → t.peek k = s.peek k

/-- What a store leaves: every byte outside the places that the check of its own address gives, and everything else but what it
keeps of bytes and lines; where none of those places is a register of the task's own workspace, every register too. -/
def Obligations.StoresChangeOnlyTheirBytes : Prop :=
  ∀ (i : Instr) (s u : State) (f : StoreForm) (x : Word) (l : List Where),
    storeForm i = some f → issues s i → quiet s → s.me.live = true → canonical s → sourcesReady f.pops s →
    f.value s = some x → s.check s.who .store (f.ea s) f.n = .ok l → s.store (f.ea s) (natLe f.n x.toNat) = .ok () u →
    ∃ t, exec i s = .next t ∧ storeStands s t ∧ controlStands s t ∧ taskStands s t ∧
      (∀ k, k ∉ l.map Where.key → t.peek k = s.peek k) ∧
      ((∀ p ∈ l, notOwn s p.key) → registersStand s t (.w 0) f.pops ∧ t.me.r.l = s.me.r.l)

/-- The bytes stored read back (R139, R140, R142), each from the place that the check gives, where the places differ, none
holds an entry of a run queue's overflow area (R274), and no saved image of a core or flight stands (R469, R472). That STX
reads its data after its address is the model's choice (log 22). -/
def Obligations.StoredBytesReadBack : Prop :=
  ∀ (i : Instr) (s u : State) (f : StoreForm) (x : Word) (l : List Where),
    storeForm i = some f → issues s i → quiet s → s.me.live = true → canonical s → sourcesReady f.pops s →
    f.value s = some x → s.images = [] → s.check s.who .store (f.ea s) f.n = .ok l →
    s.store (f.ea s) (natLe f.n x.toNat) = .ok () u → (l.map Where.key).Nodup →
    (∀ p ∈ l, isSpad p.key = true → (s.core (spadCore p.key)).overflowByte (spadOff p.key) = none) →
    ∃ t, exec i s = .next t ∧ t.peeks l = natLe f.n x.toNat

/-! ### Atomic and ordering instructions -/

/-- AMO and AMO.W (R316, R318, R319) on an aligned word whose access passes its checks: the operation's result is stored, its
flags accrue, d gets the old value, and the access is a release and an acquire as its ordering says. A release waits for the
task's parked stores. CAS and CAS.W (R320): B is stored where the old value equals the expected value in d; d gets the old
value. One that fails stores nothing and is no release. -/
def Obligations.AtomicOperationsStoreTheirResult : Prop :=
  (∀ (i : Instr) (s u : State) (f : AmoForm) (old : List Byte),
     amoForm i = some f → issues s i → (s.w f.a).toNat % f.n = 0 → (f.o.getLsbD 1 = true → s.hasParked = false) →
     let v := (s.w f.b).toNat % 2 ^ (8 * f.n)
     s.rmw (s.w f.a) f.n (fun old => some (natLe f.n (f.op (leNat old) v).1)) = .ok old u →
     exec i s = retires i
       (((ordered s u (s.w f.a) f.n f.o f.c).onCsr (·.accrue (f.op (leNat old) v).2)).resultW f.d
         (BitVec.ofInt 64 (loaded f.signed old)))) ∧
  (∀ (i : Instr) (s u : State) (d a b : WReg) (o : BitVec 2) (c : BitVec 3) (n : Nat) (old : List Byte),
     (i = .cas d a b o c ∧ n = 8) ∨ (i = .casW d a b o c ∧ n = 4) →
     issues s i → (s.w a).toNat % n = 0 → (o.getLsbD 1 = true → s.hasParked = false) →
     let want := (s.w d).toNat % 2 ^ (8 * n)
     s.rmw (s.w a) n (fun old => if leNat old = want then some (natLe n (s.w b).toNat) else none) = .ok old u →
     (leNat old = want → exec i s = retires i
       ((ordered s u (s.w a) n o c).resultW d (BitVec.ofInt 64 (loaded (n == 4) old)))) ∧
     (leNat old ≠ want → exec i s = retires i
       ((if o.getLsbD 0 then u.acquire s.rels (s.w a) n c else u).resultW d (BitVec.ofInt 64 (loaded (n == 4) old)))))

/-- LDAQ, STRL, WAITM, FENCE, PAUSE and PAUSE_16 complete (R317, R321 to R323): LDAQ acquires and gives the zero-extended
value, STRL stores and releases once the task has no parked store, WAITM gives the value once its condition holds, FENCE waits
for the replay queue and, as .eng, for the task's engine and loft commands, and as .xlt with stores-before makes later fetches
observe every store so far; PAUSE n has retired and issues nothing in the n cycles that follow, PAUSE 0 not in its next slot. -/
def Obligations.OrderedAccessesComplete : Prop :=
  (∀ (d a : WReg) (z : BitVec 2) (c : BitVec 3) (s u : State) (b : List Byte),
    issues s (.ldaq d a z c) → (s.w a).toNat % 2 ^ z.toNat = 0 → s.load (s.w a) (2 ^ z.toNat) = .ok b u →
    exec (.ldaq d a z c) s =
      .next (((u.acquire u.rels (s.w a) (2 ^ z.toNat) c).resultW d (BitVec.ofNat 64 (leNat b))).retire false none 4)) ∧
  (∀ (d a : WReg) (z : BitVec 2) (c : BitVec 3) (s u : State),
    issues s (.strl d a z c) → (s.w a).toNat % 2 ^ z.toNat = 0 → s.hasParked = false →
    s.store (s.w a) (natLe (2 ^ z.toNat) (s.w d).toNat) = .ok () u →
    exec (.strl d a z c) s =
      .next ((u.chain [] (u.relPlaces (s.w a) (2 ^ z.toNat)) (some (u.myRel c))).retire false none 4)) ∧
  (∀ (d a b : WReg) (k : BitVec 4) (o : BitVec 2) (c : BitVec 3) (s u : State) (y : List Byte),
    issues s (.waitm d a b k o c) → (s.w a).toNat % 8 = 0 → s.load (s.w a) 8 = .ok y u →
    (let v := BitVec.ofNat 64 (leNat y)
     (k = 0 ∧ v ≠ s.w b) ∨ (k = 1 ∧ v = s.w b) ∨ (k = 2 ∧ (v - s.w b).toNat < 2 ^ 63) ∨ (k = 3 ∧ v &&& s.w b ≠ 0)) →
    exec (.waitm d a b k o c) s =
      .next (((if o.getLsbD 0 then u.acquire u.rels (s.w a) 8 c else u).resultW d (BitVec.ofNat 64 (leNat y))).retire false none 4)) ∧
  (∀ (f : BitVec 4) (k : BitVec 2) (c : BitVec 3) (s : State), issues s (.fence f k c) →
    (f.getLsbD 2 = true → s.hasParked = false ∧ (k = 1 → s.engBusy = false ∧ s.loftBusy = false)) →
    exec (.fence f k c) s = .next ((if f.getLsbD 2 = true ∧ k = 2 then s.refetch else s).retire false none 4)) ∧
  (∀ (n : BitVec 12) (s : State), issues s (.pause n) → quiet s → s.me.rep = none →
    ∃ t, exec (.pause n) s = .next t ∧ othersStand s t ∧ controlStands s t ∧ t.me.r = s.me.r ∧ t.me.pc = s.me.pc + 4 ∧
      t.me.st = .waiting (.pause (if n = 0 then none else some (s.cycle + n.toNat + 1)))) ∧
  (∀ s : State, issues s .pause16 → quiet s → s.me.rep = none →
    ∃ t, exec .pause16 s = .next t ∧ othersStand s t ∧ controlStands s t ∧ t.me.r = s.me.r ∧ t.me.pc = s.me.pc + 2 ∧
      t.me.st = .waiting (.pause none))

/-! ### Scalar floating point -/

/-- FADD, FSUB, FMUL, the fused forms, FDIV, FRCP, FRSQ and FSQRT (R153, R154, R156, R157, R159): the exact result of the
operands' values is rounded once into the format, under the mode that the select gives, with the draw that SR takes; the flags
accrue, and the pattern is zero-extended. GMATH runs so on a gondola core. FMIN, FMAX, the comparisons and the sign operations
work on patterns and round nothing, FCLASS gives the class and raises nothing (R154, R155); FCVT rounds the value of one
format into another, an I32 sign-extended (R158). -/
def Obligations.FloatResults : Prop :=
  (∀ (i : Instr) (s : State) (p : FopForm) (x y : Word),
    fopTwo i = some p → runsHere s i → issues s i → s.me.r.val2 p.a p.b = some (x, y) → s.me.room p.d = true →
    let v := fun (w : Word) => p.f.val (w.toNat % 2 ^ p.f.bits)
    let z := s.acc.round (s.me.c.mode p.r) fun m => p.f.round false m (p.exact (v (s.me.r.old p.d)) (v x) (v y) m)
    exec i s = retires i (((s.pop2 p.a p.b).rounded z.2).result p.d (BitVec.ofNat 64 z.1))) ∧
  (∀ (i : Instr) (s : State) (d a : Opnd) (r : RSel) (f : Fmt) (g : Val → Exact) (x : Word),
    fopOne i = some (d, a, r, f, g) → runsHere s i → issues s i → s.me.r.val a = some x → s.me.room d = true →
    let z := s.acc.round (s.me.c.mode r) fun m => f.round false m (g (f.val (x.toNat % 2 ^ f.bits)))
    exec i s = retires i (((s.pop a).rounded z.2).result d (BitVec.ofNat 64 z.1))) ∧
  (∀ (i : Instr) (s : State) (d a b : Opnd) (f : Fmt) (g : Nat → Nat → Nat × Flags) (x y : Word),
    fopBits i = some (d, a, b, f, g) → issues s i → s.me.r.val2 a b = some (x, y) → s.me.room d = true →
    let z := g (x.toNat % 2 ^ f.bits) (y.toNat % 2 ^ f.bits)
    exec i s = retires i (((s.pop2 a b).onCsr (·.accrue z.2)).result d (BitVec.ofNat 64 z.1))) ∧
  (∀ (d a : Opnd) (s : State) (x : Word), s.me.r.val a = some x → s.me.room d = true →
    (issues s (.fclassD d a) → exec (.fclassD d a) s =
      retires (.fclassD d a) ((s.pop a).result d (BitVec.ofNat 64 (Fmt.classOf .fp64 x.toNat)))) ∧
    (issues s (.fclassS d a) → exec (.fclassS d a) s =
      retires (.fclassS d a) ((s.pop a).result d (BitVec.ofNat 64 (Fmt.classOf .fp32 (x.toNat % 2 ^ 32)))))) ∧
  (∀ (d a : Opnd) (r : RSel) (p q : Cvt) (s : State) (x : Word),
    issues s (.fcvt d a r p q) → s.me.r.val a = some x → s.me.room d = true →
    let f := Fmt.ofCvt p
    let z := s.acc.round (s.me.c.mode r) fun m => (Fmt.ofCvt q).round false m (f.val (x.toNat % 2 ^ f.bits)).exact
    exec (.fcvt d a r p q) s = retires (.fcvt d a r p q)
      (((s.pop a).rounded z.2).result d (BitVec.ofInt 64 (if q = .i32 then low32 z.1 else z.1))))

/-- MUL128 and CLMUL on a gondola core push the high half and then the low half, which d gets (R159). -/
def Obligations.WideProducts : Prop :=
  ∀ (i : Instr) (s : State) (d a b : Opnd) (g : Word → Word → Nat) (x y : Word),
    wideForm i = some (d, a, b, g) → isG s.cur = true → issues s i → s.me.r.val2 a b = some (x, y) → s.me.room d = true →
    exec i s = retires i
      (((s.pop2 a b).onRegs (·.pushL (BitVec.ofNat 64 (g x y / 2 ^ 64)))).result d (BitVec.ofNat 64 (g x y)))

/-- A GMATH instruction on a small core moves its task to a free gondola thread of the die, not counted and with the PC at
the instruction (R77); MIGRATE has retired where the task arrives, on a free thread or back on a FREE context of its home
core, d holds the new core's identity (R333), and a trace BREAK comes there (R461). Neither waits for anything: no older
instruction, and no parked store, is left. That it is the first free thread and the lowest-numbered FREE context is the
model's choice (log 65). -/
def Obligations.TasksMoveBetweenCores : Prop :=
  (∀ (i : Instr) (s : State) (k : Nat), isGmath i = true → isG s.cur = false → issues s i → s.me.c.gd = 0 →
    s.behind = none → s.hasParked = false → s.freeThread (ctxDie s.cur) = some k →
    exec i s = .next (s.moveTo k (some s.cur))) ∧
  (∀ (d : WReg) (s : State) (k : Nat), issues s (.migrate d) → isG s.cur = false → s.me.c.gd = 0 →
    s.behind = none → s.hasParked = false → s.freeThread (ctxDie s.cur) = some k →
    exec (.migrate d) s =
      .next ((((s.resultW d (coreidOf s.chip k)).retireQuiet false none 4).moveTo k (some s.cur)).tracedAt k)) ∧
  (∀ (d : WReg) (s : State) (h x : Nat), issues s (.migrate d) → isG s.cur = true → s.me.c.gd = 0 →
    s.behind = none → s.hasParked = false → s.me.t.home = some h → (s.core (coreOf h)).box = none → (s.core (coreOf h)).mode = .serving →
    s.freeCtx (coreOf h) 0 = some x →
    exec (.migrate d) s =
      .next ((((s.resultW d (coreidOf s.chip (16 * coreOf h + x))).retireQuiet false none 4).moveTo (16 * coreOf h + x)
        none).tracedAt (16 * coreOf h + x))) ∧
  (∀ (d : WReg) (s : State), issues s (.migrate d) → isG s.cur = true → s.me.c.gd = 0 → s.me.t.home = none →
    exec (.migrate d) s = retires (.migrate d) (s.resultW d (coreidOf s.chip s.cur)))

/-! ### Vector instructions on registers -/

/-- VALU and VFN (R160, R164, R171): the active elements become what the operation gives, in order of their lanes with their
draws and flags; the others stand. VSEL writes every element, from va where active and from vb elsewhere. VFMA and its kin
round once in a floating size and work modulo the width in an integer size (R165); VCMP writes every bit of an element's
bytes in the mask, 0 where inactive, with the flags of the comparisons (R166); a reduction writes element 0 and zeroes the
others (R167). VBCAST, VINS and VEXTR (R168), the rearrangements and VIOTA (R169), and the conversions (R170). That VINS
reads s before idx, and how VEXP2 and VLOG2 are computed, is the model's choice (logs 54 and 20). -/
def Obligations.VectorResults : Prop :=
  (∀ (i : Instr) (s : State) (p : LaneForm), laneForm i = some p → issues s i →
    exec i s = retires i (s.vresult p.d (Fmt.ofSz p.z).bits (lanes s p).1 (lanes s p).2 [])) ∧
  (∀ (d a b : VReg) (m : MReg) (z : Sz) (s : State), issues s (.vsel d a b m z) →
    let n := (Fmt.ofSz z).bits
    ∃ l : List Nat, l.length = 512 / n ∧
      (∀ j, j < 512 / n → l.getD j 0 = element n (s.me.r.getV (if s.me.r.active m n j then a else b)) j) ∧
      exec (.vsel d a b m z) s = retires (.vsel d a b m z) (s.vresult d n l s.acc [])) ∧
  (∀ (i : Instr) (s : State) (op : Nat) (d a b : VReg) (m : MReg) (z : Sz) (r : RSel),
    fusedForm i = some (op, d, a, b, m, z, r) → issues s i →
    let n := (Fmt.ofSz z).bits
    let q := sweep (s.me.r.active m n) (fusedLane s op d a b z r) 0 (s.vec n d) s.acc
    exec i s = retires i (s.vresult d n q.1 q.2 [])) ∧
  (∀ (k : MReg) (a b : VReg) (m : MReg) (z : Sz) (c : BitVec 6) (s : State), issues s (.vcmp k a b m z c) →
    let f := Fmt.ofSz z
    let h := fun j => laneCond f c.toNat ((s.vec f.bits a).getD j 0) ((s.vec f.bits b).getD j 0)
    let q := sweep (s.me.r.active m f.bits)
      (fun j acc => (if (h j).1 then 2 ^ (f.bits / 8) - 1 else 0, { acc with fl := acc.fl ||| (h j).2 })) 0
      (List.replicate (512 / f.bits) 0) s.acc
    exec (.vcmp k a b m z c) s = retires (.vcmp k a b m z c)
      (((s.rounded q.2).onRegs (·.setM k (BitVec.ofNat 64 (packNat (f.bits / 8) q.1)))).vectored [])) ∧
  (∀ (i : Instr) (s : State) (d a : VReg) (m : MReg) (z : Sz) (g : Fmt → RmCode → (Nat → Bool) → List Nat → Acc → Nat × Acc),
    reduceForm i = some (d, a, m, z, g) → issues s i →
    let f := Fmt.ofSz z
    let q := g f s.me.c.rm (s.me.r.active m f.bits) (s.vec f.bits a) s.acc
    exec i s = retires i (s.vresult d f.bits [q.1] q.2 [])) ∧
  (∀ (d : VReg) (a : Opnd) (z : Sz) (s : State) (x : Word), issues s (.vbcast d a z) → s.me.r.val a = some x →
    let n := (Fmt.ofSz z).bits
    exec (.vbcast d a z) s = retires (.vbcast d a z)
      (s.vresult d n (List.replicate (512 / n) (x.toNat % 2 ^ n)) s.acc [a])) ∧
  (∀ (d : VReg) (a b : Opnd) (z : Sz) (s : State) (x j : Word), issues s (.vins d a b z) → s.me.r.val2 a b = some (x, j) →
    let n := (Fmt.ofSz z).bits
    exec (.vins d a b z) s = retires (.vins d a b z)
      (s.vresult d n ((s.vec n d).set (j.toNat % (512 / n)) (x.toNat % 2 ^ n)) s.acc [a, b])) ∧
  (∀ (d : VReg) (q b : Opnd) (z : Sz) (s : State) (j : Word), issues s (.vextr d q b z) → s.me.r.val b = some j →
    let f := Fmt.ofSz z
    let x := element f.bits (s.me.r.getV d) (j.toNat % (512 / f.bits))
    let v := if f.isFloat then BitVec.ofNat 64 x else BitVec.ofInt 64 (Int.bmod x (2 ^ f.bits))
    exec (.vextr d q b z) s = retires (.vextr d q b z)
      ((s.onRegs (·.popped b)).vectoredWith (some (q != .q 2, v)) none [b])) ∧
  (∀ (i : Instr) (s : State) (d a b : VReg) (z : Sz) (g : Nat → (Nat → Nat) → (Nat → Nat) → Nat → Nat),
    permForm i = some (d, a, b, z, g) → issues s i →
    let n := (Fmt.ofSz z).bits
    exec i s = retires i (s.vresult d n
      ((List.range (512 / n)).map (g (512 / n) (element n (s.me.r.getV a)) (element n (s.me.r.getV b)))) s.acc [])) ∧
  (∀ (d : VReg) (z : Sz) (s : State), issues s (.viota d z) →
    let f := Fmt.ofSz z
    exec (.viota d z) s = retires (.viota d z) (s.vresult d f.bits
      ((List.range (512 / f.bits)).map fun i : Nat => (f.round false .rne (Val.ofInt (i : Int)).exact).1) s.acc [])) ∧
  (∀ (i : Instr) (s : State) (d : VReg) (u t : Sz) (src : Nat → State → List Nat),
    convertForm i = some (d, u, t, src) → issues s i →
    let f := Fmt.ofSz u
    let g := Fmt.ofSz t
    let xs := src f.bits s
    let q := sweep (fun _ => true) (fun j => laneCvt f g s.me.c.rm (xs.getD j 0)) 0 xs s.acc
    exec i s = retires i (s.vresult d g.bits q.1 q.2 []))

/-- VALU in the integer sizes: every active element of vd is the operation's result on the signed elements, modulo the width;
every other element, every other register, the flags and the draws stand (R111, R160, R164), but that a push which waits in
the vector stream may come to q2 or q3 (R41). -/
def Obligations.VectorIntegerElements : Prop :=
  ∀ (i : Instr) (s : State) (d a b : VReg) (m : MReg) (z : Sz) (g : Nat → Int → Int → Int),
    vecInt i = some (d, a, b, m, z, g) → issues s i → quiet s → (Fmt.ofSz z).isFloat = false →
    let n := (Fmt.ofSz z).bits
    let int := fun (v : VReg) (j : Nat) => Int.bmod (element n (s.me.r.getV v) j) (2 ^ n)
    ∃ t, exec i s = .next t ∧ othersStand s t ∧ controlStands s t ∧ taskStands s t ∧
      (∀ j, j < 512 / n → element n (t.me.r.getV d) j =
        if s.me.r.active m n j then (g n (int a j) (int b j) % 2 ^ n).toNat else element n (s.me.r.getV d) j) ∧
      (∀ v : VReg, v ≠ d → t.me.r.getV v = s.me.r.getV v) ∧ t.me.r.w = s.me.r.w ∧ t.me.r.m = s.me.r.m ∧ t.me.r.l = s.me.r.l ∧
      t.me.r.o = s.me.r.o ∧ (∀ q : BitVec 2, s.me.vs = [] ∨ q.toNat < 2 → t.me.r.getQ q = s.me.r.getQ q) ∧
      t.me.r.sc = s.me.r.sc ∧ t.me.r.cb = s.me.r.cb

/-! ### Prefixes, scales and narrow formats -/

/-- FMT makes its word the pending prefix, with psw.PP set, and changes nothing else but c.ret and the PC (R71, R238); SCSET
and SCGET write and read a scale register, and CBLD loads 32 bytes into a codebook register (R215, R222, R245). -/
def Obligations.PrefixScaleAndCodebook : Prop :=
  (∀ (a b c : BitVec 4) (r : BitVec 3) (q : Bool) (k : BitVec 3) (n : BitVec 2) (s : State),
    issues s (.fmt a b c r q k n) → quiet s → s.me.rep = none →
    ∃ t, exec (.fmt a b c r q k n) s = .next t ∧ othersStand s t ∧ t.me.r = s.me.r ∧ t.me.st = .ready ∧ t.me.pc = s.me.pc + 4 ∧
      t.me.prefix = { fa := a, fb := b, fc := c, rm := if r = 7 then s.me.c.rm else r, sat := q, sc := k, cb := n } ∧
      t.me.c = { s.me.c with ret := s.me.c.ret + 1, psw := setBit s.me.c.psw 1 true }) ∧
  (∀ (n : BitVec 2) (b : Opnd) (i : BitVec 12) (s u : State) (x : Word) (y : List Byte),
    issues s (.cbld n b i) → s.me.r.val b = some x →
    let ea := BitVec.ofInt 64 (x.toNat + i.toInt)
    ea.toNat % 32 = 0 → s.load ea 32 = .ok y u →
    exec (.cbld n b i) s = retires (.cbld n b i) (u.onRegs (·.setCb n (BitVec.ofNat 256 (leNat y))))) ∧
  (∀ (n : BitVec 3) (a : Opnd) (s : State) (x : Word), issues s (.scset n a) → s.me.r.val a = some x →
    exec (.scset n a) s = retires (.scset n a) ((s.pop a).onRegs (·.setSc n (x.setWidth 32)))) ∧
  (∀ (d : Opnd) (n : BitVec 3) (s : State), issues s (.scget d n) → s.me.room d = true →
    exec (.scget d n) s = retires (.scget d n) (s.result d ((s.me.r.getSc n).setWidth 64)))

/-- VPACK and VUNPK move elements without rounding (R247, R248): part p of VPACK replaces elements 64 p to 64 p + 63 of vd
with the low bits of va's bytes; VUNPK gives 64 codes as bytes, INT4 sign-extended, and 0 past the last. One element converted
under a prefix (VDEQ, VSCALE, VQNT): its exact value, times the scale that the prefix names, rounded once (R109, R120, R249 to
R251). -/
def Obligations.NarrowConversions : Prop :=
  (∀ (d a : VReg) (p : BitVec 3) (s : State), issues s (.vpack d a p) → s.me.prefix.packing = true →
    let n := (codeFmt s.me.prefix.fa).bits
    ∃ l : List Nat, l.length = 512 / n ∧
      (∀ k, k < 512 / n → l.getD k 0 =
        if 64 * p.toNat ≤ k ∧ k < 64 * p.toNat + 64 then element 8 (s.me.r.getV a) (k - 64 * p.toNat) % 2 ^ n
        else element n (s.me.r.getV d) k) ∧
      exec (.vpack d a p) s = retires (.vpack d a p) (s.vresult d n l s.acc [])) ∧
  (∀ (i : Instr) (d a : VReg) (base : Nat) (s : State),
    (i = .vunpkLo d a ∧ base = 0) ∨ (i = .vunpkHi d a ∧ base = 64) → issues s i → s.me.prefix.packing = true →
    let f := codeFmt s.me.prefix.fa
    ∃ l : List Nat, l.length = 64 ∧
      (∀ k, k < 64 → l.getD k 0 =
        let e := if base + k < 512 / f.bits then element f.bits (s.me.r.getV a) (base + k) else 0
        if f = .int4 then (Int.bmod e 16 % 256).toNat else e) ∧
      exec i s = retires i (s.vresult d 8 l s.acc [])) ∧
  (∀ (d a : VReg) (p : BitVec 3) (s : State), issues s (.vdeq d a p) →
    let x := s.me.prefix
    let f := codeFmt x.fa
    let g := codeFmt x.fc
    x.fb = x.fa → (f.isNarrow = true ∨ f = .c4) → g.isWide = true → p.toNat * (512 / g.bits) < 512 / f.bits →
    let q := sweep (fun _ => true) (fun k acc =>
      let j := p.toNat * (512 / g.bits) + k
      acc.round x.rm fun m => g.round x.sat m
        ((if j < 512 / f.bits then elemVal f (s.me.r.getCb x.cb) (element f.bits (s.me.r.getV a) j) else .num false 0 0).scaled
          (if x.sc = 0 then none else some (s.me.r.getSc x.sc)))) 0 (List.replicate (512 / g.bits) 0) s.acc
    exec (.vdeq d a p) s = retires (.vdeq d a p) (s.vresult d g.bits q.1 q.2 [])) ∧
  (∀ (d a : VReg) (s : State), issues s (.vscale d a) →
    let x := s.me.prefix
    let f := codeFmt x.fa
    x.fb = x.fa → x.fc = x.fa → f.isWide = true → x.sc ≠ 0 →
    let q := sweep (fun _ => true) (fun k acc =>
      acc.round x.rm fun m => f.round x.sat m ((f.val ((s.vec f.bits a).getD k 0)).scaled (some (s.me.r.getSc x.sc))))
      0 (s.vec f.bits a) s.acc
    exec (.vscale d a) s = retires (.vscale d a) (s.vresult d f.bits q.1 q.2 [])) ∧
  (∀ (d a b : VReg) (p : BitVec 3) (s : State), issues s (.vqnt d a b p) →
    let x := s.me.prefix
    let f := codeFmt x.fa
    let g := codeFmt x.fc
    let n := 512 / f.bits
    x.fb = x.fa → f.isWide = true → g.isNarrow = true → 2 * n * p.toNat < 512 / g.bits →
    let src := s.vec f.bits a ++ s.vec f.bits b
    let q := sweep (fun k => 2 * n * p.toNat ≤ k && k < 2 * n * p.toNat + 2 * n) (fun k acc =>
      acc.round x.rm fun m => g.round x.sat m ((f.val (src.getD (k - 2 * n * p.toNat) 0)).scaled
        (if x.sc = 0 then none else some (s.me.r.getSc x.sc)))) 0 (s.vec g.bits d) s.acc
    exec (.vqnt d a b p) s = retires (.vqnt d a b p) (s.vresult d g.bits q.1 q.2 []))

/-! ### Vector memory and REP -/

/-- VLD, VLDS and VGATH (R172 to R175) whose accesses pass their checks: every active element of vd becomes its bytes,
little-endian and in order of the elements; every other element, every other register but a queue that gives the stride, and
everything that a load leaves (the translations held, the egress and a request to another chip apart) stand. -/
def Obligations.VectorLoadsFillActiveElements : Prop :=
  ∀ (i : Instr) (s u : State) (f : VecAccess) (b : List Byte),
    vecLoad i = some f → issues s i → quiet s → f.ready s → s.loadPieces f.align (f.pieces s) = .ok b u →
    ∃ t, exec i s = .next t ∧ loadStands s t ∧ controlStands s t ∧ taskStands s t ∧
      (∀ j, j < 64 / f.n → element (8 * f.n) (t.me.r.getV f.d) j =
        if s.me.r.active f.m (8 * f.n) j then
          leNat ((b.drop (f.n * ((List.range j).filter (s.me.r.active f.m (8 * f.n))).length)).take f.n)
        else element (8 * f.n) (s.me.r.getV f.d) j) ∧
      (∀ v : VReg, v ≠ f.d → t.me.r.getV v = s.me.r.getV v) ∧ t.me.r.w = s.me.r.w ∧ t.me.r.m = s.me.r.m ∧
      t.me.r.l = s.me.r.l ∧ t.me.r.o = s.me.r.o ∧ t.me.r.sc = s.me.r.sc ∧ t.me.r.cb = s.me.r.cb ∧
      ∀ q : BitVec 2, .q q ∉ f.pops → s.me.vs = [] ∨ q.toNat < 2 → t.me.r.getQ q = s.me.r.getQ q

/-- VST, VSTS and VSCAT (R172 to R175) whose accesses pass their checks store the active elements, in order. What a vector
store leaves: every byte outside the places that the check of its elements gives, and everything else but what it keeps of
bytes and lines. One whose translation fails parks whole, in one entry, and retires (R307); a full queue leaves it to the
vector stream, which waits. -/
def Obligations.VectorStores : Prop :=
  (∀ (i : Instr) (s u : State) (f : VecAccess),
     vecStore i = some f → issues s i → f.ready s →
     s.storePieces f.align (f.pieces s)
       (((List.range (64 / f.n)).filter (s.me.r.active f.m (8 * f.n))).flatMap fun j =>
         natLe f.n (element (8 * f.n) (s.me.r.getV f.d) j)) = .ok () u →
     exec i s = retires i ((u.onRegs fun r => f.pops.foldl Regs.popped r).vectored f.pops)) ∧
  (∀ (i : Instr) (s u : State) (f : VecAccess) (b : List Byte) (l : List Where),
     vecStore i = some f → issues s i → quiet s → s.me.live = true → canonical s → f.ready s →
     b = ((List.range (64 / f.n)).filter (s.me.r.active f.m (8 * f.n))).flatMap (fun j =>
       natLe f.n (element (8 * f.n) (s.me.r.getV f.d) j)) →
     s.checkPieces .store f.align (f.pieces s) = .ok l → s.storePieces f.align (f.pieces s) b = .ok () u →
     ∃ t, exec i s = .next t ∧ storeStands s t ∧ controlStands s t ∧ taskStands s t ∧
       ∀ k, k ∉ l.map Where.key → t.peek k = s.peek k) ∧
  (∀ (i : Instr) (s : State) (f : VecAccess) (a : Word),
     vecStore i = some f → issues s i → f.ready s → s.piecesParked (f.pieces s) = false →
     s.checkPieces .store f.align (f.pieces s) = .error (.xltStore, a, true) → homeOf s.cur s.me < 8192 →
     let b := ((List.range (64 / f.n)).filter (s.me.r.active f.m (8 * f.n))).flatMap fun j =>
       natLe f.n (element (8 * f.n) (s.me.r.getV f.d) j)
     let parks := s.parkIn s.cur s.who a true (partsOf (f.pieces s) b) (s.me.bits i) s.me.pc none
     (∀ u, parks = some u → exec i s = retires i ((u.onRegs fun r => f.pops.foldl Regs.popped r).vectored f.pops)) ∧
     (parks = none → exec i s = .next (s.blocked i .replay)))

/-- VLDT and VSTT move one 64-byte block of a row of a READY slot of the task's domain (R20, R176). -/
def Obligations.TileBlocksMove : Prop :=
  ∀ (d : VReg) (t : Slot) (r c : BitVec 6) (s : State),
    let x := s.slot s.myCore t
    let row := if r.getLsbD 5 then (s.w (r.extractLsb' 0 5)).toNat else (r.extractLsb' 0 5).toNat
    let a := localWindow (x.base.toNat + row * shapePitch x.shape * 64 + c.toNat * 64)
    x.st = .ready → x.dom = s.me.c.dom → row < shapeRows x.shape → c.toNat * 64 < rowBytes x.shape →
    (∀ (b : List Byte) (u : State), issues s (.vldt d t r c) → s.load a 64 = .ok b u →
      exec (.vldt d t r c) s = retires (.vldt d t r c)
        ((u.onRegs (·.setV d (BitVec.ofNat 512 (leNat b)))).vectored [])) ∧
    (∀ u : State, issues s (.vstt d t r c) → (∀ q ∈ (s.core s.myCore).loftq, q.reads t = false) →
      s.store a (natLe 64 (s.me.r.getV d).toNat) = .ok () u →
      exec (.vstt d t r c) s = retires (.vstt d t r c) (u.vectored []))

/-- REP (R177 to R180): a count of 0 skips the body; any other up to 4096 begins pass 0 at the body, with the count's source
read, in a queue past the entries that older instructions are still to take (R41), and c.ret counted once; a larger one is
ENC. Within the body the PC goes to the next instruction, from the last one back to the first, and after the last pass past
the body. -/
def Obligations.RepRunsItsBody : Prop :=
  (∀ (n : BitVec 4) (c : Opnd) (k f : BitVec 5) (s : State) (count next : Word),
    issues s (.rep n c k f) → s.me.entry c = some count → s.body (s.me.pc + 4) (n.toNat + 1) = .ok next →
    (count = 0 → exec (.rep n c k f) s = jumps (.rep n c k f) next ((s.onRegs fun _ => s.me.entryTaken c).vectored [c])) ∧
    (4096 < count.toNat → exec (.rep n c k f) s = .next (s.raise (.rep n c k f) .enc 0 0)) ∧
    (count ≠ 0 → count.toNat ≤ 4096 → quiet s → s.me.rep = none →
      ∃ t, exec (.rep n c k f) s = .next t ∧ othersStand s t ∧ controlStands s t ∧ t.me.pc = s.me.pc + 4 ∧ t.me.st = .ready ∧
        t.me.r = ((s.onRegs fun _ => s.me.entryTaken c).vectored [c]).me.r ∧
        t.me.rep = some { body := s.me.pc + 4, n := n.toNat + 1, count := count.toNat, stride := k, flags := f, pass := 0,
                          index := 0 })) ∧
  (∀ (s : State) (r : Rep) (len : Nat), quiet s → s.me.rep = some r →
    let t := s.retire false none len
    let next := s.me.pc + BitVec.ofNat 64 len
    (r.index + 1 < r.n → t.me.pc = next ∧ t.me.rep = some { r with index := r.index + 1 }) ∧
    (r.index + 1 = r.n → r.pass + 1 < r.count →
      t.me.pc = r.body ∧ t.me.rep = some { r with index := 0, pass := r.pass + 1 }) ∧
    (r.index + 1 = r.n → r.pass + 1 = r.count → t.me.pc = next ∧ t.me.rep = none))

/-! ### Tile slots, reel engines and the loft -/

/-- TSET binds a slot whose base and shape meet R188; TSTATE reads the shape word or the state word (R53, R189); TDRAIN of a
slot that nothing uses gives 0, and of one that an unstarted command uses removes the command and gives 1 (R192); TFREE
empties the slot (R191); TWAIT completes once no engine and no loft uses it (R190). TSET, TFREE, TWAIT, a slot command, a
loft command and a VT form wait while an engine or a loft uses the slot they name (R184). A slot of another domain raises
TILE, once the wait is over, and for TSTATE and TDRAIN in any state but EMPTY; an EMPTY slot that must hold a tile raises it
too (R54, R184, R193). -/
def Obligations.TileSlotInstructions : Prop :=
  (∀ (t : Slot) (a b : Opnd) (s : State) (base shape : Word), issues s (.tset t a b) →
    let x := s.slot s.myCore t
    let off := base.toNat - 0x00FFFFFFFFFC0000
    let bytes := shapeRows shape * shapePitch shape * 64
    s.slotHeld t = false → (x.st = .empty ∨ (x.st = .ready ∧ x.dom = s.me.c.dom)) → s.me.r.val2 a b = some (base, shape) →
    0x00FFFFFFFFFC0000 ≤ base.toNat → base.toNat < 2 ^ 56 → base.toNat % 64 = 0 → shape.toNat < 2 ^ 52 →
    shapeCode shape ≠ 15 → shapeRows shape ≠ 0 → shapeCols shape ≠ 0 → rowBytes shape ≤ shapePitch shape * 64 →
    off + bytes ≤ 2 ^ 18 →
    (∀ g, off / 4096 ≤ g → g ≤ (off + bytes - 1) / 4096 → s.granuleFree s.myCore g = true) →
    exec (.tset t a b) s = retires (.tset t a b) ((s.pop2 a b).setSlot s.myCore t
      { shape := shape, st := .ready, dom := s.me.c.dom, base := BitVec.ofNat 18 off, launch := s.me.t.launch })) ∧
  (∀ (d : Opnd) (t : Slot) (k : Bool) (s : State), issues s (.tstate d t k) → s.me.room d = true →
    let x := s.slot s.myCore t
    (x.st = .empty ∨ x.dom = s.me.c.dom) →
    exec (.tstate d t k) s = retires (.tstate d t k) (s.result d (if k then
      BitVec.ofNat 64 (x.base.toNat + x.dom.toNat * 2 ^ 32 + (match x.st with
        | .empty => 0
        | .filling => 1
        | .ready => 2
        | .draining => 3) * 2 ^ 62)
      else x.shape))) ∧
  (∀ (d : Opnd) (t : Slot) (s : State), issues s (.tdrain d t) → s.me.room d = true →
    (∀ q ∈ (s.core s.myCore).loftq, q.reads t = false) →
    let x := s.slot s.myCore t
    ((x.st = .empty ∨ (x.st = .ready ∧ x.dom = s.me.c.dom)) →
      exec (.tdrain d t) s = retires (.tdrain d t) (s.result d 0)) ∧
    (∀ c : EngCmd, x.st.busy = true → x.dom = s.me.c.dom → (s.core s.myCore).eng.queue.find? (·.uses t) = some c →
      c.started = false →
      let gone := s.onCore s.myCore fun k =>
        { k with eng := ({ k.eng with queue := k.eng.queue.filter (·.serial != c.serial), parked :=
            k.eng.parked && !k.eng.queue.head?.any (fun (d : EngCmd) => d.serial == c.serial) }).completed c.serial }
      exec (.tdrain d t) s =
        retires (.tdrain d t) ((gone.setSlot s.myCore t { x with st := .ready }).result d 1)) ∧
    (∀ c : LoftCmd, x.st.busy = true → x.dom = s.me.c.dom → (∀ e ∈ (s.core s.myCore).eng.queue, e.uses t = false) →
      (s.core s.myCore).loftq.find? (·.drains t) = some c → c.started = false →
      exec (.tdrain d t) s = retires (.tdrain d t)
        (((s.removeLoft s.myCore (·.id == c.id)).setSlot s.myCore t { x with st := .ready }).result d 1))) ∧
  (∀ (t : Slot) (s : State), issues s (.tfree t) → s.slotHeld t = false →
    ((s.slot s.myCore t).st = .empty ∨ slotMine s t) →
    exec (.tfree t) s = retires (.tfree t) (s.setSlot s.myCore t .empty)) ∧
  (∀ (t : Slot) (s : State), issues s (.twait t) → ((s.slot s.myCore t).st = .empty ∨ slotMine s t) →
    exec (.twait t) s = retires (.twait t) s) ∧
  (∀ (t : Slot) (s : State), (s.slot s.myCore t).st ≠ .empty → (s.slot s.myCore t).dom ≠ s.me.c.dom →
     (∀ d k, issues s (.tstate d t k) → exec (.tstate d t k) s = .next (s.raise (.tstate d t k) .tile 0 0)) ∧
     (∀ d, issues s (.tdrain d t) → s.me.room d = true → (∀ q ∈ (s.core s.myCore).loftq, q.reads t = false) →
       exec (.tdrain d t) s = .next (s.raise (.tdrain d t) .tile 0 0)) ∧
     ((s.slot s.myCore t).st = .ready →
       (issues s (.twait t) → exec (.twait t) s = .next (s.raise (.twait t) .tile 0 0)) ∧
       (issues s (.tfree t) → s.slotHeld t = false → exec (.tfree t) s = .next (s.raise (.tfree t) .tile 0 0)) ∧
       (∀ a b, issues s (.tset t a b) → s.slotHeld t = false → (s.me.r.val2 a b).isSome = true →
         exec (.tset t a b) s = .next (s.raise (.tset t a b) .tile 0 0)))) ∧
  (∀ (i : Instr) (t : Slot) (s : State), issues s i → (s.slot s.myCore t).st.busy = true →
     ((i = .twait t ∨ i = .tfree t ∨ (∃ a b, i = .tset t a b) ∨ ∃ f, slotForm i = some f ∧ f.t = t) →
       exec i s = .next (s.waiting .slot)) ∧
     (namesTile i = some t → exec i s = .next (s.blocked i .slot))) ∧
  (∀ (i : Instr) (t : Slot) (s : State), issues s i →
     ((s.slot s.myCore t).st = .empty ∨ ((s.slot s.myCore t).st = .ready ∧ (s.slot s.myCore t).dom ≠ s.me.c.dom)) →
     (∀ f, slotForm i = some f → f.t = t → s.slotHeld t = false → (s.me.r.val2 f.a f.b).isSome = true →
       exec i s = .next (s.raise i .tile 0 0)) ∧
     (namesTile i = some t → (∀ d r c, i = .vstt d t r c → ∀ q ∈ (s.core s.myCore).loftq, q.reads t = false) →
       exec i s = .next (s.raise i .tile 0 0)))

/-- RGET, RPUT, RGATH and RSCAT on a READY slot of the domain, with no parked store and room in the queue of 8: the command
enters the queue with what it captures of the task and the next serial, and the slot is FILLING or DRAINING (R196, R205,
R206, R308). RCOPY, RRED and RMCAST enter the queue, and d gets their serial (R202, R203, R207 to R209); RSTAT gives the
status word (R204), in which the running command counts as queued (the model's choice, log 56); RCTX sets the weight of an
enabled core's context, and d says whether it could (R210). -/
def Obligations.EngineCommandsEnterTheQueue : Prop :=
  (∀ (i : Instr) (s : State) (f : SlotForm) (x y : Word),
     slotForm i = some f → issues s i → quiet s → slotMine s f.t →
     (∀ q ∈ (s.core s.myCore).loftq, q.reads f.t = false ∧ q.drains f.t = false) →
     s.me.r.val2 f.a f.b = some (x, y) → s.hasParked = false →
     (s.core s.myCore).eng.queue.length < 8 →
     ∃ t, exec i s = .next t ∧ controlStands s t ∧ t.me.frames = s.me.frames ∧ t.me.t = s.me.t ∧ registersStand s t (.w 0) [f.a, f.b] ∧ t.mem = s.mem ∧
       (t.core s.myCore).eng.queue = (s.core s.myCore).eng.queue ++
         [kicked s f.op f.t (everywhere s x) (if f.table then everywhere s y else y)] ∧
       (t.core s.myCore).eng.lastSerial = (s.core s.myCore).eng.lastSerial + 1 ∧
       t.slot s.myCore f.t = { s.slot s.myCore f.t with st := if f.fills then .filling else .draining } ∧
       ∀ k, k ≠ s.myCore → t.core k = s.core k) ∧
  (∀ (i : Instr) (s : State) (d a : Opnd) (op : EngOp) (x : Word),
    descForm i = some (d, a, op) → issues s i → s.me.r.val a = some x → s.me.room d = true → s.hasParked = false →
    (s.core s.myCore).eng.queue.length < 8 →
    let n := (s.core s.myCore).eng.lastSerial + 1
    let u := s.pop a
    exec i s = retires i ((u.onCore s.myCore fun k =>
      { k with eng := { k.eng with queue := k.eng.queue ++ [kicked s op 0 (everywhere s x) 0], lastSerial := n } }).result d
        (n.setWidth 64))) ∧
  (∀ (d : Opnd) (s : State), issues s (.rstat d) → s.me.room d = true →
    let e := (s.core s.myCore).eng
    e.queue.length ≤ 8 → e.weight < 256 →
    exec (.rstat d) s = retires (.rstat d) (s.result d (BitVec.ofNat 64 (e.error.toNat * 2 ^ 8 + e.weight * 2 ^ 16 +
      (if e.queue.head?.any (·.started) then 2 ^ 26 else 0) + (if e.parked = true ∨ (s.engOn s.myCore = false ∧ e.queue ≠ []) then 2 ^ 27 else 0) +
      e.queue.length * 2 ^ 28 +
      e.lastSerial.toNat * 2 ^ 32 + e.doneSerial.toNat * 2 ^ 48)))) ∧
  (∀ (d a b : Opnd) (s : State) (c v : Word), issues s (.rctx d a b) → s.me.r.val2 a b = some (c, v) → s.me.room d = true →
    let core := s.myCore / 32 * 32 + c.toNat
    if c.toNat < 32 ∧ s.coreEnabled core = true ∧ 1 ≤ v.toNat ∧ v.toNat ≤ 255 then
      exec (.rctx d a b) s = retires (.rctx d a b)
        (((s.pop2 a b).onCore core fun k => { k with eng := { k.eng with weight := v.toNat } }).result d 0)
    else exec (.rctx d a b) s = retires (.rctx d a b) ((s.pop2 a b).result d 1))

/-- LBLD, LMM and LDRN on a READY slot of the domain enter the loft queue of 4, under the prefix or, unprefixed, under the
formats of R239, once the checks of R219, R228, R229, R239 and R240 hold; draws under SR are taken at entry (R115), and LDRN's
slot is FILLING. LSWAP, LZERO and LSTAT enter the loft queue, or, while it is full or an older vector-stream instruction is
incomplete, wait in the vector stream (R213, R241 to R243); entry declares the rows that a command names (R228); LPRI sets the
task's stamp (R218); LFENCE completes once no loft command of the task is left (R217). The codebook of an unprefixed
command is log 23; how many draws LBLD and LDRN take, and what waits in the vector stream, are logs 53 and 12. -/
def Obligations.LoftCommandsEnterTheQueue : Prop :=
  (∀ (t : Slot) (s : State),
     let core := s.myCore
     let x := s.slot core t
     let code := shapeCode x.shape
     let m := shapeRows x.shape
     slotMine s t → (s.core core).loftq.length < 4 → (∀ v ∈ s.me.vs, v.cmd = none) →
     (∀ tr : Bool, issues s (.lbld t tr) →
       let p := if s.me.c.pp then s.me.prefix else unprefixed code code code 0
       let b := codeFmt p.fb
       let c := codeFmt p.fc
       m = (if tr then 128 else 64) → shapeCols x.shape = (if tr then 64 else 128) → p.fb = code → p.fc = p.fa →
       c.isLoft = true → (b.isLoft = true ∨ (b = .c4 ∧ c = .bf16 ∧ p.sc = 0)) →
       let rounds := p.sc ≠ 0 ∨ (if b = .c4 then .bf16 else b) ≠ c
       exec (.lbld t tr) s = retires (.lbld t tr) (((s.enter { s.loftBlank (.lbld tr) t with
         fa := p.fa, fb := p.fb, fc := p.fc, rm := p.rm, sat := p.sat, scale := s.me.r.scaleOf p,
         cb := s.me.r.getCb p.cb }).skipDraws p.rm (if rounds then 8192 else 0)).vectored [])) ∧
     (∀ (r0 : BitVec 4) (e : BitVec 2) (acc : Bool) (ty : RowType), issues s (.lmm r0 e t acc) →
       let l := s.loft (octetOf core)
       let bank := if l.active then l.bank1 else l.bank0
       let a := codeFmt code
       let p := if s.me.c.pp then s.me.prefix else unprefixed code bank.fmt 0 0
       shapeCols x.shape = 64 → r0.toNat + m ≤ 16 → bank.filled = true → bank.dom = s.me.c.dom →
       accType a (codeFmt bank.fmt) = some ty → (a.isLoft = true ∨ a = .c4) → p.fa = code → p.fb = bank.fmt → p.sc = 0 →
       (s.me.c.pp = true → p.fc = if ty = .fp64 then 0 else 12) → (e = 3 ↔ a = .bool1) →
       (acc = true → ∀ i, i < m → (s.row core (r0.toNat + i)).mine s.me.c.dom = true ∧ (s.row core (r0.toNat + i)).fits ty = true) →
       exec (.lmm r0 e t acc) s = retires (.lmm r0 e t acc) (((s.enter
         { s.loftBlank (.lmm r0.toNat e acc) t with
           fa := p.fa, fb := p.fb, fc := p.fc, rm := p.rm, sat := p.sat, cb := s.me.r.getCb p.cb, types := [ty],
           bank := l.active, rows := m }).skipDraws p.rm (if ty = .fp64 then 128 * m else 0)).vectored [])) ∧
     (∀ r0 : BitVec 4, issues s (.ldrn r0 t) →
       let p := if s.me.c.pp then s.me.prefix else unprefixed 0 0 code s.me.c.rm
       let rows := (List.range m).map fun i => s.row core (r0.toNat + i)
       shapeCols x.shape ≤ 128 → r0.toNat + m ≤ 16 → code ≠ 10 → (∀ y ∈ rows, y.mine s.me.c.dom = true) → p.fc = code →
       p.fb = p.fa → (s.me.c.pp = true → ∀ y ∈ rows, y.ty = .zero ∨ p.fa = if y.ty = .int64 then 12 else 0) →
       exec (.ldrn r0 t) s = retires (.ldrn r0 t) ((((s.enter { s.loftBlank (.ldrn r0.toNat) t with
         fc := code, rm := p.rm, sat := p.sat, scale := s.me.r.scaleOf p, types := rows.map (·.ty), rows := m }).skipDraws p.rm
           (m * shapeCols x.shape)).setSlot core t { x with st := .filling }).vectored []))) ∧
  (∀ (i : Instr) (c : LoftCmd) (s : State), issues s i →
    (i = .lswap ∧ c = s.loftBlank .lswap 0) ∨
      (∃ d, i = .lstat d ∧ c = s.loftBlank (.lstat (d != .q 2)) 0) ∨
      (∃ r0 m, i = .lzero r0 m ∧ r0.toNat + m.toNat < 16 ∧
        c = { s.loftBlank (.lzero r0.toNat (m.toNat + 1)) 0 with rows := m.toNat + 1 }) →
    (s.me.vs = [] → (s.core s.myCore).loftq.length < 4 → exec i s = retires i ((s.enter c).vectored [])) ∧
    ((s.me.vs ≠ [] ∨ 4 ≤ (s.core s.myCore).loftq.length) →
      exec i s = retires i (s.vectoredWith none (some c) []))) ∧
  (∀ (s : State) (c : LoftCmd), (s.core s.myCore).loftq = [] → c.op ≠ .lswap →
    let q := ((s.enter c).core s.myCore)
    q.loftq.map (·.id) = [s.seq] ∧ ∀ r, r < 16 → (find q.rows r .zero).tag =
      if (c.declares r).isSome then some c.dom else (s.row s.myCore r).tag) ∧
  (∀ (p : BitVec 2) (w : BitVec 4) (s : State), issues s (.lpri p w) → quiet s → s.me.rep = none →
    ∃ t, exec (.lpri p w) s = .next t ∧ othersStand s t ∧ controlStands s t ∧ t.me.r = s.me.r ∧
      t.me.t = { s.me.t with prio := p, weight := w }) ∧
  (∀ s : State, issues s .lfence →
    (∀ c ∈ (s.core s.homeCore).loftq, ¬ (c.ctx = s.cur ∧ c.task = s.me.c.serial)) → (∀ v ∈ s.me.vs, v.cmd = none) →
    exec .lfence s = retires .lfence (s.vectored []))

/-! ### Helpers, messages, forks, barriers, launches and timelines -/

/-- START starts a helper in the lowest-numbered free helper context of the core, with the entry in w(a), the payload o0 to
o3 and the issuer's domain and launch, and d gets its number, where hardware reads a good line of the domain's table (R371,
R448); with no free context, or after the deadline, d gets 0 (R18, R29, R145), and with no free workspace too (log 47). HWAIT
completes once no helper that its mask names lives (R147). SLEEP gives 1 for a set latch, which it clears, and 0 at its limit
(R149). SELF gives the identity word (R150). -/
def Obligations.HelperInstructions : Prop :=
  (∀ (d a : WReg) (s : State), issues s (.start d a) → quiet s → s.me.live = true → s.me.c.gd = 0 → s.hasParked = false →
    let late := ∃ l, s.launch? s.me.t.launch = some l ∧ l.expired = true
    ((late ∨ s.hasWs s.myCore = false ∨ s.freeCtx s.myCore 1 = none) →
      exec (.start d a) s = retires (.start d a) (s.resultW d 0)) ∧
    (∀ i, ¬ late → s.hasWs s.myCore = true → s.freeCtx s.myCore 1 = some i →
      spaceGood s (s.flightPart (flightOf s.myCore)) s.me.c.dom →
      ∃ t, exec (.start d a) s = .next t ∧ controlStands s t ∧ taskStands s t ∧ pushed s t (BitVec.ofNat 64 i) ∧
        (d ≠ 0 → t.me.r.getW d = BitVec.ofNat 64 i) ∧ 1 ≤ i ∧
        let h := t.ctx (16 * s.myCore + i)
        h.st = .ready ∧ h.pc = s.w a &&& ~~~ 1 ∧ h.r.getW 1 = s.me.r.getO 0 ∧ h.r.getW 2 = s.me.r.getO 1 ∧
        h.r.getW 3 = s.me.r.getO 2 ∧ h.r.getW 4 = s.me.r.getO 3 ∧ h.c.dom = s.me.c.dom ∧ h.c.lrec = s.me.c.lrec ∧
        h.c.psw = startPsw false false false ∧ h.t.launch = s.me.t.launch ∧ h.t.kind = .helper ∧
        h.t.starter = s.me.c.serial)) ∧
  (∀ (a : WReg) (s : State), issues s (.hwait a) → s.helperLive (s.w a) = false →
    exec (.hwait a) s = retires (.hwait a) s) ∧
  (∀ (d a : WReg) (s : State), issues s (.sleep d a) → quiet s → s.me.rep = none → (s.me.wake = true ∨ s.me.wokeBy.isSome = true) →
    ∃ t, exec (.sleep d a) s = .next t ∧ othersStand s t ∧ controlStands s t ∧ t.me.wake = false ∧ t.me.pc = s.me.pc + 4 ∧
      pushed s t (if s.me.wake then 1 else 0) ∧ (d ≠ 0 → t.me.r.getW d = if s.me.wake then 1 else 0)) ∧
  (∀ (d : WReg) (s : State), issues s (.selfId d) →
    exec (.selfId d) s = retires (.selfId d) (s.resultW d (BitVec.ofNat 64 (coreOf s.cur + (if isG s.cur then 2 ^ 15 else 0) +
      2 ^ 16 * numOf s.cur + 2 ^ 20 * s.me.c.dom.toNat + 2 ^ 32 * s.chip.toNat))))

/-- SEND to a core of this package that holds a leaf of the launch, and SENDA to the member that the hash of B names: the
message is on its way with its payload, counted by its colour, once the target's queue has room (R256, R276 to R278, R324,
R325). An invalid target makes SEND give 1, and SENDA of a task of no launch sends nothing (R502). -/
def Obligations.MessagesLeave : Prop :=
  (∀ (d a b : WReg) (s : State) (core : Nat), issues s (.sendMsg d a b) → s.me.c.gd = 0 → s.hasParked = false →
    s.sendTarget (s.w b) = some (s.chip.toNat, core) → s.runqRoom (s.leadOf core) = true →
    exec (.sendMsg d a b) s = retires (.sendMsg d a b) ((s.post (s.w a) s.chip.toNat core).resultW d 0)) ∧
  (∀ (d a b : WReg) (s : State), issues s (.sendMsg d a b) → s.me.c.gd = 0 → s.hasParked = false → s.sendTarget (s.w b) = none →
    exec (.sendMsg d a b) s = retires (.sendMsg d a b) (s.resultW d 1)) ∧
  (∀ (a b : WReg) (s : State) (l : Launch) (core : Nat), issues s (.senda a b) → s.me.c.gd = 0 → s.hasParked = false →
    s.launch? s.me.t.launch = some l → s.member l (s.w b) = some (s.chip.toNat, core) → s.runqRoom (s.leadOf core) = true →
    exec (.senda a b) s = retires (.senda a b) (s.post (s.w a) s.chip.toNat core)) ∧
  (∀ (a b : WReg) (s : State), issues s (.senda a b) → s.me.c.gd = 0 → s.hasParked = false → s.launch? s.me.t.launch = none →
    exec (.senda a b) s = retires (.senda a b) s) ∧
  (∀ (s : State) (a : Word) (core : Nat),
    let t := s.post a s.chip.toNat core
    ∃ e, t.msgs = s.msgs ++ [e] ∧ e.entry = a &&& ~~~ 1 ∧ e.p0 = s.me.r.getO 0 ∧ e.p1 = s.me.r.getO 1 ∧ e.p2 = s.me.r.getO 2 ∧
      e.p3 = s.me.r.getO 3 ∧ e.target = core ∧ e.dom = s.me.c.dom ∧ e.launch = s.me.t.launch ∧ e.group = s.me.t.group ∧
      e.colour = s.colourOf e.sender ∧
      (t.core e.sender).sent0 + (t.core e.sender).sent1 = (s.core e.sender).sent0 + (s.core e.sender).sent1 + 1)

/-- FORK adds 1 to the join record's count as a release at flight scope and puts the task into the deque of 32 (R257, R280);
JOIN registers the continuation and ends the task, placing it at once where the count is 0 (R257, R327). -/
def Obligations.ForkAndJoin : Prop :=
  (∀ (a b : WReg) (s u : State) (old : List Byte), issues s (.forkT a b) → s.me.c.gd = 0 → (s.w b).toNat % 32 = 0 →
    s.hasParked = false → (s.core s.homeCore).deque.length < 32 →
    let ra := toCoreWindow s.homeCore (s.w b)
    s.rmw ra 24 (fun old => some (natLe 8 (leNat (old.take 8) + 1) ++ (old.drop 8).take 8 ++
      (if leNat (old.take 8) = 0 then natLe 8 0 else old.drop 16))) = .ok old u →
    exec (.forkT a b) s = retires (.forkT a b)
      ((u.chain s.rels (u.relPlaces ra 24) (some (u.myRel 1))).pushFork (s.w a) ra)) ∧
  (∀ (a b : WReg) (s u : State) (old : List Byte), issues s (.joinT a b) → s.me.c.gd = 0 → (s.w b).toNat % 32 = 0 →
    s.endWait = none →
    let ra := toCoreWindow s.homeCore (s.w b)
    s.rmw ra 24 (fun old => some (old.take 8 ++ natLe 8 (s.w a).toNat ++ natLe 8 (2 ^ 63 + s.homeCore))) = .ok old u →
    let l := u.relPlaces ra 24
    let v := u.chain s.rels l (some (u.myRel 1))
    let j : Joiner := { launch := s.me.t.launch, group := s.me.t.group, dom := s.me.c.dom }
    let w := { v with joins := put v.joins ((l.map Where.key).headD 0) j }
    exec (.joinT a b) s =
      .next (((if leNat (old.take 8) = 0 then w.placeContinuation (s.w a) ra else w).retired false).finishTask))

/-- DONE counts at the counter that its launch has bound to the record, which loads the record's fields for a new
phase, or binds the lowest-numbered free counter of the core's flight, where none is bound, in a saved flight neither (R258, R282,
R283, R328). -/
def Obligations.DoneCountsAtTheBarrier : Prop :=
  ∀ (a : WReg) (s u : State) (y : List Byte) (r : BarrierRec),
    issues s (.doneB a) → (s.w a).toNat % 64 = 0 → s.hasParked = false →
    let ra := toCoreWindow s.homeCore (s.w a)
    s.load ra 64 = .ok y u →
    barrierRec (wordsOf y) (((s.launch? s.me.t.launch).map (·.members.length)).getD 0) = some r →
    let counted := fun (f i : Nat) (b : Barrier) =>
      let c := { b with count := b.count - 1, marks := if s.homeCore ∈ b.marks then b.marks else s.homeCore :: b.marks }
      u.onFlight f fun x => { x with barriers := put x.barriers i c }
    let seen := fun (f : Nat) (c : BitVec 3) (t : State) => if inScope c (2 ^ 20 + f) s.cur then t else t.onCsr (·.setXs)
    (∀ (f i : Nat) (b : Barrier), findBarrier u.flights ra s.me.t.launch = some (f, i, b) → b.count ≠ 0 →
      let b' := if b.marks = [] ∧ b.count = b.arrivals then
          { b with scope := r.scope, arrivals := r.arrivals, count := r.arrivals, handler := r.handler, target := r.target }
        else b
      exec (.doneB a) s = retires (.doneB a) (seen f b'.scope (counted f i b'))) ∧
    (∀ i, findBarrier u.flights ra s.me.t.launch = none → u.savedBarrier ra s.me.t.launch = false →
      freeCounter (u.flight (flightOf s.homeCore)).barriers = some i →
      exec (.doneB a) s = retires (.doneB a) (seen (flightOf s.homeCore) r.scope (counted (flightOf s.homeCore) i
        { record := ra, launch := s.me.t.launch, dom := s.me.c.dom, asid := s.me.c.asid, ttb := s.me.c.ttb, scope := r.scope,
          arrivals := r.arrivals, count := r.arrivals, handler := r.handler, target := r.target, group := s.me.t.group,
          marks := [] })))

/-- LAUNCH puts a child record into the core's launch queue of 16 and gives 0; it gives 1 at depth 8, 2 when the quota is
used up, 3 when the queue is full (R285, R329). TLSIG adds to the timeline's value as a release (R288, R330); TLWAIT on this
package gives 1 for an aborted timeline and 0 for one at its threshold, as an acquire (R288, R331), and so does one that a
wake from another chip's timeline has reached, at system scope (R289). -/
def Obligations.LaunchesAndTimelines : Prop :=
  (∀ (d a : WReg) (s : State) (l : Launch), issues s (.launchI d a) → s.me.c.gd = 0 → (s.w a).toNat % 64 = 0 →
    s.hasParked = false → s.launch? s.me.t.launch = some l →
    let gives := fun (n : Nat) => exec (.launchI d a) s = retires (.launchI d a) (s.resultW d (BitVec.ofNat 64 n))
    (8 ≤ l.depth → gives 1) ∧ (l.depth < 8 → l.quota ≤ l.children → gives 2) ∧
    (l.depth < 8 → l.children < l.quota → 16 ≤ s.launchQueue.length → gives 3) ∧
    (l.depth < 8 → l.children < l.quota → s.launchQueue.length < 16 →
      exec (.launchI d a) s = retires (.launchI d a)
        ((((s.setLaunch s.me.t.launch { l with children := l.children + 1 }).pushChild
          { record := s.w a, dom := s.me.c.dom, asid := s.me.c.asid, ttb := s.me.c.ttb, parent := s.me.t.launch,
            depth := l.depth, parentDom := l.dom, process := l.process, part := l.part, seq := s.seq }).stamp).resultW d 0))) ∧
  (∀ (a b : WReg) (c : BitVec 3) (s u : State) (old : List Byte), issues s (.tlsig a b c) → (s.w a).toNat % 16 = 0 →
    s.hasParked = false → s.rmw (s.w a) 8 (fun old => some (natLe 8 (leNat old + (s.w b).toNat))) = .ok old u →
    exec (.tlsig a b c) s =
      retires (.tlsig a b c) (u.chain s.rels (u.relPlaces (s.w a) 8) (some (u.myRel c)))) ∧
  (∀ (d a b : WReg) (c : BitVec 3) (s u : State) (y : List Byte), issues s (.tlwait d a b c) → (s.w a).toNat % 16 = 0 →
    s.me.st ≠ .waiting .tlwaitRemote → s.load (s.w a) 16 = .ok y u → u.isRemote (s.w a) = false →
    let value := BitVec.ofNat 64 (leNat (y.take 8))
    let status := BitVec.ofNat 64 (leNat (y.drop 8))
    (status.getLsbD 0 = true ∨ (value - s.w b).toNat < 2 ^ 63) →
    exec (.tlwait d a b c) s = retires (.tlwait d a b c)
      ((u.acquire u.rels (s.w a) 16 c).resultW d (if status.getLsbD 0 then 1 else 0))) ∧
  (∀ (d a b : WReg) (c : BitVec 3) (s : State) (value status : Word), issues s (.tlwait d a b c) → (s.w a).toNat % 16 = 0 →
    s.me.st = .waiting .tlwaitRemote → s.me.wokeBy = some (value, status) →
    (status.getLsbD 0 = true ∨ (value - s.w b).toNat < 2 ^ 63) →
    let u : State := { s with me := { s.me with wokeBy := none } }
    exec (.tlwait d a b c) s = retires (.tlwait d a b c)
      ((u.acquire s.rels (s.w a) 16 4).resultW d (if status.getLsbD 0 then 1 else 0)))

/-! ### The end of a task -/

/-- END, END_16 and WRAPDONE outside any gate, with nothing of the task left incomplete, retire and end the task: a handler's
trap that is undisposed is disposed of, the join count falls, and the context is FREE (R31, R148, R257, R410, R435, R456).
ERET 0 lets the trapped task go on and ERET 1 ends it (R438, R463). -/
def Obligations.TasksEnd : Prop :=
  (∀ (i : Instr) (s : State), i = .endTask ∨ i = .end16 ∨ i = .wrapdone → issues s i → s.me.c.gd = 0 → s.hasParked = false →
    s.behind = none →
    ∃ t, exec i s = .next t ∧
      t = (match s.me.t.trap with
        | some r => (s.retired false).disposeResume r
        | none => s.retired false).taskEnded s.cur ∧
      (s.me.t.trap = none → s.me.t.join = none → s.me.t.kind = .leaf → isG s.cur = false →
        t.me.st = .free ∧ t.me.r.q0 = [] ∧ t.me.r.q1 = [] ∧ t.me.r.q2 = [] ∧ t.me.r.q3 = [] ∧ t.me.frames = [])) ∧
  (∀ (a : Opnd) (s : State) (x : Word), issues s (.eret a) → s.me.r.val a = some x → s.hasParked = false → s.behind = none →
    let t := (s.pop a).retired false
    (x.toNat = 0 → exec (.eret a) s = .next ((match s.me.t.trap with
      | some r => t.disposeResume r
      | none => t).taskEnded s.cur)) ∧
    (x.toNat = 1 → exec (.eret a) s = .next ((match s.me.t.trap with
      | some r => t.disposeEnd r
      | none => t).taskEnded s.cur)) ∧
    (1 < x.toNat → exec (.eret a) s = .next (s.raise (.eret a) .enc 0 0)))

/-- ERET 0 resumes a HELD context to which no diversion is due: outside any gate at the resume PC of its trap record, and
inside one at the resume PC that hardware wrote, whatever the record holds, with the record no longer valid (R438, R452,
R456). A deadline that expired meanwhile diverts it from there to the wrap-up entry (R403, R424). ERET 0 for a parked store
whose check passes performs it, with its own bytes (R309); an older store of the task that is still parked goes first (log
27). ERET 1 ends the task and discards every entry of it (R309). -/
def Obligations.ReturnFromException : Prop :=
  (∀ (s : State) (k serial no : Nat), Memory.wf s.mem = true → k ≠ s.cur →
    (s.ctx k).st = .held → (s.ctx k).c.serial = serial → (s.ctx k).trapNo = no →
    (∀ l, s.launch? (s.ctx k).t.launch = some l → l.expired = false ∨ l.ending.isSome = true ∨ (s.ctx k).t.diverted = true) →
    let t := s.disposeResume (.ctx k serial no)
    (t.ctx k).st = .ready ∧
    ((s.ctx k).frames = [] → (t.ctx k).pc = Memory.word s.mem (s.recordKey k + 0x28) &&& ~~~ 1) ∧
    ((s.ctx k).frames ≠ [] → (t.ctx k).pc = (s.ctx k).resume) ∧ (t.ctx k).r = (s.ctx k).r ∧
    (t.ctx k).c = (s.ctx k).c ∧ (t.ctx k).frames = (s.ctx k).frames ∧
    (Memory.get t.mem (s.recordKey k + 0x3A)).getLsbD 0 = false ∧
    ∀ a, a ≠ s.recordKey k + 0x3A → Memory.get t.mem a = Memory.get s.mem a) ∧
  (∀ (s : State) (k serial no : Nat) (l : Launch), k ≠ s.cur → (s.ctx k).st = .held → (s.ctx k).c.serial = serial →
    (s.ctx k).trapNo = no → (s.ctx k).frames = [] → (s.ctx k).unwind = [] → (s.ctx k).vs = [] → (s.ctx k).imp = none →
    s.launch? (s.ctx k).t.launch = some l → l.expired = true → l.ending = none → (s.ctx k).t.diverted = false →
    let t := s.disposeResume (.ctx k serial no)
    (t.ctx k).st = .ready ∧ (t.ctx k).pc = l.wrapEntry &&& ~~~ 1 ∧ (t.ctx k).c.wu = true ∧
    (t.ctx k).t.divPc = Memory.word s.mem (s.recordKey k + 0x28) &&& ~~~ 1 ∧ (t.ctx k).t.wrapLeft = some l.wrapBudget) ∧
  (∀ (s z : State) (core e no : Nat) (p : Parked) (l : List Where),
    (s.core core).replay.find? (fun q => q.id == e && q.no == no) = some p → p.go = false →
    (∀ q ∈ (s.core core).replay, q.ofTask p.ctx p.serial = true → p.ord ≤ q.ord) →
    let u := s.clearRecord (replayKey core e)
    u.parkedPlaces (u.parkedWho core p) p = .ok l → u.egFirst (u.parkedEgress p l) = none →
    ((p.whole = true ∧ ∀ q ∈ l, u.unreached q = false) ∨ (p.whole = false ∧ u.linesBad l = none)) →
    let v := (u.onCore core fun x => { x with replay := x.replay.filter fun q => q.id != e }).chargeAll (u.parkedEgress p l)
    v.linkOut l 0 (u.ctx p.ctx).t.launch = some z →
    s.disposeResume (.replay core e no) = (if p.whole then l.foldl State.sealLine z else z).pokes l p.bytes) ∧
  (∀ (s : State) (k serial no : Nat), k ≠ s.cur → (s.ctx k).st = .held → (s.ctx k).c.serial = serial → (s.ctx k).trapNo = no →
    (s.ctx k).frames = [] → (s.ctx k).t.join = none →
    let t := s.disposeEnd (.ctx k serial no)
    (t.ctx k).st = .free ∧ ∀ q ∈ (t.core (homeOf k (s.ctx k))).replay, q.ofTask k serial = false) ∧
  (∀ (s : State) (core e no : Nat) (p : Parked), (s.core core).replay.find? (fun q => q.id == e && q.no == no) = some p →
    (s.ctx p.ctx).live = true → (s.ctx p.ctx).c.serial = p.serial → homeOf p.ctx (s.ctx p.ctx) = core →
    (s.ctx p.ctx).frames = [] → (s.ctx p.ctx).t.join = none →
    let t := s.disposeEnd (.replay core e no)
    (t.ctx p.ctx).st = .free ∧ ∀ q ∈ (t.core core).replay, q.ofTask p.ctx p.serial = false)

/-! ### Gates, domains and keys -/

/-- GCALL through a gate that admits the caller (R25, R337, R357, R358, R390): the frame holds the return PC, the caller's
workspace, window, domain and psw; the callee runs at the gate's entry in its own domain with the frame's granule as
workspace, w1 and w2 naming the copy of the window, every other register zero and RM, the flags and WU clear; the call is
logged. -/
def Obligations.GateCallEntersTheCallee : Prop :=
  ∀ (d a b : WReg) (s u : State) (g : Gate) (granule : Nat) (l : List Where) (bytes : List Byte),
    issues s (.gcall d a b) → canonical s → quiet s → s.me.c.s = false → s.hasParked = false → s.me.vs = [] →
    (s.w a).toNat < 4096 → find? s.gates (s.w a).toNat = some g →
    g.admits s.me.c.dom (s.domPart s.me.c.dom s.myPart) = true →
    s.me.frames.length < 8 → (isG s.cur = true → s.me.t.home ≠ none) → (s.w b).toNat % 64 = 0 →
    s.check s.who .load (s.w b) (8 * g.windowSize) = .ok l → s.freeFrame (homeOf s.cur s.me) = some granule →
    spaceGood s (s.flightPart (s.servedBy s.cur)) g.callee →
    s.myLogFull = false → s.load (s.w b) (8 * g.windowSize) = .ok bytes u →
    let copy := localWindow (4096 * granule) + 0x600
    ∃ t f, exec (.gcall d a b) s = .next t ∧ t.me.frames = f :: s.me.frames ∧
      f.retPc = s.me.pc + 4 ∧ f.callerWp = s.me.c.wp ∧ f.window = s.w b ∧ f.words = g.windowSize ∧
      f.callerDom = s.me.c.dom ∧ f.callee = g.callee ∧ f.psw = s.me.c.psw ∧ f.granule = granule ∧ f.d = d ∧ f.budget = g.budget ∧
      t.me.pc = g.word 0 &&& ~~~ 1 ∧ t.me.c.dom = g.callee ∧ t.me.c.wp = localWindow (4096 * granule) ∧
      t.me.c.gd = s.me.frames.length + 1 ∧ t.me.c.rm = 0 ∧ t.me.c.wu = false ∧ t.me.c.ret = s.me.c.ret + 1 ∧
      t.me.r = { Regs.zero with w := (Regs.zero.w.set 1 copy).set 2 (BitVec.ofNat 64 g.windowSize), sc := freshSc } ∧
      Memory.bytes t.mem (spadKey (homeOf s.cur s.me) (4096 * granule + 0x600)) (8 * g.windowSize) = bytes ∧
      (t.die (ctxDie s.cur)).log.seq = (s.die (ctxDie s.cur)).log.seq + 1

/-- GRET from a frame that is not in its cleanup or wrap-up, once nothing of the callee is left incomplete and the window has
been copied back whole, where hardware reads a good line of the caller's address-space entry (R338, R358, R371, R391): the
caller goes on at its return PC in its own domain and workspace, with its registers as the workspace holds them, d and the l
file with the status, whose bit 63 is clear, and the frame is gone. -/
def Obligations.GateReturnRestoresTheCaller : Prop :=
  ∀ (a : WReg) (s : State) (f : Frame) (rest : List Frame),
    issues s (.gret a) → quiet s → s.me.frames = f :: rest → f.back = 0 → f.cleanup = false → f.wrapup = false → f.refused = none →
    s.hasParked = false → s.me.vs = [] → s.frameBusy s.cur = false → s.me.unwind = [] → s.me.t.divPending = false →
    spaceGood s (s.flightPart (s.servedBy s.cur)) f.callerDom →
    let c := s.copyBack (s.callerWho s.cur f) f (s.me.bits (.gret a)) 0 none f.words
    c.fatal = none → c.why = none → c.refused = none →
    let status := setBit (s.w a) 63 false
    ∃ t, exec (.gret a) s = .next t ∧ t.me.pc = f.retPc ∧ t.me.frames = rest ∧ t.me.st = .ready ∧ t.me.c.dom = f.callerDom ∧
      t.me.c.wp = f.callerWp ∧ t.me.c.sr = f.sr ∧ t.me.r.sc = f.sc ∧ t.me.r.cb = f.cb ∧ t.me.r.l[0] = status ∧
      (f.d ≠ 0 → t.me.r.getW f.d = status) ∧ t.me.c.ret = s.me.c.ret + 1 ∧
      (∀ k, windowKey (homeOf s.cur s.me) f.callerWp.toNat = some k →
        (∀ p ∈ s.ctxs, ∀ b, p.2.live = true → wsKey p.1 p.2 = some b → b + 0x540 ≤ k ∨ k + 0x540 ≤ b) →
        ∀ n : WReg, n ≠ 0 → n ≠ f.d → t.me.r.getW n = Memory.word t.mem (k + 8 * n.toNat))

/-- GCALL of no published gate, of one that does not admit the caller, and at depth 8, and GRET outside any gate, raise GATE
(R337, R338, R390, R391), and so do START, SEND, SENDA, FORK, JOIN, LAUNCH, END, WRAPDONE, COMPOSE and MIGRATE inside one,
and a GMATH instruction that meets a small core there (R77, R145, R148, R326, R327, R329, R333, R405, R410). GPUB publishes
the descriptor of a gate of its own domain and gives 0 (R336, R392); GINFO reads a visible gate's words and a domain's own
counts, and ones elsewhere (R395); DOMID names the domain of a frame and that domain's partition (R347, R396). -/
def Obligations.GateCausesPublicationAndQueries : Prop :=
  (∀ (d a b : WReg) (s : State), issues s (.gcall d a b) → s.me.c.s = false → s.hasParked = false → s.me.vs = [] →
    (4096 ≤ (s.w a).toNat ∨ find? s.gates (s.w a).toNat = none ∨ s.me.frames.length = 8 ∨
      ∃ g, find? s.gates (s.w a).toNat = some g ∧ g.admits s.me.c.dom (s.domPart s.me.c.dom s.myPart) = false) →
    exec (.gcall d a b) s = .next (s.raise (.gcall d a b) .gate 0 0)) ∧
  (∀ (a : WReg) (s : State), issues s (.gret a) → s.me.frames = [] →
    exec (.gret a) s = .next (s.raise (.gret a) .gate 0 0)) ∧
  (∀ (i : Instr) (s : State), outsideGates i = true ∨ (isGmath i = true ∧ isG s.cur = false) → issues s i → s.me.c.gd ≠ 0 →
    exec i s = .next (s.raise i .gate 0 0)) ∧
  (∀ (d a : WReg) (s u : State) (b : List Byte) (j : Nat) (k : KeySlot), issues s (.gpub d a) → (s.w a).toNat % 64 = 0 →
    s.load (s.w a) 64 = .ok b u →
    let g : Gate := { part := u.myPart, words := wordsOf b }
    g.bad = false → g.callee = u.me.c.dom → slotOf u.keys u.me.c.dom = some (j, k) → (k.measured = true → g.words ∈ k.images) →
    (u.metered u.me.c.dom = true → g.meter = true) → find? u.gates g.number = none →
    exec (.gpub d a) s = retires (.gpub d a) (({ u with gates := put u.gates g.number g }).resultW d 0)) ∧
  (∀ (d a b : WReg) (s : State), issues s (.ginfo d a b) →
    ∃ x, exec (.ginfo d a b) s = retires (.ginfo d a b) (s.resultW d x) ∧
      ((s.w b).toNat ≤ 1 → find? s.gates (s.w a).toNat = none → x = 0) ∧
      (∀ g, (s.w a).toNat < 4096 → find? s.gates (s.w a).toNat = some g →
        (g.callee = s.me.c.dom ∨ g.admits s.me.c.dom (s.domPart s.me.c.dom s.myPart) = true) →
        ((s.w b).toNat = 0 → x = setBit (g.word 3) 31 true) ∧ ((s.w b).toNat = 1 → x.toNat = (g.word 4).toNat % 2 ^ 32)) ∧
      ((s.w a).toNat = s.me.c.dom.toNat → 2 ≤ (s.w b).toNat → (s.w b).toNat ≤ 5 →
        x = BitVec.ofNat 64 (find s.egressBytes (4 * s.me.c.dom.toNat + ((s.w b).toNat - 2)) 0)) ∧
      (10 < (s.w b).toNat → x = BitVec.allOnes 64)) ∧
  (∀ (d a : WReg) (s : State), issues s (.domid d a) →
    let word := fun (x : Dom) => BitVec.ofNat 64 (x.toNat + 4096 * (s.domPart x s.myPart).getD s.myPart)
    exec (.domid d a) s = retires (.domid d a) (s.resultW d (
      if (s.w a).toNat = 0 then word s.me.c.dom
      else match s.me.frames[(s.w a).toNat - 1]? with
        | some f => word f.callerDom
        | none => BitVec.allOnes 64)))

/-- GREVOKE and GREVOKE_KILL of a tenant of the partition revoke it, end its launches and log the event; a kill completes
once no launch, no frame and no gate of the domain is left and the ring has room for its two records (R273, R341, R382,
R393). KACT on a blob that opens activates the domain's key, and one that does not gives 5 (R376, R397); KDEACT of a domain
with no live task and no gate deactivates it (R373, R398); SCRUB scrubs the classes of its mask (R399); EGSET sets a bucket,
full (R379, R400). That a revocation ends launches is read from R273 (log 37). -/
def Obligations.RevocationKeysAndMeters : Prop :=
  (∀ (i : Instr) (d a b : WReg) (s : State), (i = .grevoke d a ∨ (i = .grevokeKill d a b ∧ s.me.kill = none ∧ s.w b = 0)) →
    issues s i → s.hasParked = false → s.namesDomain (s.w a).toNat = true → s.myLogFull = false →
    let dom : Dom := BitVec.ofNat 12 (s.w a).toNat
    let r := s.revoke dom
    exec i s = retires i ((((r.2.2.endDomain dom).2).log 2 0 dom (BitVec.ofNat 64 r.1) (BitVec.ofNat 64 r.2.1) 0).resultW d 0)) ∧
  (∀ (d a b : WReg) (s : State) (dom : Dom) (frames launches : Nat), issues s (.grevokeKill d a b) →
    s.me.kill = some (dom, frames, launches) → (∀ p ∈ s.launches, p.2.dom ≠ dom) →
    (∀ p ∈ s.allCtxs, ∀ f ∈ p.2.frames, f.callee ≠ dom) → (∀ p ∈ s.gates, p.2.callee ≠ dom) →
    s.logShort (ctxDie s.cur) 2 = false →
    exec (.grevokeKill d a b) s = retires (.grevokeKill d a b) (s.killEnd d dom)) ∧
  (∀ (d a : WReg) (s u v : State) (y blob : List Byte) (reads : List Read) (slot : Nat), issues s (.kact d a) →
    s.hasParked = false → (s.w a).toNat % 64 = 0 → s.load (s.w a) 64 = .ok y v →
    let dom : Dom := ((wordsOf y).getD 1 0).extractLsb' 0 12
    s.namesDomain dom.toNat = true → s.keyRequest (s.w a) (wordsOf y) = .ok ⟨blob, [], [], reads⟩ → slotOf s.keys dom = none →
    freeSlot s.keys 0 1024 = some slot → s.myLogFull = false → s.readAll reads = .ok () u →
    exec (.kact d a) s = retires (.kact d a) (match openBlob dom blob with
      | none => u.resultW d 5
      | some b =>
        let m := if b.measured then Config.sha512 [] else 0
        if b.measured = true ∧ m ≠ b.expected then u.resultW d 6
        else
          let e := u.enterKey b.key
          let k : KeySlot := { dom := dom, key := e.1, measurement := m, measured := b.measured, images := [] }
          (({ e.2 with keys := put e.2.keys slot k }).log 3 0 dom (BitVec.ofNat 64 slot) (if b.measured then 1 else 0)
            (m.extractLsb' 0 64)).resultW d 0)) ∧
  (∀ (d a : WReg) (s : State), issues s (.kdeact d a) → s.hasParked = false → s.namesDomain (s.w a).toNat = true →
    let dom : Dom := BitVec.ofNat 12 (s.w a).toNat
    (slotOf s.keys dom).isSome = true → s.domLive dom = false → (∀ p ∈ s.gates, p.2.callee ≠ dom) → s.myLogFull = false →
    exec (.kdeact d a) s = retires (.kdeact d a) (((s.deactivate dom).log 4 0 dom (s.slotNo dom) 0 0).resultW d 0)) ∧
  (∀ (d a b : WReg) (s : State), issues s (.scrub d a b) → s.hasParked = false → s.namesDomain (s.w a).toNat = true →
    let dom : Dom := BitVec.ofNat 12 (s.w a).toNat
    ((s.w b).getLsbD 1 = true ∨ (s.w b).getLsbD 2 = true → s.domLive dom = false) → (s.w b).toNat < 2 ^ 7 →
    exec (.scrub d a b) s = retires (.scrub d a b) ((s.scrubMask dom (s.w b)).resultW d 0)) ∧
  (∀ (d a b : WReg) (s : State), issues s (.egset d a b) → s.hasParked = false →
    let x := s.w a
    let dom : Dom := x.extractLsb' 0 12
    let cap := (s.w b).toNat % 2 ^ 32
    s.namesDomain dom.toNat = true → x.toNat < 2 ^ 18 → x.getLsbD 14 = false → x.getLsbD 15 = false →
    (x.getLsbD 17 = true → cap ≠ 0 ∧ ∀ p ∈ s.gates, p.2.callee = dom → p.2.meter = true) →
    let k : Bucket := { rate := (s.w b).toNat / 2 ^ 32, capacity := cap, fault := x.getLsbD 16, enable := x.getLsbD 17, level := cap }
    exec (.egset d a b) s = retires (.egset d a b)
      (({ s with egress := put s.egress (4 * dom.toNat + (x.toNat / 2 ^ 12 % 4)) k }).resultW d 0))

/-! ### Boxes and time -/

/-- COMPOSE binds the members of a box that is free, with psw.BX set, and gives 0, or 2 for a shape that the core does not
lead and 1 for a busy member (R405, R413, R430); DECOMP releases them (R409, R431); TIME and DLREAD read the time, the lock
status, the deadline and the slack (R407, R432, R433); PVALID merges its bits into a word as a release at system scope (R408,
R434). DLREAD 1 in a gate's wrap-up is a free value (log 5), and the corners of DLREAD are log 15. -/
def Obligations.BoxInstructions : Prop :=
  (∀ (d a : WReg) (s : State), issues s (.compose d a) → s.me.c.gd = 0 → s.hasParked = false →
    let k := (s.w a).toNat
    (s.shapeOk s.myCore k = false → exec (.compose d a) s = retires (.compose d a) (s.resultW d 2)) ∧
    (s.shapeOk s.myCore k = true → s.boxBusy s.myCore k (some s.cur) = true →
      exec (.compose d a) s = retires (.compose d a) (s.resultW d 1)) ∧
    (s.shapeOk s.myCore k = true → s.boxBusy s.myCore k (some s.cur) = false → quiet s →
      ∃ t, exec (.compose d a) s = .next t ∧ t.me.c.bx = true ∧ pushed s t 0 ∧
        ∀ c, c ∈ boxMembers s.myCore k → (t.core c).box = some (s.myCore, k))) ∧
  (∀ (d : WReg) (s : State), issues s (.decomp d) →
    (s.me.c.bx = false → exec (.decomp d) s = retires (.decomp d) (s.resultW d 1)) ∧
    (∀ k, s.me.c.bx = true → s.behind = none → quiet s → (s.core s.myCore).box = some (s.myCore, k) →
      ∃ t, exec (.decomp d) s = .next t ∧ t.me.c.bx = false ∧ pushed s t 0 ∧
        ∀ c, c ∈ boxMembers s.myCore k → (t.core c).box = none)) ∧
  (∀ (d a : WReg) (s : State), issues s (.timeI d a) →
    let t := s.die (ctxDie s.cur)
    let off := max (-(2 ^ 31 - 1)) (min (2 ^ 31 - 1) t.offset)
    exec (.timeI d a) s = retires (.timeI d a) (s.resultW d (match (s.w a).toNat with
      | 0 => BitVec.ofNat 64 t.time
      | 1 => BitVec.ofNat 64 ((if t.locked then 1 else 0) + (if t.holdover then 2 else 0) + (if t.everLocked then 4 else 0) +
          2 ^ 16 * (off % 2 ^ 32).toNat)
      | _ => BitVec.allOnes 64))) ∧
  (∀ (d a : WReg) (s : State), issues s (.dlread d a) →
    let ones := BitVec.allOnes 64
    (((s.w a).toNat ≠ 1 ∨ s.me.c.wu = false ∨ s.me.t.wrapLeft ≠ none) → exec (.dlread d a) s = retires (.dlread d a) (s.resultW d (match (s.w a).toNat with
      | 0 => s.dlOf s.me.t.launch (ctxDie s.cur)
      | 1 => if s.me.c.wu then s.me.t.divPc else ones
      | 2 => if s.me.c.wu then (s.me.t.wrapLeft.map (BitVec.ofNat 64)).getD ones else ones
      | 3 => BitVec.ofInt 64 (((s.launch? s.me.t.launch).map (·.slackSeen)).getD (2 ^ 63 - 1))
      | _ => ones))) ∧
    ((s.w a).toNat = 1 → s.me.c.wu = true → s.me.t.wrapLeft = none →
      exec (.dlread d a) s = retires (.dlread d a)
        ({ s with freeCount := s.freeCount + 1 }.resultW d (Config.freeWord s.freeCount)))) ∧
  (∀ (a b : WReg) (s u : State) (old : List Byte), issues s (.pvalid a b) → (s.w a).toNat % 64 = 0 → s.hasParked = false →
    s.rmw (s.w a) 8 (fun old => some (natLe 8 (leNat old ||| (s.w b).toNat))) = .ok old u →
    exec (.pvalid a b) s =
      retires (.pvalid a b) (u.chain s.rels (u.relPlaces (s.w a) 8) (some (u.myRel 4))))

/-! ### Control registers and the system -/

/-- CSRR reads what R55 gives, the upper half of c.psw to a supervisor alone; CSRW, CSRS and CSRC write c.psw, and in
supervisor state the other writable registers, once every older instruction is complete; a psw with a reserved RM is ENC, and
every other access of a user PRIV (R55 to R57, R462). -/
def Obligations.ControlRegistersReadAndWrite : Prop :=
  (∀ (d : Opnd) (n : BitVec 12) (s : State), issues s (.csrr d n) →
    (s.me.c.s = false → n.toNat ∉ [0, 6, 9, 10, 11, 12, 13, 15, 17] →
      exec (.csrr d n) s = .next (s.raise (.csrr d n) .priv 0 0)) ∧
    ((s.me.c.s = true ∨ n.toNat ∈ [0, 6, 9, 10, 11, 12, 13, 15, 17]) → s.me.room d = true → (n = 0 → s.behind = none) →
      ∃ x, exec (.csrr d n) s = retires (.csrr d n) (s.result d x) ∧
        (n = 0 → x.toNat = if s.me.c.s then s.me.c.psw.toNat else s.me.c.psw.toNat % 2 ^ 16) ∧
        (n = 1 → x = s.me.c.wp) ∧ (n = 2 → x = s.me.c.cause) ∧ (n = 3 → x = s.me.c.xpc) ∧ (n = 4 → x = s.me.c.xpsw) ∧
        (n = 5 → x = s.me.c.tval) ∧ (n = 6 → x = BitVec.ofNat 64 s.me.c.dom.toNat) ∧
        (n = 7 → x = BitVec.ofNat 64 s.me.c.asid.toNat) ∧ (n = 8 → x = s.me.c.ttb) ∧
        (n = 9 → x = BitVec.ofNat 64 (16 * s.me.c.serial + numOf s.cur)) ∧ (n = 10 → x = coreidOf s.chip s.cur) ∧
        (n = 11 → x = s.me.c.lrec) ∧ (n = 12 → x = s.me.c.cyc) ∧ (n = 13 → x = s.me.c.ret) ∧
        (n = 14 → x = BitVec.ofNat 64 (s.part s.myPart).wdog) ∧ (n = 15 → x = s.me.c.swin) ∧
        (n = 16 → x = gstkOf s.me.frames) ∧ (n = 17 → x = s.dlOf s.me.t.launch (ctxDie s.cur)) ∧ (n = 18 → x = s.me.c.seed))) ∧
  (∀ (i : Instr) (a : Opnd) (n : BitVec 12) (f : Word → Word → Word) (s : State) (x : Word),
    (i = .csrw a n ∧ f = fun _ x => x) ∨ (i = .csrs a n ∧ f = fun o x => o ||| x) ∨ (i = .csrc a n ∧ f = fun o x => o &&& ~~~ x) →
    issues s i →
    (s.me.c.s = false → n ≠ 0 → exec i s = .next (s.raise i .priv 0 0)) ∧
    ((s.me.c.s = true ∨ n = 0) → s.me.r.val a = some x → s.behind = none →
      let y := f (s.readCsr n) x
      (n = 0 → 6 ≤ y.toNat / 8 % 8 → exec i s = .next (s.raise i .enc 0 0)) ∧
      ((n = 0 → y.toNat / 8 % 8 < 6) → exec i s = retires i ((s.pop a).writeCsr n y)))) ∧
  (∀ (s : State) (y : Word),
    (s.writeCsr 7 y).me.c = { s.me.c with asid := y.setWidth 16 } ∧
    (s.writeCsr 8 y).me.c = { s.me.c with ttb := y &&& 0x00003FFFFFFF0000 } ∧
    (s.writeCsr 18 y).me.c = { s.me.c with seed := y } ∧
    ((s.writeCsr 14 y).part s.myPart).wdog = max (2 ^ 10) (min (2 ^ 26) y.toNat) ∧
    (s.writeCsr 1 y).me.c.wp = y &&& ~~~ 63 ∧ (s.writeCsr 6 y) = s ∧
    (s.me.c.s = false → ∀ j, j < 19 → (s.writeCsr 0 y).me.c.psw.getLsbD j =
      if 3 ≤ j ∧ j ≤ 10 then y.getLsbD j else if j = 2 then s.me.c.psw.getLsbD j && y.getLsbD j else s.me.c.psw.getLsbD j))

/-- TLBINV posts an invalidation of its pages to every agent that holds one (R441); TLBSYNC completes once no invalidation of
the task is left (R442); WFI completes once the wake latch is set or a request waits (R464); POTW writes an ownership entry
of the partition, zeroing the page and sealing it under the new owner's key when the owner changes, and gives 0 (R353, R440);
CTXSAVE saves a core whose tasks have stopped, and CTXLOAD restores an image on an empty core (R474, R475). That TLBINV posts
to the agents that hold an entry, and to the host while the link is up, is log 46; the checks and the bytes of an image are
logs 29 and 30. -/
def Obligations.SystemInstructionsComplete : Prop :=
  (∀ (a b : Opnd) (s : State) (x y : Word), issues s (.tlbinv a b) → s.me.r.val2 a b = some (x, y) → y.toNat < 2 ^ 48 →
    s.hasParked = false →
    let i : Inval := { id := s.seq, ctx := s.cur, serial := s.me.c.serial, asid := y.extractLsb' 0 16,
                       lo := x.toNat / 2 ^ 19 * 2 ^ 19, hi := (x.toNat / 2 ^ 19 + y.toNat / 2 ^ 16 + 1) * 2 ^ 19,
                       agents := [], ats := s.host.up }
    exec (.tlbinv a b) s = retires (.tlbinv a b) (((s.pop2 a b).post_ i).stamp)) ∧
  (∀ s : State, issues s .tlbsync → (∀ i ∈ s.invals, ¬ (i.ctx = s.cur ∧ i.serial = s.me.c.serial)) →
    exec .tlbsync s = retires .tlbsync s) ∧
  (∀ s : State, issues s .wfi → (s.me.wake = true ∨ (s.flight (s.servedBy s.cur)).supq ≠ []) →
    exec .wfi s = retires .wfi { s with me := { s.me with wake := false } }) ∧
  (∀ (d a b : Opnd) (s : State) (x e : Word), issues s (.potw d a b) → s.me.r.val2 a b = some (x, e) → s.me.room d = true →
    s.hasParked = false → s.potwStatus x e = 0 → s.potBad (s.chip.toNat * 2 ^ 27 + x.toNat % 2 ^ 46 / 2 ^ 19) = none →
    s.myLogFull = false →
    exec (.potw d a b) s = retires (.potw d a b) (((s.pop2 a b).potw x e).result d 0)) ∧
  (∀ (s : State) (x e : Word) (k : Nat), Memory.wf s.mem = true → x.toNat < 2 ^ 46 → keyOf s.keys (potOwner e) = some k →
    let page := s.chip.toNat * 2 ^ 27 + x.toNat / 2 ^ 19
    (s.potw x e).potEntry page = e ∧
    (potOwner (s.potEntry page) ≠ potOwner e → (s.potw x e).lineKeyOf (page * 2 ^ 19) = sealNo k (potOwner e))) ∧
  (∀ (d a b : Opnd) (s : State) (x y : Word) (segs : List (Nat × Nat × Nat)), issues s (.ctxsave d a b) → s.me.r.val2 a b = some (x, y) → s.me.room d = true →
    s.hasParked = false → s.saveStatus x y = 0 →
    let limit := (s.part s.myPart).wdog
    let u := (s.onCore x.toNat fun z => { z with mode := .saving y.toNat s.cur s.me.c.serial s.cycle limit }).armWatch x.toNat limit
    u.coreStopped x.toNat = true → u.imageKeys y .store = some segs →
    exec (.ctxsave d a b) s = retires (.ctxsave d a b) (((u.pop2 a b).saveCore x.toNat segs).result d 0)) ∧
  (∀ (d a b : Opnd) (s : State) (x y : Word) (i : Image) (into : List (Nat × Nat)), issues s (.ctxload d a b) →
    s.me.r.val2 a b = some (x, y) → s.me.room d = true → s.hasParked = false → s.badCore y = false → s.coreInUse y.toNat = false →
    s.loadImage x = some i → (s.pop2 a b).placesOn y.toNat (i.ctxsOf i.source) [] = some into →
    exec (.ctxload d a b) s = retires (.ctxload d a b) (((s.pop2 a b).loadCore i y.toNat into).result d 0))

/-! ### Events -/

/-- The engines' and the loft's steps that are due happen. A beat moves the head command on by one and takes one beat of the
grant (R198); a completed slot command makes its slot READY and its serial the completed one (R197, R204); at a k-step
boundary the pass in flight ends and the array starts the next (R232), a sum pass over integers giving the sum of the
products, and of the accumulator when accumulating, modulo 2^64 (R219, R229); LBLD takes the idle bank and fills it (R231,
R240), LDRN, LZERO, LSWAP and LSTAT have their effects (R221, R241 to R243). The cycles and the moment of the flags are the
model's (logs 4 and 35). -/
def Obligations.EngineAndLoftEvents : Prop :=
  (∀ (flight engine turn left : Nat) (s u : State) (c d : EngCmd) (l : List EngCmd), flight < 256 → engine < 2 →
    (turn, left) = (if engine = 0 then ((s.flight flight).turn0, (s.flight flight).left0)
      else ((s.flight flight).turn1, (s.flight flight).left1)) →
    let core := 32 * flight + 16 * engine + turn
    0 < left → s.engReady core = true → (s.core core).eng.queue = c :: l → s.beat core c = .ok d u →
    let v := u.setCmd core d
    exec (.engineBeat flight engine) s = .next (if left = 1 ∨ v.engReady core = false
      then v.setTurn flight engine ((turn + 1) % 16) 0 else v.setTurn flight engine turn (left - 1))) ∧
  (∀ (flight engine turn : Nat) (s u : State) (c d : EngCmd) (l : List EngCmd), flight < 256 → engine < 2 → turn < 16 →
    (turn, 0) = (if engine = 0 then ((s.flight flight).turn0, (s.flight flight).left0)
      else ((s.flight flight).turn1, (s.flight flight).left1)) →
    let core := 32 * flight + 16 * engine + turn
    s.engReady core = true → (s.core core).eng.queue = c :: l → s.beat core c = .ok d u →
    let v := u.setCmd core d
    let left := (v.core core).eng.weight - 1
    exec (.engineBeat flight engine) s = .next (if left = 0 ∨ v.engReady core = false
      then v.setTurn flight engine ((turn + 1) % 16) 0 else v.setTurn flight engine turn left)) ∧
  (∀ (s u : State) (core : Nat) (c d : EngCmd), c.started = true → c.op.described = false →
    c.pos < c.beats (s.slot core c.slot) → s.beat core c = .ok d u →
    d.pos = c.pos + 1 ∧ d.serial = c.serial ∧ d.op = c.op ∧ d.dom = c.dom) ∧
  (∀ (core : Nat) (s : State) (c : EngCmd) (l : List EngCmd), s.engOn core = true → (s.core core).eng.queue = c :: l →
    c.started = true → c.released = false → c.op.described = false → c.beats (s.slot core c.slot) ≤ c.pos →
    let x := s.slot core c.slot
    let t := s.onCore core fun k => { k with eng := ({ k.eng with queue := l, parked := false }).completed c.serial }
    exec (.engineCommandCompletion core) s =
      .next (if x.st.busy then t.setSlot core c.slot { x with st := .ready } else t)) ∧
  (∀ (core : Nat) (s : State) (c : EngCmd) (l : List EngCmd), s.engOn core = true → (s.core core).eng.queue = c :: l →
    c.started = true → c.released = false → c.op.described = true → (c.len + 63) / 64 ≤ c.pos → c.word 3 = 0 →
    exec (.engineCommandCompletion core) s = .next (s.onCore core fun k =>
      { k with eng := ({ k.eng with queue := l, parked := false }).completed c.serial })) ∧
  (∀ (octet : Nat) (s : State), (∃ e, (s.loft octet).passEnd = some e ∧ e ≤ s.cycle) →
    exec (.kStepBoundary octet) s = .next ((s.endPass octet).startPass octet)) ∧
  (∀ (octet p : Nat) (s : State), (s.loft octet).passEnd = none → p < 8 → (s.headAt octet p).isSome = true →
    exec (.kStepBoundary octet) s = .next (s.startPass octet)) ∧
  (∀ (s : State) (core row n : Nat) (c : LoftCmd) (acc : Bool), c.op = .lmm row 0 acc → c.types.head? = some .int64 →
    shapeCols (s.slot core c.slot).shape = 64 → n < 128 →
    let x := s.slot core c.slot
    let bank := (s.loft (octetOf core)).bank c.bank
    let A := fun k => (elemVal (codeFmt c.fa) c.cb ((slotElems x (s.slotRow core x c.passes)).getD k 0)).toInt
    let B := fun k => (cellVal (codeFmt bank.fmt) (bank.cells.getD (128 * k + n) 0)).toInt
    (s.passRow core c).1.getD n 0 = BitVec.ofInt 64 (((List.range 64).map fun k => A k * B k).sum +
      if acc then ((s.accRow core (row + c.passes)).getD n 0).toInt else 0)) ∧
  (∀ (core : Nat) (s : State) (c : LoftCmd) (tr : Bool), s.startable core = some c → c.op = .lbld tr →
    let l := s.loft (octetOf core)
    let b := !l.active
    let claim := (l.bank b).filled = true ∧ (l.bank b).dom ≠ c.dom
    exec (.lbldStart core) s = .next ((if claim then (s.setLoft (octetOf core) (l.setBank b .empty)).ageless (octetOf core)
      else s).putLoft core c
      { c with started := true, bank := b, doneAt := s.cycle + if claim then 128 else 64 })) ∧
  (∀ (core : Nat) (s : State) (c : LoftCmd) (l m : List LoftCmd) (tr : Bool), (s.core core).loftq = l ++ c :: m →
    (∀ q ∈ l, ∀ b, q.op = .lbld b → ¬ (q.started = true ∧ q.doneAt ≤ s.cycle)) → c.op = .lbld tr → c.started = true →
    c.doneAt ≤ s.cycle →
    let x := s.slot core c.slot
    let rows := ((List.range (shapeRows x.shape)).map fun i => (slotElems x (s.slotRow core x i)).toArray).toArray
    let cells := fillCells c tr rows 0 8192 { sr := c.sr, fl := c.fl }
    let t := s.endLoft core c
    exec (.lbldCompletion core) s = .next ((t.setLoft (octetOf core) ((t.loft (octetOf core)).setBank c.bank
      { filled := true, fmt := c.fc, dom := c.dom, launch := c.launch, ctx := c.ctx, task := c.task, depth := c.depth,
        cells := cells.1 })).accrueTo c.ctx c.task c.depth cells.2.fl)) ∧
  (∀ (core row : Nat) (s : State) (c : LoftCmd), s.startable core = some c → c.op = .ldrn row →
    let x := s.slot core c.slot
    let q := s.drainRows core c x 0 (shapeRows x.shape) { sr := c.sr, fl := c.fl }
    exec (.ldrnStart core) s = .next (s.putLoft core c
      { c with started := true, out := q.1, fl := q.2.fl, doneAt := s.cycle + shapeRows x.shape })) ∧
  (∀ (core row : Nat) (s : State) (c : LoftCmd) (l m : List LoftCmd), (s.core core).loftq = l ++ c :: m →
    (∀ q ∈ l, ∀ b, q.op = .ldrn b → ¬ (q.started = true ∧ q.doneAt ≤ s.cycle)) → c.op = .ldrn row → c.started = true →
    c.doneAt ≤ s.cycle →
    let t := (s.drainTo core c c.out.length).endLoft core c
    let x := t.slot core c.slot
    exec (.ldrnCompletion core) s = .next (if x.st.busy then t.setSlot core c.slot { x with st := .ready } else t)) ∧
  (∀ (core r m : Nat) (s : State) (c : LoftCmd), s.startable core = some c → c.op = .lzero r m →
    exec (.lzeroStart core) s = .next ((s.onCore core fun k =>
      { k with acc := k.acc.filter (fun p => p.1 < r || r + m ≤ p.1),
               rows := (List.range m).foldl (fun l i => upd l (r + i) .zero fun x =>
                 { x with doneTy := .zero, doneTag := some c.dom, launch := c.launch, ctx := c.ctx, task := c.task,
                          depth := c.depth }) k.rows }).endLoft core c)) ∧
  (∀ (core : Nat) (s : State) (c : LoftCmd), s.startable core = some c → c.op = .lswap →
    exec (.lswapExchange core) s = .next ((s.setLoft (octetOf core)
      { s.loft (octetOf core) with active := !(s.loft (octetOf core)).active }).endLoft core c)) ∧
  (∀ (core : Nat) (s : State) (c : LoftCmd) (q3 : Bool), s.startable core = some c → c.op = .lstat q3 →
    let t := s.endLoft core c
    let x := t.ctx c.ctx
    (x.live = true → x.c.serial = c.task → x.frames.length = c.depth →
      exec (.lstatStart core) s = .next (t.setCtx c.ctx (x.fed [(q3, s.loftWord core c)]))) ∧
    ((x.live = false ∨ x.c.serial ≠ c.task ∨ x.frames.length ≠ c.depth) → exec (.lstatStart core) s = .next t))

/-- The front end's events that are due happen: a doorbell's entries arrive in ring order and a queue is enabled (R482); the
next candidate is admitted with its record's fields, or refused (R265, R484); a ready leaf starts (R270); a FREE context takes
the entry that it picks (R275, R281); the oldest message between two cores arrives (R279); a barrier whose count is 0 releases
its phase (R259); a launch whose work is over ends (R24, R273). Which instance a leaf is placed in is
the front end's free choice (log 17). -/
def Obligations.FrontEndEvents : Prop :=
  (∀ (fn q : Nat) (tail : BitVec 16) (s : State), s.host.up = true → fn ≤ 64 → q < 16 →
    let x := s.queue (16 * fn + q)
    let n := (tail - x.tail).toNat
    ∃ t, exec (.submissionDoorbell fn q tail) s = .next t ∧ t.seq = s.seq + n ∧
      t.queue (16 * fn + q) = { x with
        tail := tail, arrivals := x.arrivals ++ (List.range n).map fun i => ((x.tail.toNat + i) % 2 ^ 16, s.seq + i) } ∧
      ∀ k, k ≠ 16 * fn + q → t.queue k = s.queue k) ∧
  (∀ (fn q : Nat) (s : State), s.host.up = true → fn ≤ 64 → q < 16 →
    ∃ t, exec (.queueEnable fn q) s = .next t ∧
      t.queue (16 * fn + q) = { s.queue (16 * fn + q) with enable := true, disconnected := false } ∧
      ∀ k, k ≠ 16 * fn + q → t.queue k = s.queue k) ∧
  (∀ (die : Nat) (s : State) (c : Cand), s.nextCand die = some c →
    let u := ((s.decided.take c).noteTable die 0 c.dom ((s.part c.part).spaceBase + 16 * c.dom.toNat)).recordRead c
    (u.admissible c die = none → exec (.launchAdmission die) s = .next (u.refuse c die)) ∧
    (∀ b lv leaves, u.admissible c die = some (b, lv, leaves) →
      ∃ t l, exec (.launchAdmission die) s = .next t ∧ t.nextLaunch = s.nextLaunch + 1 ∧ t.launch? s.nextLaunch = some l ∧
        l.record = c.record ∧ l.dom = c.dom ∧ l.part = c.part ∧ l.parent = c.parent ∧ l.depth = c.depth ∧ l.home = die ∧ l.ending = none ∧
        l.entry = BitVec.ofNat 64 (field b 0 8) ∧ l.wrapEntry = BitVec.ofNat 64 (field b 8 8) ∧
        l.deadline = field b 0x10 8 ∧ l.timeline = BitVec.ofNat 64 (field b 0x28 8) ∧ l.wrapBudget = field b 0x38 4 ∧
        l.levels = lv ∧ l.members = leaves.map fun x => (x.num, x.chip * 2 ^ 13 + x.core))) ∧
  (∀ (launch leaf : Nat) (s : State) (l : Launch) (f : Leaf), s.launch? launch = some l →
    l.pending.find? (·.num == leaf) = some f → s.leafReady l f = true →
    exec (.leafStart launch leaf) s = .next (s.decided.startLeaf launch ((s.decided.launch? launch).getD l) f)) ∧
  (∀ (core i src : Nat) (s : State) (e : Entry) (deq : Bool), s.dispatchCtx core = some i → s.pick core = some (e, deq, src) →
    let t := (s.onCore src fun x =>
      if deq then { x with deque := x.deque.filter (· != e) } else { x with runq := x.runq.filter (· != e) }).decided
    exec (.taskDispatch core) s = .next ((if e.box ≠ 0 then (t.bindBox core e.box).startEntry (16 * core) e true
      else t.startEntry (16 * core + i) e false).flipAt core)) ∧
  (∀ (index : Nat) (s : State) (e : Entry) (l : Launch), s.msgs[index]? = some e →
    (∀ x ∈ s.msgs.take index, ¬ (x.fromCtx = e.fromCtx ∧ x.target = e.target)) → s.launch? e.launch = some l →
    e.targetChip = s.chip → l.ending = none → l.expired = false →
    let core := e.target
    s.markedDone e.launch core = false → (s.flight (flightOf core)).st = .running ∨ (s.flight (flightOf core)).st = .stopping →
    (s.flight (flightOf core)).part.getD 0 = l.part → s.runqRoom (s.leadOf core) = true →
    exec (.messageArrival index) s =
      .next (((({ s with msgs := s.msgs.filter (· != e) } : State).received core e).enqueue core e))) ∧
  (∀ (flight ctr : Nat) (s : State) (b : Barrier) (l : List Where), find? (s.flight flight).barriers ctr = some b → b.count = 0 →
    let t := s.onFlight flight fun f => { f with barriers := put f.barriers ctr { b with count := b.arrivals, marks := [] } }
    t.check (t.barrierWho flight b) .store (b.record + 0x20) 8 = .ok l → t.linesBad l = none →
    let phase := leNat (t.peeks l) + 1
    let u := ((t.hwSent b.dom l).pokes l (natLe 8 phase)).chain [] l (some (unitRel (2 ^ 20 + flight) b.scope))
    let v := if b.handler = 0 then u else u.completion b (BitVec.ofNat 64 phase) flight
    exec (.barrierPhaseRelease flight ctr) s =
      .next ((List.range 32).foldl (fun u c => u.wakeCore (32 * flight + c) fun _ _ => true) v)) ∧
  (∀ (launch : Nat) (s : State) (l : Launch), s.launch? launch = some l →
    (l.ending = none → s.launchOver launch l = true → exec (.launchEnd launch) s =
      .next (s.closeLaunch launch l (if l.anyDiverted then .wrapped else .complete) 0)) ∧
    (∀ (e : EndStatus) (code : Nat) (k : Launch), l.ending = some (e, code) →
      l.cut = none → (s.stopLaunch launch).tasksOf launch = [] →
      (s.stopLaunch launch).launch? launch = some k →
      exec (.launchEnd launch) s = .next ((s.stopLaunch launch).closeLaunch launch k e code)))

/-- The expiries that are due happen: a deadline (R422, R424), a wrap-up budget, which raises DEADLINE_HARD (R425), a gate's
per-call, cleanup and wrap-up budgets (R343, R361, R364), the watchdog, which raises WDOG (R468), the limits of SLEEP and
PAUSE (R149, R323); a launch all asleep traps and ends FAULT (R477), and an imprecise fault stops its launch (R457). -/
def Obligations.ExpiryEvents : Prop :=
  (∀ (n : Nat) (s : State) (l : Launch), s.launch? n = some l → s.expiryDue n l = true →
    exec (.deadlineExpiry n) s = .next (s.expire n l)) ∧
  (∀ (k : Nat) (s : State), (s.ctx k).live = true → (s.ctx k).t.wrapLeft = some 0 → (s.ctx k).struck = false →
    exec (.wrapUpBudgetOverrun k) s =
      .next (((s.setCtx k { s.ctx k with t := { (s.ctx k).t with wrapLeft := none } }).leaveTrap k).imprecise k .deadlineHard 0)) ∧
  (∀ (k depth : Nat) (s : State) (f : Frame), (s.ctx k).live = true → (s.ctx k).struck = false → 1 ≤ depth →
    (s.ctx k).frames.reverse[depth - 1]? = some f → f.budget = 0 → f.cleanup = false → f.wrapup = false → f.discard = false →
    (s.ctx k).unwind = [] → exec (.gateBudgetOverrun k depth) s = .next ((s.leftWait k).budgetIn k depth)) ∧
  (∀ (k : Nat) (s : State) (p : Frame → Bool) (i : Instr),
    (i = .cleanupBudgetOverrun k ∧ p = fun f => f.cleanup && f.endLeft == 0 && !f.discard) ∨
      (i = .gateWrapUpOverrun k ∧ p = fun f => f.wrapup && !f.cleanup && f.endLeft == 0 && !f.discard) →
    (s.ctx k).live = true → (s.ctx k).struck = false → (∃ f ∈ (s.ctx k).frames, p f = true) →
    exec i s = .next (((s.leftWait k).setCtx k
      { (s.leftWait k).ctx k with frames := markOver p (s.ctx k).frames }).unwound k)) ∧
  (∀ (k : Nat) (s : State), (s.ctx k).live = true → (s.ctx k).t.watch = some 0 → (s.ctx k).st ≠ .waiting .suspended →
    exec (.watchdogExpiry k) s =
      .next (((s.setCtx k { s.ctx k with t := { (s.ctx k).t with watch := none } }).leaveTrap k).imprecise k .wdog 0)) ∧
  (∀ (k l : Nat) (s : State), (s.ctx k).st = .waiting (.sleep (some l)) → l ≤ s.cycle →
    exec (.sleepTimeLimit k) s = .next (s.setCtx k { s.ctx k with wokeBy := some (0, 0) })) ∧
  (∀ (k til : Nat) (s : State), (s.ctx k).st = .waiting (.pause (some til)) → til ≤ s.cycle →
    exec (.pauseExpiry k) s = .next (s.setCtx k { s.ctx k with st := .ready })) ∧
  (∀ (n : Nat) (s : State) (l : Launch), s.launch? n = some l → s.allAsleep n l = true →
    exec (.allasleepTrap n) s =
      .next (((s.tasksOf n).foldl (fun s k => s.imprecise k .allasleep 0) s).endLaunch n .fault 19)) ∧
  (∀ (k : Nat) (s : State) (e : Cause), (s.ctx k).st = .waiting .fatal → (s.ctx k).imp = some e → (s.ctx k).c.s = true →
    s.logFull (ctxDie k) = false → exec (.impreciseFaultStop k) s = .next (s.supervisorFault k)) ∧
  (∀ (k : Nat) (s : State) (e : Cause), (s.ctx k).st = .waiting .fatal → (s.ctx k).imp = some e → (s.ctx k).c.s = false →
    let t := s.setCtx k { s.ctx k with imp := none }
    ((s.launch? (s.ctx k).t.launch).isSome = true →
      exec (.impreciseFaultStop k) s = .next (t.endLaunch (s.ctx k).t.launch .fault e.code)) ∧
    ((s.launch? (s.ctx k).t.launch) = none → exec (.impreciseFaultStop k) s = .next (t.endTask k)))

/-- The events of the service cores and of pre-emption that are due happen: a handler starts for the request that the queue
serves (R437, R454, R487), or the trap that none matches ends the launch (R455); a task at its boundary is suspended (R467),
the cut closes (R471), a flight is saved and restored (R466, R469, R470), slices begin and end and partitions are enabled and
disabled (R485, R486), an image is given up and forwarding ends (R474, R476), invalidations are acknowledged (R442). The
handler cycles of R487 are free (log 33), and the flip of a suspended core is log 34. That w3 of every handler, a TRAP's too,
holds the number of the cause is log 63. -/
def Obligations.ServiceAndPreemptionEvents : Prop :=
  (∀ (flight : Nat) (s : State) (r : Request), s.handlerFree flight = true → nextRequest (s.flight flight) = some r →
    let f := s.flight flight
    let t := s.setFlight flight { f with supq := f.supq.filter (· != r), vtime := r.fin }
    let u := t.refill flight (t.flight flight).supWait
    let v := u.handlersRead flight r
    (∀ e, u.handlerOf (u.flightPart flight) r = some e →
      exec (.handlerStart flight) s = .next (v.startHandler (u.serviceCore flight) r e)) ∧
    (u.handlerOf (u.flightPart flight) r = none → exec (.handlerStart flight) s = .next (v.unmatched r))) ∧
  (∀ (s : State) (core : Nat) (r : Request) (e : Word), 16 * core + 10 ≠ s.cur →
    let h := (s.startHandler core r e).ctx (16 * core + 10)
    h.st = .ready ∧ h.pc = e &&& ~~~ 1 ∧ h.c.s = true ∧ h.c.dom = 0 ∧ h.t.trap = some r.trap ∧
    h.r.getW 2 = BitVec.ofNat 64 r.ctx ∧ h.r.getW 3 = BitVec.ofNat 64 r.cause.code ∧
    h.r.getW 4 = if r.cause = .trap then 0 else r.tval) ∧
  (∀ (k : Nat) (s : State), s.stopAsked k = true → s.atBoundary k = true →
    let core := s.stopsWith k
    exec (.taskSuspension k) s =
      .next ((if (s.suspend k).coreEmpty core then (s.suspend k).flipAt core else s.suspend k).settleFlight
        (flightOf core))) ∧
  (∀ (p : Nat) (s : State), s.cutReady p = true →
    exec (.colourCutClose p) s = .next (s.closeCut p) ∧ ((s.closeCut p).part p).colour = !(s.part p).colour) ∧
  (∀ (flight pa : Nat) (s : State), (s.flight flight).st = .saving → s.saveArea flight = some pa →
    ∃ t, exec (.flightSaveComplete flight) s = .next t ∧ (t.flight flight).st = .saved ∧ (t.flight flight).part = none ∧
      (t.flight flight).barriers = [] ∧ ∃ i ∈ t.images, i.flight = true ∧ i.source = flight ∧ i.part = s.flightPart flight ∧
        i.addr = s.chip.toNat * 2 ^ 46 + pa ∧ i.barriers = (s.flight flight).barriers ∧
        i.cores = (List.range 32).map fun c => (32 * flight + c, s.core (32 * flight + c))) ∧
  (∀ (flight : Nat) (s : State) (i : Image) (into : List (Nat × Nat)), (s.flight flight).st = .restoring →
    s.flightImage flight ((s.flight flight).part.getD 0) = some i → s.wsClash i = false → s.flightPlaces i = some into →
    let v := s.failDoms (s.badDoms i)
    let t := i.cores.foldl (fun (t : State) (p : Nat × Core) =>
      (t.restoreCore i p.1 p.1 p.2.mode into).follow i p.1 p.1 into) v
    let t := (t.restoreFlight i flight).spend i
    let mine := (t.flight flight).ingress.partition fun e =>
      ((t.launch? e.launch).map (·.part)).getD ((s.flight flight).part.getD 0) == (s.flight flight).part.getD 0
    let u := t.onFlight flight fun y => { y with st := .running, ingress := mine.2, cutClosed := false }
    exec (.flightRestoreComplete flight) s = .next (((u.sift mine.1).1.enterAll (u.sift mine.1).2).divertAll
      ((i.ctxs.filter fun p => v.keepTask i p.2).map fun p => placed into p.1))) ∧
  (∀ (p : Nat) (s : State), (s.part p).enable = true → s.toTake p ≠ [] →
    let t := (s.toTake p).foldl (fun s f => s.giveFlight p f) s
    exec (.timeSliceStart p) s = .next (t.setPart p { t.part p with running := s.sliceOn p })) ∧
  (∀ (p : Nat) (s : State), s.toStop p ≠ [] →
    exec (.timeSliceEnd p) s =
      .next ((s.setPart p { s.part p with running := s.sliceOn p }).stopFlights p (s.toStop p))) ∧
  (∀ (p : Nat) (s : State), s.host.up = true → p < 64 → (s.part p).enable = false →
    exec (.partitionEnable p) s = .next (if s.entryOk p (s.part p)
      then
        let x := { s.part p with enable := true, refused := false, used := true, doms := s.readDoms (s.part p).domSet,
                                 pasids := s.freeCount }
        { s.setPart p x with freeCount := s.freeCount + 1 }
      else s.setPart p { s.part p with refused := true })) ∧
  (∀ (p : Nat) (s : State), s.host.up = true → p < 64 → (s.part p).enable = true →
    let t := s.setPart p { s.part p with enable := false, running := false, refused := false }
    exec (.partitionDisable p) s = .next (t.stopFlights p (t.toStop p))) ∧
  (∀ (core base since : Nat) (s : State) (i : Image), (s.core core).awaitsLoad = some (base, since) → since + 2 ^ 26 ≤ s.cycle →
    s.liveImages.find? (fun i => !i.flight && i.addr == base && i.source == core) = some i →
    let t := s.onCore core fun x => { x with runq := (s.heldEntries core i).2, mode := .serving, awaits := none }
    exec (.awaitLoadTimeout core) s = .next (i.launches.foldl (fun s n => s.endLaunch n .fault 21) (t.spend i))) ∧
  (∀ (core dst til : Nat) (s : State), (s.core core).forward = some (dst, til) → til ≤ s.cycle →
    exec (.sendForwardingExpiry core) s = .next (s.onCore core fun x => { x with forward := none })) ∧
  (∀ (a : InvAgent) (s : State) (i : Inval), i ∈ s.invals → s.mayAck a i = true →
    ∃ t, exec (.invalidationAcknowledge a) s = .next t ∧
      (∀ n, a = .core n → ∀ e ∈ (t.core n).tlb, i.covers e = false) ∧
      (∀ n, a = .flight n → ∀ e ∈ (t.flight n).tlb, i.covers e = false)) ∧
  (∀ s : State, s.host.up = true →
    exec .atsInvalidationCompletion s = .next { s with invals := firstAts s.invals }.closeInvals)

/-- What the host and other chips do at this package: a waiter's answer (R289), remote read-modify-writes, a remote TLWAIT
that is held until its condition is met, reads and writes, with the answers that leave by the link, charged (R289, R378,
R492, R495), the aperture and its domain (R481), writes to the registers of BAR 0 (R480, R482, R486), capacity moves (R488,
R489), the refill of a bucket (R379), a checkpoint (R385), a debug attach (R384) and a report (R377). Logs 32 and 38 to 40
say what of this is read from the spec by inference. -/
def Obligations.HostAndRemoteEvents : Prop :=
  (∀ (k : Nat) (v st : Word) (s : State), (s.ctx k).st = .waiting .tlwaitRemote →
    exec (.timelineWake k v st) s = .next (s.setCtx k { s.ctx k with wokeBy := some (v, st) })) ∧
  (∀ (chip : BitVec 18) (addr : Nat) (v : Word) (s : State) (l : List Where), s.linked chip = true → addr % 8 = 0 →
    s.localPlaces addr 8 = some l → s.linesBad l = none →
    let old := leNat (s.peeks l)
    let t := s.pokes l (natLe 8 ((old + v.toNat) % 2 ^ 64))
    exec (.remoteAtomic chip addr .tlsig v) s = .next (t.chain s.rels l (some (unitRel (2 ^ 22 + chip.toNat) 4))) ∧
    (∀ rel : Option (BitVec 3), s.egBlocked (ownerOf l) 2 = none → s.portRoom chip = true →
      let i := Instr.remoteAtomic chip addr (.amo 0 false rel) v
      exec i s = .next ((((t.chain s.rels l (rel.map (unitRel (2 ^ 22 + chip.toNat)))).unstall i).charge (ownerOf l) 2 8).respond
        chip))) ∧
  (∀ (chip : BitVec 18) (addr : Nat) (v : Word) (s : State) (l : List Where), s.linked chip = true → addr % 16 = 0 →
    s.localPlaces addr 16 = some l → s.linesBad l = none →
    let value := BitVec.ofNat 64 (leNat ((s.peeks l).take 8))
    let status := BitVec.ofNat 64 (leNat ((s.peeks l).drop 8))
    let met := status.getLsbD 0 = true ∨ (value - v).toNat < 2 ^ 63
    (¬ met → exec (.remoteAtomic chip addr .tlwait v) s =
      .next { s with remoteWaits := s.remoteWaits ++ [{ chip := chip, addr := addr, threshold := v }] }) ∧
    (met → s.egBlocked (ownerOf l) 2 = none → s.portRoom chip = true → exec (.remoteAtomic chip addr .tlwait v) s =
      .next (((s.unstall (.remoteAtomic chip addr .tlwait v)).charge (ownerOf l) 2 16).respond chip))) ∧
  (∀ (chip : BitVec 18) (addr n : Nat) (s : State) (l : List Where), s.linked chip = true → s.localPlaces addr n = some l →
    s.egBlocked (ownerOf l) 2 = none → s.portRoom chip = true →
    exec (.remoteAccess chip addr (.read n)) s =
      .next (((s.unstall (.remoteAccess chip addr (.read n))).charge (ownerOf l) 2 n).respond chip)) ∧
  (∀ (chip : BitVec 18) (addr : Nat) (b : List Byte) (rel : Option (BitVec 3)) (s : State) (l : List Where),
    s.linked chip = true → s.localPlaces addr b.length = some l →
    let r := rel.map (unitRel (2 ^ 22 + chip.toNat))
    (b.length = 64 → addr % 64 = 0 →
      exec (.remoteAccess chip addr (.write b rel)) s = .next (((l.foldl State.sealLine s).pokes l b).chain [] l r)) ∧
    ((b.length ≠ 64 ∨ addr % 64 ≠ 0) → s.linesBad l = none →
      exec (.remoteAccess chip addr (.write b rel)) s = .next ((s.pokes l b).chain [] l r))) ∧
  (∀ (fn n : Nat) (addr : Word) (s : State), s.host.up = true →
    let i := Instr.apertureAccess fn addr (.read n)
    (s.aperture fn addr .load n = none → s.apertureBad fn addr .load n = none → exec i s = .next s.abort) ∧
    ∀ l t, s.aperture fn addr .load n = some l → s.egFirst (s.apertureEgress fn true false l) = none → s.linesBad l = none →
      ((s.unstall i).chargeAll (s.apertureEgress fn true false l)).linkOut l 0 0 = some t →
      exec i s = .next (t.answer { abort := false, data := s.peeks l })) ∧
  (∀ (fn : Nat) (addr : Word) (b : List Byte) (s : State), s.host.up = true →
    let i := Instr.apertureAccess fn addr (.write b)
    (s.aperture fn addr .store b.length = none → s.apertureBad fn addr .store b.length = none → exec i s = .next s.abort) ∧
    ∀ l t, s.aperture fn addr .store b.length = some l → s.egFirst (s.apertureEgress fn false true l) = none →
      let whole := fun (p : Where) => covers l p && !s.unreached p
      s.linesBad (l.filter fun p => !whole p) = none →
      ((s.unstall i).chargeAll (s.apertureEgress fn false true l)).linkOut l 0 0 = some t →
      exec i s = .next ((((l.filter whole).foldl State.sealLine t).pokes l b).answer { abort := false, data := [] })) ∧
  (∀ (fn : Nat) (addr v e : Word) (s : State), s.host.up = true →
    (addr.toNat % 8 ≠ 0 → exec (.apertureAtomicop fn addr (.fetchAdd v)) s = .next s.abort) ∧
    ∀ l, addr.toNat % 8 = 0 → (s.aperture fn addr .load 8).isSome = true → s.aperture fn addr .store 8 = some l →
      s.egFirst (s.apertureEgress fn true true l) = none → (∀ p ∈ l, isHost p.key = false) → s.linesBad l = none →
      let old := BitVec.ofNat 64 (leNat (s.peeks l))
      let leaves := fun (op : HostAtomic) (x : Word) => ∀ t,
        ((s.unstall (.apertureAtomicop fn addr op)).chargeAll (s.apertureEgress fn true true l)).linkOut l 2 0 = some t →
        exec (.apertureAtomicop fn addr op) s =
          .next (((t.pokes l (natLe 8 x.toNat)).chain s.rels l none).answer { abort := false, data := natLe 8 old.toNat })
      leaves (.fetchAdd v) (old + v) ∧ leaves (.swap v) v ∧ leaves (.cas e v) (if old = e then v else old)) ∧
  (∀ (fn : Nat) (x : Word) (s : State), s.host.up = true → fn ≤ 64 → s.fnHolds fn (x.extractLsb' 0 12) = true →
    ∃ t, exec (.apertureDomainWrite fn x) s = .next t ∧ t.apDomain fn = x.extractLsb' 0 12) ∧
  (∀ (fn q : Nat) (x : Word) (s : State), s.host.up = true → fn ≤ 64 → q < 16 →
    exec (.registerWrite fn (0x2000 + 64 * q) x) s =
      .next (s.setQueue (16 * fn + q) { s.queue (16 * fn + q) with base := x &&& ~~~ 0xFFF })) ∧
  (∀ (p : Nat) (x : Word) (s : State), s.host.up = true → p < 64 → (s.part p).enable = false →
    exec (.registerWrite 0 (0x4000 + 256 * p + 8) x) s =
      .next (s.setPart p { s.part p with period := x.toNat % 2 ^ 32, slice := x.toNat / 2 ^ 32 })) ∧
  (∀ (block pair : Word) (s : State), s.host.up = true → s.host.move.open = true →
    let u := if s.host.move.st = .added then s.msix (s.host.move.receiver + 1) 0 else s
    let m := { s.host.move with block := block, pair := pair, ofBlock := block, ofPair := pair }
    exec (.moveOffer block pair) s = .next (if u.moveRefusal m = 0
      then (u.setMove { m with st := .offered, refusal := 0 }).msix (m.giver + 1) 0
      else u.setMove { m with st := .refused, refusal := u.moveRefusal m })) ∧
  (∀ s : State, s.host.up = true → s.host.move.st = .offered →
    exec .moveCancel s = .next ((s.setMove { s.host.move with st := .idle }).msix (s.host.move.giver + 1) 0) ∧
    ∃ t, exec (.removalAcknowledge (s.host.move.giver + 1)) s = .next t ∧ t.mem = s.mem ∧
      t.host.move.st = if s.keylessPage s.host.move then .refused else .scrubbing) ∧
  (∀ (s : State) (k : Nat), s.host.move.st = .scrubbing → (∀ p ∈ s.cores ++ s.liveImages.flatMap (·.cores), ∀ c ∈ p.2.eng.queue, ∀ h ∈ c.holding, s.inBlock h = false) →
    s.logShort (Config.dieOf s.host.move.base) 4096 = false → keyOf s.keys 0 = some k →
    exec .scrubbingComplete s = .next
      (((s.giveBlock s.host.move (sealNo k 0)).setMove { s.host.move with st := .added }).msix (s.host.move.receiver + 1) 0)) ∧
  (∀ (dom : Dom) (cls : BitVec 2) (micros : Nat) (s : State) (b : Bucket),
    find? s.egress (4 * dom.toNat + cls.toNat) = some b → b.enable = true →
    let x : Bucket := { b with level := min b.capacity (b.level + b.rate * micros) }
    exec (.egressBucketRefill dom cls micros) s = .next { s with egress := put s.egress (4 * dom.toNat + cls.toNat) x }) ∧
  (∀ (die : Nat) (s : State), s.sec.booted = true → die < 4 → (s.die die).log.seq ≠ 0 →
    exec (.logCheckpointRequest die) s = .next (s.addCheckpoint die)) ∧
  (∀ (port : Nat) (target : Dom) (s : State), s.sec.booted = true → s.logFull 0 = false →
    exec (.debugAttach port target) s = .next (s.logAt 0 0 false 7 0 target (BitVec.ofNat 64 port) 0 0)) ∧
  (∀ (dom : Dom) (nonce : Vec) (s : State), s.sec.booted = true → Config.dramExists s.sec.mailbox = true →
    Config.dramExists (s.sec.mailbox + 815) = true →
    let h := s.reportHead dom nonce
    let b := h ++ (List.range 512).map (Config.sign h)
    exec (.attestationRequest dom nonce) s = .next
      (((List.range b.length).map (fun i => s.chip.toNat * 2 ^ 46 + s.sec.mailbox + i)).zip b |>.foldl
        (fun s p => s.poke p.1 p.2) s))

/-- Power, time and the links: a boot that passes its steps gives the state of R496, and one that fails stops the package at
the step; firmware (R498), a thermal trip, after which every step is a fault (R499), throttling (R500), the time (R421),
resets (R490, R491), and the flits of a port (R493, R494). Logs 8, 41 and 42 say what
of this the model chose. -/
def Obligations.PowerTimeAndLinkEvents : Prop :=
  (∀ (b : BootInput) (s : State), s.sec.booted = false →
    (b.signatureOk = true → s.sec.fuse ≤ s.sec.flash.getD b.version → b.measured = true → b.trained = true → 12 ≤ b.logK →
      b.logK ≤ 24 → fusesOk b = true → (∀ p, b.ptpSource = some p → p.toNat < 24) → b.started = true →
      ∃ t, exec (.powerOnBoot b) s = .next t ∧ t.sec.booted = true ∧ t.stopped = s.stopped ∧ t.host.up = true ∧
        keyOf t.keys 0 = some 0 ∧ keyOf t.keys 0xFFF = some 1 ∧ t.mem = s.mem ∧
        t.host.enableWord = b.enableWord ∧ t.host.coreCounts = b.coreCounts ∧ t.sec.running = s.sec.flash.getD b.version ∧
        t.sec.kernel = true) ∧
    (b.signatureOk = false ∨ s.sec.flash.getD b.version < s.sec.fuse →
      ∃ t, exec (.powerOnBoot b) s = .next t ∧ t.stopped = some (.boot 1) ∧ t.host.failedStep = 1)) ∧
  (∀ (v : Nat) (s : State), s.sec.fuse ≤ v →
    exec (.firmwareUpdate v true) s = .next { s with sec := { s.sec with pendingFw := some v, flash := some v } }) ∧
  (∀ s : State, ∃ t, exec .thermalTrip s = .next t ∧ t.host.up = false ∧ step t = .fault .packageStopped) ∧
  (∀ s : State, 8 ≤ s.clock → s.clock ≤ 16 →
    exec (.throttleStep true) s = .next { s with clock := if s.clock = 16 then 16 else s.clock + 1 } ∧
    exec (.throttleStep false) s = .next { s with clock := if s.clock = 8 then 8 else s.clock - 1 }) ∧
  (∀ (die time : Nat) (off : Int) (s : State), die < 4 →
    let n := if -100 ≤ off ∧ off ≤ 100 then (s.die die).inRange + 1 else 0
    ∃ t, exec (.ptpSynchronisation die time off) s = .next t ∧ (t.die die).inRange = n ∧ (t.die die).offset = off ∧
      ((t.die die).locked = true ↔ 16 ≤ n) ∧ (t.die die).holdover = false ∧ (s.die die).time ≤ (t.die die).time ∧
      ((s.die die).everLocked = true → (t.die die).time = (s.die die).time ∧ (t.die die).everLocked = true) ∧
      ((s.die die).everLocked = false → 16 ≤ n →
        (t.die die).time = max (s.die die).time time ∧ (t.die die).everLocked = true) ∧
      ((s.die die).everLocked = false → n < 16 → (t.die die).time = (s.die die).time ∧ (t.die die).everLocked = false) ∧
      ∀ d, d ≠ die → t.die d = s.die d) ∧
  (∀ (die : Nat) (s : State), die < 4 →
    ∃ t, exec (.holdover die) s = .next t ∧ (t.die die).holdover = true ∧ (t.die die).locked = false ∧
      (t.die die).time = (s.die die).time) ∧
  (∀ s : State, s.sec.booted = true → s.sec.selfHosted = true →
    let u : State := { s with
      host := { s.host with
        up := true, resets := s.host.resets + 1, msix := [], vectors := [], bars := [], config := [], replies := [],
        queues := (List.range 1040).map fun k => (k, { s.queue k with disconnected := true }) },
      invals := s.invals.map fun i => { i with ats := false } }
    exec .hotReset s = .next u.failHostWrites.closeInvals ∧
    ((∀ p ∈ u.cores, ∀ c ∈ p.2.eng.queue, u.writesHost p.1 c = false) → u.failHostWrites = u)) ∧
  (∀ s : State, s.sec.booted = true → s.sec.selfHosted = false →
    ∃ t, exec .packageReset s = .next t ∧ t.sec.booted = false ∧ t.mem = [] ∧ t.me = Ctx.idle ∧ t.ctxs = [] ∧ t.launches = [] ∧
      t.keys = [] ∧ t.chip = s.chip ∧ t.host.coreCounts = s.host.coreCounts ∧ s.sec.fuse ≤ t.sec.fuse) ∧
  (∀ (port : Nat) (f : Flit) (s : State) (p : Port), find? s.ports port = some p → p.up = true → p.refused < 16 →
    ∃ t q, exec (.flitReceive port f true) s = .next t ∧ find? t.ports port = some q ∧
      (f.crcOk = false → q.rxSeq = p.rxSeq ∧ q.received = p.received ∧ q.nacks = p.nacks ++ [p.rxSeq] ∧ q.refused = p.refused + 1) ∧
      (f.crcOk = true → f.kind = 0 → f.seq = p.rxSeq →
        q.rxSeq = p.rxSeq + 1 ∧ q.received = f :: p.received ∧ q.nacks = p.nacks ∧ q.refused = 0) ∧
      (f.crcOk = true → f.kind = 0 → f.seq ≠ p.rxSeq → q.rxSeq = p.rxSeq ∧ q.received = p.received ∧ q.nacks = p.nacks ++ [p.rxSeq])) ∧
  (∀ (port : Nat) (e : BitVec 12) (s : State) (p : Port), find? s.ports port = some p → p.up = true →
    let l := p.unacked.filter fun f => (f.seq - e).toNat < 2048
    let q : Port := { p with unacked := l, sent := l.reverse ++ p.sent }
    exec (.negativeAcknowledge port e) s = .next { s with ports := put s.ports port q }) ∧
  (∀ (port : Nat) (s : State) (p : Port), port < 24 → s.host.enableWord.getLsbD (28 + port) = true → find? s.ports port = some p →
    let runs := fun (n : Nat) =>
      let q : Port := { p with lanes := n, up := true, refused := 0, sent := p.unacked.reverse ++ p.sent }
      Host.Outcome.next { s with ports := put s.ports port q }
    exec (.portRetrain port .lanes8) s = runs 8 ∧ exec (.portRetrain port .lanes4) s = runs 4 ∧
    exec (.portRetrain port .lanes2) s = runs 2 ∧
    let down : Port := { p with up := false, refused := 0 }
    exec (.portRetrain port .none) s = .next (({ s with ports := put s.ports port down } : State).reroute port p.unacked))

/-- Words that the spec writes out decode to the instructions that it gives for them (R16, R44, R80, R152, R182, R224, R345,
R401, R443); OR w17, w12, w13 is written field by field as R16 gives it. -/
def Obligations.DecodesSpecWords : Prop :=
  decode (0b010001 * 2 ^ 26 + 0b001100 * 2 ^ 20 + 0b001101 * 2 ^ 14 + 0b000011 * 2 ^ 8 + 0x01 * 2 + 1) =
    .ok (.orI (.w 17) (.w 12) (.w 13)) ∧
  decode 0x1842 = .ok (.addi16 1 1) ∧ decode 0x1061C003 = .ok (.add (.w 4) (.w 6) (.w 7)) ∧
  decode 0x24802057 = .ok (.ldD (.w 9) (.w 8) 0x20) ∧ decode 0xA000 = .ok .end16 ∧
  decode 0x042FE045 = .ok (.bLt (.w 1) (.w 2) 0xFE0) ∧ decode 0x1082CF67 = .ok (.ldx (.w 4) (.w 8) (.w 11) 3 3) ∧
  decode 0xA22180A3 = .ok (.vfma 10 2 2 0 .fp32 .dyn) ∧ decode 0x03405AC1 = .ok (.rep 0 (.imm 4) 1 0b11010) ∧
  decode 0x2A2E008B = .ok (.fmt 2 10 2 7 false 0 0) ∧ decode 0x0B9600E1 = .ok (.gcall 1 14 11) ∧
  decode 0x221680E1 = .ok (.ginfo 4 8 11) ∧ decode 0x2A00A0E1 = .ok (.domid 5 8) ∧
  decode 0x14834AF1 = .ok (.potw (.w 5) (.w 8) (.w 13))
end
end

