-- ==== Sys2Proof/Laws/Memory.lean ====
section
/-!
SUPPORT. Memory and tables: a read after a write, and every operation on memory keeps the canonical form.
-/
set_option Elab.async false
namespace Sys2Proof.Machine

/-! ### Reads after writes -/

theorem Memory.get_nil (a : Nat) : Memory.get [] a = 0 := rfl

theorem Memory.get_cons (j : Nat) (y : Byte) (r : List Host.Cell) (a : Nat) :
    Memory.get ((j, y) :: r) a = if j = a then y else Memory.get r a := by
  simp only [Memory.get, find, beq_iff_eq]

/-- An address below every listed one reads as an unlisted byte. -/
theorem Memory.get_above (m : List Host.Cell) (a b : Nat) (h : Memory.wf m = true) (ha : Memory.above a m = true)
    (hb : b ≤ a) : Memory.get m b = 0 := by
  induction m generalizing a with
  | nil => rfl
  | cons p r ih =>
    obtain ⟨j, y⟩ := p
    simp only [Memory.wf, Memory.above, Bool.and_eq_true, decide_eq_true_eq] at h ha
    rw [Memory.get_cons, if_neg (by omega)]
    exact ih j h.2 h.1.2 (by omega)

/-- A byte read back is the byte written; every other byte stands. -/
theorem Memory.get_set (m : List Host.Cell) (a b : Nat) (x : Byte) (h : Memory.wf m = true) :
    Memory.get (Memory.set m a x) b = if b = a then x else Memory.get m b := by
  induction m with
  | nil =>
    unfold Memory.set
    split
    · rename_i hx; simp only [beq_iff_eq] at hx; subst hx; simp [Memory.get_nil]
    · simp only [Memory.get_cons, Memory.get_nil]; split <;> split <;> simp_all
  | cons p r ih =>
    obtain ⟨j, y⟩ := p
    simp only [Memory.wf, Bool.and_eq_true] at h
    unfold Memory.set
    simp only [beq_iff_eq]
    split
    · rename_i hj; subst hj
      split
      · rename_i hx; subst hx
        rw [Memory.get_cons]
        by_cases hb : b = j
        · subst hb; simp only [if_true]; exact Memory.get_above r b b h.2 h.1.2 (Nat.le_refl _)
        · rw [if_neg hb, if_neg (fun e => hb e.symm)]
      · simp only [Memory.get_cons]; by_cases hb : b = j <;> simp [hb, eq_comm]
    · rename_i hj
      split
      · rename_i ha
        split
        · rename_i hx; subst hx
          by_cases hb : b = a
          · subst hb
            rw [if_pos rfl, Memory.get_cons, if_neg hj]
            exact Memory.get_above r j b h.2 h.1.2 (by omega)
          · rw [if_neg hb]
        · simp only [Memory.get_cons]
          by_cases hb : b = a
          · simp [hb]
          · simp [hb, Ne.symm hb]
      · simp only [Memory.get_cons, ih h.2]
        by_cases hb : b = a
        · subst hb; simp [hj]
        · simp [hb]

/-! ### The canonical form -/

theorem Memory.above_set (m : List Host.Cell) (k a : Nat) (x : Byte) (hk : k < a) (h : Memory.above k m = true)
    (hm : Memory.wf m = true) : Memory.above k (Memory.set m a x) = true := by
  cases m with
  | nil => unfold Memory.set; split <;> simp [Memory.above, hk]
  | cons p r =>
    obtain ⟨j, y⟩ := p
    simp only [Memory.above, decide_eq_true_eq] at h
    simp only [Memory.wf, Bool.and_eq_true] at hm
    unfold Memory.set
    split
    · split
      · cases r with
        | nil => rfl
        | cons q t =>
          have := hm.1.2
          simp only [Memory.above, decide_eq_true_eq] at this ⊢; omega
      · simp [Memory.above, hk]
    · split
      · split <;> simp [Memory.above, hk, h]
      · simp [Memory.above, h]

/-- A write keeps the canonical form. -/
theorem Memory.wf_set (m : List Host.Cell) (a : Nat) (x : Byte) (h : Memory.wf m = true) :
    Memory.wf (Memory.set m a x) = true := by
  induction m with
  | nil => unfold Memory.set; split <;> simp_all [Memory.wf, Memory.above]
  | cons p r ih =>
    obtain ⟨j, y⟩ := p
    simp only [Memory.wf, Bool.and_eq_true, bne_iff_ne] at h
    unfold Memory.set
    simp only [beq_iff_eq]
    split
    · rename_i hj; subst hj
      split
      · exact h.2
      · simp_all [Memory.wf]
    · rename_i hj
      split
      · split
        · simp_all [Memory.wf]
        · simp_all [Memory.wf, Memory.above]
      · simp only [Memory.wf, Bool.and_eq_true, bne_iff_ne]
        exact ⟨⟨h.1.1, Memory.above_set r j a x (by omega) h.1.2 h.2⟩, ih h.2⟩

theorem Memory.wf_setBytes (b : List Byte) (m : List Host.Cell) (a : Nat) (h : Memory.wf m = true) :
    Memory.wf (Memory.setBytes m a b) = true := by
  induction b generalizing m a with
  | nil => exact h
  | cons x r ih => exact ih _ _ (Memory.wf_set m a x h)

theorem Memory.wf_setWord (m : List Host.Cell) (a : Nat) (w : Word) (h : Memory.wf m = true) :
    Memory.wf (Memory.setWord m a w) = true := Memory.wf_setBytes _ _ _ h

theorem Memory.wf_tail (p : Host.Cell) (r : List Host.Cell) (h : Memory.wf (p :: r) = true) : Memory.wf r = true := by
  simp only [Memory.wf, Bool.and_eq_true] at h; exact h.2

theorem Memory.above_filter (f : Host.Cell → Bool) (m : List Host.Cell) (k : Nat) (h : Memory.wf m = true)
    (hk : Memory.above k m = true) : Memory.above k (m.filter f) = true := by
  induction m generalizing k with
  | nil => rfl
  | cons p r ih =>
    obtain ⟨j, y⟩ := p
    simp only [Memory.wf, Bool.and_eq_true, Memory.above, decide_eq_true_eq] at h hk
    rw [List.filter_cons]
    split
    · simp [Memory.above, hk]
    · apply ih k h.2
      cases r with
      | nil => rfl
      | cons q t => have := h.1.2; simp only [Memory.above, decide_eq_true_eq] at this ⊢; omega

/-- Removing cells keeps the canonical form. -/
theorem Memory.wf_filter (f : Host.Cell → Bool) (m : List Host.Cell) (h : Memory.wf m = true) :
    Memory.wf (m.filter f) = true := by
  induction m with
  | nil => rfl
  | cons p r ih =>
    obtain ⟨j, y⟩ := p
    have h2 := h
    simp only [Memory.wf, Bool.and_eq_true] at h
    rw [List.filter_cons]
    split
    · simp only [Memory.wf, Bool.and_eq_true]
      exact ⟨⟨h.1.1, Memory.above_filter f r j h.2 h.1.2⟩, ih h.2⟩
    · exact ih h.2

theorem Memory.wf_clear (m : List Host.Cell) (lo n : Nat) (h : Memory.wf m = true) :
    Memory.wf (Memory.clear m lo n) = true := Memory.wf_filter _ m h

/-- A fold of writes keeps the canonical form. -/
theorem Memory.wf_foldl_set {α : Type} (f : α → Nat) (g : α → Byte) (l : List α) (m : List Host.Cell)
    (h : Memory.wf m = true) : Memory.wf (l.foldl (fun m p => Memory.set m (f p) (g p)) m) = true := by
  induction l generalizing m with
  | nil => exact h
  | cons p r ih => exact ih _ (Memory.wf_set m _ _ h)

/-- The memory of the reset state has the canonical form. -/
theorem reset_mem_wf : Memory.wf State.reset.mem = true := rfl

/-! ### Tables -/

theorem find_put_same {α : Type} (l : List (Nat × α)) (k : Nat) (x d : α) : find (put l k x) k d = x := by
  induction l with
  | nil => simp [put, find]
  | cons p r ih =>
    obtain ⟨j, y⟩ := p
    unfold put
    split
    · simp [find]
    · split
      · simp [find]
      · rename_i h1 h2; simp_all [find]

theorem find_put_other {α : Type} (l : List (Nat × α)) (k i : Nat) (x d : α) (h : i ≠ k) :
    find (put l k x) i d = find l i d := by
  induction l with
  | nil => simp [put, find, Ne.symm h]
  | cons p r ih =>
    obtain ⟨j, y⟩ := p
    unfold put
    split
    · rename_i hj; simp only [beq_iff_eq] at hj; subst hj; simp [find, Ne.symm h]
    · split
      · simp [find, Ne.symm h]
      · simp only [find, ih]

end Sys2Proof.Machine
end

