-- ==== Sys2Proof/Laws/State.lean ====
section
/-!
SUPPORT. One lemma for each field of the state and each update of it: what the update leaves, by rfl.
-/
set_option Elab.async false
noncomputable section
namespace Sys2Proof.Machine

/-! ### setCore -/

@[simp] theorem State.setCore_me (s : State) (c : Nat) (x : Core) : (s.setCore c x).me = s.me := rfl
@[simp] theorem State.setCore_cur (s : State) (c : Nat) (x : Core) : (s.setCore c x).cur = s.cur := rfl
@[simp] theorem State.setCore_ctxs (s : State) (c : Nat) (x : Core) : (s.setCore c x).ctxs = s.ctxs := rfl
@[simp] theorem State.setCore_cores (s : State) (c : Nat) (x : Core) : (s.setCore c x).cores = put s.cores c x := rfl
@[simp] theorem State.setCore_gcores (s : State) (c : Nat) (x : Core) : (s.setCore c x).gcores = s.gcores := rfl
@[simp] theorem State.setCore_flights (s : State) (c : Nat) (x : Core) : (s.setCore c x).flights = s.flights := rfl
@[simp] theorem State.setCore_lofts (s : State) (c : Nat) (x : Core) : (s.setCore c x).lofts = s.lofts := rfl
@[simp] theorem State.setCore_dies (s : State) (c : Nat) (x : Core) : (s.setCore c x).dies = s.dies := rfl
@[simp] theorem State.setCore_mem (s : State) (c : Nat) (x : Core) : (s.setCore c x).mem = s.mem := rfl
@[simp] theorem State.setCore_launches (s : State) (c : Nat) (x : Core) : (s.setCore c x).launches = s.launches := rfl
@[simp] theorem State.setCore_nextLaunch (s : State) (c : Nat) (x : Core) : (s.setCore c x).nextLaunch = s.nextLaunch := rfl
@[simp] theorem State.setCore_msgs (s : State) (c : Nat) (x : Core) : (s.setCore c x).msgs = s.msgs := rfl
@[simp] theorem State.setCore_joins (s : State) (c : Nat) (x : Core) : (s.setCore c x).joins = s.joins := rfl
@[simp] theorem State.setCore_gates (s : State) (c : Nat) (x : Core) : (s.setCore c x).gates = s.gates := rfl
@[simp] theorem State.setCore_keys (s : State) (c : Nat) (x : Core) : (s.setCore c x).keys = s.keys := rfl
@[simp] theorem State.setCore_keyBook (s : State) (c : Nat) (x : Core) : (s.setCore c x).keyBook = s.keyBook := rfl
@[simp] theorem State.setCore_pageKey (s : State) (c : Nat) (x : Core) : (s.setCore c x).pageKey = s.pageKey := rfl
@[simp] theorem State.setCore_lineKey (s : State) (c : Nat) (x : Core) : (s.setCore c x).lineKey = s.lineKey := rfl
@[simp] theorem State.setCore_eccLines (s : State) (c : Nat) (x : Core) : (s.setCore c x).eccLines = s.eccLines := rfl
@[simp] theorem State.setCore_pot (s : State) (c : Nat) (x : Core) : (s.setCore c x).pot = s.pot := rfl
@[simp] theorem State.setCore_egress (s : State) (c : Nat) (x : Core) : (s.setCore c x).egress = s.egress := rfl
@[simp] theorem State.setCore_egressBytes (s : State) (c : Nat) (x : Core) : (s.setCore c x).egressBytes = s.egressBytes := rfl
@[simp] theorem State.setCore_perf (s : State) (c : Nat) (x : Core) : (s.setCore c x).perf = s.perf := rfl
@[simp] theorem State.setCore_errLog (s : State) (c : Nat) (x : Core) : (s.setCore c x).errLog = s.errLog := rfl
@[simp] theorem State.setCore_parts (s : State) (c : Nat) (x : Core) : (s.setCore c x).parts = s.parts := rfl
@[simp] theorem State.setCore_invals (s : State) (c : Nat) (x : Core) : (s.setCore c x).invals = s.invals := rfl
@[simp] theorem State.setCore_past (s : State) (c : Nat) (x : Core) : (s.setCore c x).past = s.past := rfl
@[simp] theorem State.setCore_rels (s : State) (c : Nat) (x : Core) : (s.setCore c x).rels = s.rels := rfl
@[simp] theorem State.setCore_images (s : State) (c : Nat) (x : Core) : (s.setCore c x).images = s.images := rfl
@[simp] theorem State.setCore_host (s : State) (c : Nat) (x : Core) : (s.setCore c x).host = s.host := rfl
@[simp] theorem State.setCore_ports (s : State) (c : Nat) (x : Core) : (s.setCore c x).ports = s.ports := rfl
@[simp] theorem State.setCore_routes (s : State) (c : Nat) (x : Core) : (s.setCore c x).routes = s.routes := rfl
@[simp] theorem State.setCore_remoteWaits (s : State) (c : Nat) (x : Core) : (s.setCore c x).remoteWaits = s.remoteWaits := rfl
@[simp] theorem State.setCore_stalls (s : State) (c : Nat) (x : Core) : (s.setCore c x).stalls = s.stalls := rfl
@[simp] theorem State.setCore_sec (s : State) (c : Nat) (x : Core) : (s.setCore c x).sec = s.sec := rfl
@[simp] theorem State.setCore_chip (s : State) (c : Nat) (x : Core) : (s.setCore c x).chip = s.chip := rfl
@[simp] theorem State.setCore_clock (s : State) (c : Nat) (x : Core) : (s.setCore c x).clock = s.clock := rfl
@[simp] theorem State.setCore_cycle (s : State) (c : Nat) (x : Core) : (s.setCore c x).cycle = s.cycle := rfl
@[simp] theorem State.setCore_seq (s : State) (c : Nat) (x : Core) : (s.setCore c x).seq = s.seq := rfl
@[simp] theorem State.setCore_freeCount (s : State) (c : Nat) (x : Core) : (s.setCore c x).freeCount = s.freeCount := rfl
@[simp] theorem State.setCore_agenda (s : State) (c : Nat) (x : Core) : (s.setCore c x).agenda = s.agenda := rfl
@[simp] theorem State.setCore_inputs (s : State) (c : Nat) (x : Core) : (s.setCore c x).inputs = s.inputs := rfl
@[simp] theorem State.setCore_rot (s : State) (c : Nat) (x : Core) : (s.setCore c x).rot = s.rot := rfl
@[simp] theorem State.setCore_stopped (s : State) (c : Nat) (x : Core) : (s.setCore c x).stopped = s.stopped := rfl

/-! ### onCore -/

@[simp] theorem State.onCore_me (s : State) (c : Nat) (f : Core → Core) : (s.onCore c f).me = s.me := rfl
@[simp] theorem State.onCore_cur (s : State) (c : Nat) (f : Core → Core) : (s.onCore c f).cur = s.cur := rfl
@[simp] theorem State.onCore_ctxs (s : State) (c : Nat) (f : Core → Core) : (s.onCore c f).ctxs = s.ctxs := rfl
@[simp] theorem State.onCore_cores (s : State) (c : Nat) (f : Core → Core) : (s.onCore c f).cores = put s.cores c (f (s.core c)) := rfl
@[simp] theorem State.onCore_gcores (s : State) (c : Nat) (f : Core → Core) : (s.onCore c f).gcores = s.gcores := rfl
@[simp] theorem State.onCore_flights (s : State) (c : Nat) (f : Core → Core) : (s.onCore c f).flights = s.flights := rfl
@[simp] theorem State.onCore_lofts (s : State) (c : Nat) (f : Core → Core) : (s.onCore c f).lofts = s.lofts := rfl
@[simp] theorem State.onCore_dies (s : State) (c : Nat) (f : Core → Core) : (s.onCore c f).dies = s.dies := rfl
@[simp] theorem State.onCore_mem (s : State) (c : Nat) (f : Core → Core) : (s.onCore c f).mem = s.mem := rfl
@[simp] theorem State.onCore_launches (s : State) (c : Nat) (f : Core → Core) : (s.onCore c f).launches = s.launches := rfl
@[simp] theorem State.onCore_nextLaunch (s : State) (c : Nat) (f : Core → Core) : (s.onCore c f).nextLaunch = s.nextLaunch := rfl
@[simp] theorem State.onCore_msgs (s : State) (c : Nat) (f : Core → Core) : (s.onCore c f).msgs = s.msgs := rfl
@[simp] theorem State.onCore_joins (s : State) (c : Nat) (f : Core → Core) : (s.onCore c f).joins = s.joins := rfl
@[simp] theorem State.onCore_gates (s : State) (c : Nat) (f : Core → Core) : (s.onCore c f).gates = s.gates := rfl
@[simp] theorem State.onCore_keys (s : State) (c : Nat) (f : Core → Core) : (s.onCore c f).keys = s.keys := rfl
@[simp] theorem State.onCore_keyBook (s : State) (c : Nat) (f : Core → Core) : (s.onCore c f).keyBook = s.keyBook := rfl
@[simp] theorem State.onCore_pageKey (s : State) (c : Nat) (f : Core → Core) : (s.onCore c f).pageKey = s.pageKey := rfl
@[simp] theorem State.onCore_lineKey (s : State) (c : Nat) (f : Core → Core) : (s.onCore c f).lineKey = s.lineKey := rfl
@[simp] theorem State.onCore_eccLines (s : State) (c : Nat) (f : Core → Core) : (s.onCore c f).eccLines = s.eccLines := rfl
@[simp] theorem State.onCore_pot (s : State) (c : Nat) (f : Core → Core) : (s.onCore c f).pot = s.pot := rfl
@[simp] theorem State.onCore_egress (s : State) (c : Nat) (f : Core → Core) : (s.onCore c f).egress = s.egress := rfl
@[simp] theorem State.onCore_egressBytes (s : State) (c : Nat) (f : Core → Core) : (s.onCore c f).egressBytes = s.egressBytes := rfl
@[simp] theorem State.onCore_perf (s : State) (c : Nat) (f : Core → Core) : (s.onCore c f).perf = s.perf := rfl
@[simp] theorem State.onCore_errLog (s : State) (c : Nat) (f : Core → Core) : (s.onCore c f).errLog = s.errLog := rfl
@[simp] theorem State.onCore_parts (s : State) (c : Nat) (f : Core → Core) : (s.onCore c f).parts = s.parts := rfl
@[simp] theorem State.onCore_invals (s : State) (c : Nat) (f : Core → Core) : (s.onCore c f).invals = s.invals := rfl
@[simp] theorem State.onCore_past (s : State) (c : Nat) (f : Core → Core) : (s.onCore c f).past = s.past := rfl
@[simp] theorem State.onCore_rels (s : State) (c : Nat) (f : Core → Core) : (s.onCore c f).rels = s.rels := rfl
@[simp] theorem State.onCore_images (s : State) (c : Nat) (f : Core → Core) : (s.onCore c f).images = s.images := rfl
@[simp] theorem State.onCore_host (s : State) (c : Nat) (f : Core → Core) : (s.onCore c f).host = s.host := rfl
@[simp] theorem State.onCore_ports (s : State) (c : Nat) (f : Core → Core) : (s.onCore c f).ports = s.ports := rfl
@[simp] theorem State.onCore_routes (s : State) (c : Nat) (f : Core → Core) : (s.onCore c f).routes = s.routes := rfl
@[simp] theorem State.onCore_remoteWaits (s : State) (c : Nat) (f : Core → Core) : (s.onCore c f).remoteWaits = s.remoteWaits := rfl
@[simp] theorem State.onCore_stalls (s : State) (c : Nat) (f : Core → Core) : (s.onCore c f).stalls = s.stalls := rfl
@[simp] theorem State.onCore_sec (s : State) (c : Nat) (f : Core → Core) : (s.onCore c f).sec = s.sec := rfl
@[simp] theorem State.onCore_chip (s : State) (c : Nat) (f : Core → Core) : (s.onCore c f).chip = s.chip := rfl
@[simp] theorem State.onCore_clock (s : State) (c : Nat) (f : Core → Core) : (s.onCore c f).clock = s.clock := rfl
@[simp] theorem State.onCore_cycle (s : State) (c : Nat) (f : Core → Core) : (s.onCore c f).cycle = s.cycle := rfl
@[simp] theorem State.onCore_seq (s : State) (c : Nat) (f : Core → Core) : (s.onCore c f).seq = s.seq := rfl
@[simp] theorem State.onCore_freeCount (s : State) (c : Nat) (f : Core → Core) : (s.onCore c f).freeCount = s.freeCount := rfl
@[simp] theorem State.onCore_agenda (s : State) (c : Nat) (f : Core → Core) : (s.onCore c f).agenda = s.agenda := rfl
@[simp] theorem State.onCore_inputs (s : State) (c : Nat) (f : Core → Core) : (s.onCore c f).inputs = s.inputs := rfl
@[simp] theorem State.onCore_rot (s : State) (c : Nat) (f : Core → Core) : (s.onCore c f).rot = s.rot := rfl
@[simp] theorem State.onCore_stopped (s : State) (c : Nat) (f : Core → Core) : (s.onCore c f).stopped = s.stopped := rfl

/-! ### setFlight -/

@[simp] theorem State.setFlight_me (s : State) (c : Nat) (x : Flight) : (s.setFlight c x).me = s.me := rfl
@[simp] theorem State.setFlight_cur (s : State) (c : Nat) (x : Flight) : (s.setFlight c x).cur = s.cur := rfl
@[simp] theorem State.setFlight_ctxs (s : State) (c : Nat) (x : Flight) : (s.setFlight c x).ctxs = s.ctxs := rfl
@[simp] theorem State.setFlight_cores (s : State) (c : Nat) (x : Flight) : (s.setFlight c x).cores = s.cores := rfl
@[simp] theorem State.setFlight_gcores (s : State) (c : Nat) (x : Flight) : (s.setFlight c x).gcores = s.gcores := rfl
@[simp] theorem State.setFlight_flights (s : State) (c : Nat) (x : Flight) : (s.setFlight c x).flights = put s.flights c x := rfl
@[simp] theorem State.setFlight_lofts (s : State) (c : Nat) (x : Flight) : (s.setFlight c x).lofts = s.lofts := rfl
@[simp] theorem State.setFlight_dies (s : State) (c : Nat) (x : Flight) : (s.setFlight c x).dies = s.dies := rfl
@[simp] theorem State.setFlight_mem (s : State) (c : Nat) (x : Flight) : (s.setFlight c x).mem = s.mem := rfl
@[simp] theorem State.setFlight_launches (s : State) (c : Nat) (x : Flight) : (s.setFlight c x).launches = s.launches := rfl
@[simp] theorem State.setFlight_nextLaunch (s : State) (c : Nat) (x : Flight) : (s.setFlight c x).nextLaunch = s.nextLaunch := rfl
@[simp] theorem State.setFlight_msgs (s : State) (c : Nat) (x : Flight) : (s.setFlight c x).msgs = s.msgs := rfl
@[simp] theorem State.setFlight_joins (s : State) (c : Nat) (x : Flight) : (s.setFlight c x).joins = s.joins := rfl
@[simp] theorem State.setFlight_gates (s : State) (c : Nat) (x : Flight) : (s.setFlight c x).gates = s.gates := rfl
@[simp] theorem State.setFlight_keys (s : State) (c : Nat) (x : Flight) : (s.setFlight c x).keys = s.keys := rfl
@[simp] theorem State.setFlight_keyBook (s : State) (c : Nat) (x : Flight) : (s.setFlight c x).keyBook = s.keyBook := rfl
@[simp] theorem State.setFlight_pageKey (s : State) (c : Nat) (x : Flight) : (s.setFlight c x).pageKey = s.pageKey := rfl
@[simp] theorem State.setFlight_lineKey (s : State) (c : Nat) (x : Flight) : (s.setFlight c x).lineKey = s.lineKey := rfl
@[simp] theorem State.setFlight_eccLines (s : State) (c : Nat) (x : Flight) : (s.setFlight c x).eccLines = s.eccLines := rfl
@[simp] theorem State.setFlight_pot (s : State) (c : Nat) (x : Flight) : (s.setFlight c x).pot = s.pot := rfl
@[simp] theorem State.setFlight_egress (s : State) (c : Nat) (x : Flight) : (s.setFlight c x).egress = s.egress := rfl
@[simp] theorem State.setFlight_egressBytes (s : State) (c : Nat) (x : Flight) : (s.setFlight c x).egressBytes = s.egressBytes := rfl
@[simp] theorem State.setFlight_perf (s : State) (c : Nat) (x : Flight) : (s.setFlight c x).perf = s.perf := rfl
@[simp] theorem State.setFlight_errLog (s : State) (c : Nat) (x : Flight) : (s.setFlight c x).errLog = s.errLog := rfl
@[simp] theorem State.setFlight_parts (s : State) (c : Nat) (x : Flight) : (s.setFlight c x).parts = s.parts := rfl
@[simp] theorem State.setFlight_invals (s : State) (c : Nat) (x : Flight) : (s.setFlight c x).invals = s.invals := rfl
@[simp] theorem State.setFlight_past (s : State) (c : Nat) (x : Flight) : (s.setFlight c x).past = s.past := rfl
@[simp] theorem State.setFlight_rels (s : State) (c : Nat) (x : Flight) : (s.setFlight c x).rels = s.rels := rfl
@[simp] theorem State.setFlight_images (s : State) (c : Nat) (x : Flight) : (s.setFlight c x).images = s.images := rfl
@[simp] theorem State.setFlight_host (s : State) (c : Nat) (x : Flight) : (s.setFlight c x).host = s.host := rfl
@[simp] theorem State.setFlight_ports (s : State) (c : Nat) (x : Flight) : (s.setFlight c x).ports = s.ports := rfl
@[simp] theorem State.setFlight_routes (s : State) (c : Nat) (x : Flight) : (s.setFlight c x).routes = s.routes := rfl
@[simp] theorem State.setFlight_remoteWaits (s : State) (c : Nat) (x : Flight) : (s.setFlight c x).remoteWaits = s.remoteWaits := rfl
@[simp] theorem State.setFlight_stalls (s : State) (c : Nat) (x : Flight) : (s.setFlight c x).stalls = s.stalls := rfl
@[simp] theorem State.setFlight_sec (s : State) (c : Nat) (x : Flight) : (s.setFlight c x).sec = s.sec := rfl
@[simp] theorem State.setFlight_chip (s : State) (c : Nat) (x : Flight) : (s.setFlight c x).chip = s.chip := rfl
@[simp] theorem State.setFlight_clock (s : State) (c : Nat) (x : Flight) : (s.setFlight c x).clock = s.clock := rfl
@[simp] theorem State.setFlight_cycle (s : State) (c : Nat) (x : Flight) : (s.setFlight c x).cycle = s.cycle := rfl
@[simp] theorem State.setFlight_seq (s : State) (c : Nat) (x : Flight) : (s.setFlight c x).seq = s.seq := rfl
@[simp] theorem State.setFlight_freeCount (s : State) (c : Nat) (x : Flight) : (s.setFlight c x).freeCount = s.freeCount := rfl
@[simp] theorem State.setFlight_agenda (s : State) (c : Nat) (x : Flight) : (s.setFlight c x).agenda = s.agenda := rfl
@[simp] theorem State.setFlight_inputs (s : State) (c : Nat) (x : Flight) : (s.setFlight c x).inputs = s.inputs := rfl
@[simp] theorem State.setFlight_rot (s : State) (c : Nat) (x : Flight) : (s.setFlight c x).rot = s.rot := rfl
@[simp] theorem State.setFlight_stopped (s : State) (c : Nat) (x : Flight) : (s.setFlight c x).stopped = s.stopped := rfl

/-! ### onFlight -/

@[simp] theorem State.onFlight_me (s : State) (c : Nat) (f : Flight → Flight) : (s.onFlight c f).me = s.me := rfl
@[simp] theorem State.onFlight_cur (s : State) (c : Nat) (f : Flight → Flight) : (s.onFlight c f).cur = s.cur := rfl
@[simp] theorem State.onFlight_ctxs (s : State) (c : Nat) (f : Flight → Flight) : (s.onFlight c f).ctxs = s.ctxs := rfl
@[simp] theorem State.onFlight_cores (s : State) (c : Nat) (f : Flight → Flight) : (s.onFlight c f).cores = s.cores := rfl
@[simp] theorem State.onFlight_gcores (s : State) (c : Nat) (f : Flight → Flight) : (s.onFlight c f).gcores = s.gcores := rfl
@[simp] theorem State.onFlight_flights (s : State) (c : Nat) (f : Flight → Flight) : (s.onFlight c f).flights = put s.flights c (f (s.flight c)) := rfl
@[simp] theorem State.onFlight_lofts (s : State) (c : Nat) (f : Flight → Flight) : (s.onFlight c f).lofts = s.lofts := rfl
@[simp] theorem State.onFlight_dies (s : State) (c : Nat) (f : Flight → Flight) : (s.onFlight c f).dies = s.dies := rfl
@[simp] theorem State.onFlight_mem (s : State) (c : Nat) (f : Flight → Flight) : (s.onFlight c f).mem = s.mem := rfl
@[simp] theorem State.onFlight_launches (s : State) (c : Nat) (f : Flight → Flight) : (s.onFlight c f).launches = s.launches := rfl
@[simp] theorem State.onFlight_nextLaunch (s : State) (c : Nat) (f : Flight → Flight) : (s.onFlight c f).nextLaunch = s.nextLaunch := rfl
@[simp] theorem State.onFlight_msgs (s : State) (c : Nat) (f : Flight → Flight) : (s.onFlight c f).msgs = s.msgs := rfl
@[simp] theorem State.onFlight_joins (s : State) (c : Nat) (f : Flight → Flight) : (s.onFlight c f).joins = s.joins := rfl
@[simp] theorem State.onFlight_gates (s : State) (c : Nat) (f : Flight → Flight) : (s.onFlight c f).gates = s.gates := rfl
@[simp] theorem State.onFlight_keys (s : State) (c : Nat) (f : Flight → Flight) : (s.onFlight c f).keys = s.keys := rfl
@[simp] theorem State.onFlight_keyBook (s : State) (c : Nat) (f : Flight → Flight) : (s.onFlight c f).keyBook = s.keyBook := rfl
@[simp] theorem State.onFlight_pageKey (s : State) (c : Nat) (f : Flight → Flight) : (s.onFlight c f).pageKey = s.pageKey := rfl
@[simp] theorem State.onFlight_lineKey (s : State) (c : Nat) (f : Flight → Flight) : (s.onFlight c f).lineKey = s.lineKey := rfl
@[simp] theorem State.onFlight_eccLines (s : State) (c : Nat) (f : Flight → Flight) : (s.onFlight c f).eccLines = s.eccLines := rfl
@[simp] theorem State.onFlight_pot (s : State) (c : Nat) (f : Flight → Flight) : (s.onFlight c f).pot = s.pot := rfl
@[simp] theorem State.onFlight_egress (s : State) (c : Nat) (f : Flight → Flight) : (s.onFlight c f).egress = s.egress := rfl
@[simp] theorem State.onFlight_egressBytes (s : State) (c : Nat) (f : Flight → Flight) : (s.onFlight c f).egressBytes = s.egressBytes := rfl
@[simp] theorem State.onFlight_perf (s : State) (c : Nat) (f : Flight → Flight) : (s.onFlight c f).perf = s.perf := rfl
@[simp] theorem State.onFlight_errLog (s : State) (c : Nat) (f : Flight → Flight) : (s.onFlight c f).errLog = s.errLog := rfl
@[simp] theorem State.onFlight_parts (s : State) (c : Nat) (f : Flight → Flight) : (s.onFlight c f).parts = s.parts := rfl
@[simp] theorem State.onFlight_invals (s : State) (c : Nat) (f : Flight → Flight) : (s.onFlight c f).invals = s.invals := rfl
@[simp] theorem State.onFlight_past (s : State) (c : Nat) (f : Flight → Flight) : (s.onFlight c f).past = s.past := rfl
@[simp] theorem State.onFlight_rels (s : State) (c : Nat) (f : Flight → Flight) : (s.onFlight c f).rels = s.rels := rfl
@[simp] theorem State.onFlight_images (s : State) (c : Nat) (f : Flight → Flight) : (s.onFlight c f).images = s.images := rfl
@[simp] theorem State.onFlight_host (s : State) (c : Nat) (f : Flight → Flight) : (s.onFlight c f).host = s.host := rfl
@[simp] theorem State.onFlight_ports (s : State) (c : Nat) (f : Flight → Flight) : (s.onFlight c f).ports = s.ports := rfl
@[simp] theorem State.onFlight_routes (s : State) (c : Nat) (f : Flight → Flight) : (s.onFlight c f).routes = s.routes := rfl
@[simp] theorem State.onFlight_remoteWaits (s : State) (c : Nat) (f : Flight → Flight) : (s.onFlight c f).remoteWaits = s.remoteWaits := rfl
@[simp] theorem State.onFlight_stalls (s : State) (c : Nat) (f : Flight → Flight) : (s.onFlight c f).stalls = s.stalls := rfl
@[simp] theorem State.onFlight_sec (s : State) (c : Nat) (f : Flight → Flight) : (s.onFlight c f).sec = s.sec := rfl
@[simp] theorem State.onFlight_chip (s : State) (c : Nat) (f : Flight → Flight) : (s.onFlight c f).chip = s.chip := rfl
@[simp] theorem State.onFlight_clock (s : State) (c : Nat) (f : Flight → Flight) : (s.onFlight c f).clock = s.clock := rfl
@[simp] theorem State.onFlight_cycle (s : State) (c : Nat) (f : Flight → Flight) : (s.onFlight c f).cycle = s.cycle := rfl
@[simp] theorem State.onFlight_seq (s : State) (c : Nat) (f : Flight → Flight) : (s.onFlight c f).seq = s.seq := rfl
@[simp] theorem State.onFlight_freeCount (s : State) (c : Nat) (f : Flight → Flight) : (s.onFlight c f).freeCount = s.freeCount := rfl
@[simp] theorem State.onFlight_agenda (s : State) (c : Nat) (f : Flight → Flight) : (s.onFlight c f).agenda = s.agenda := rfl
@[simp] theorem State.onFlight_inputs (s : State) (c : Nat) (f : Flight → Flight) : (s.onFlight c f).inputs = s.inputs := rfl
@[simp] theorem State.onFlight_rot (s : State) (c : Nat) (f : Flight → Flight) : (s.onFlight c f).rot = s.rot := rfl
@[simp] theorem State.onFlight_stopped (s : State) (c : Nat) (f : Flight → Flight) : (s.onFlight c f).stopped = s.stopped := rfl

/-! ### setLoft -/

@[simp] theorem State.setLoft_me (s : State) (c : Nat) (x : Loft) : (s.setLoft c x).me = s.me := rfl
@[simp] theorem State.setLoft_cur (s : State) (c : Nat) (x : Loft) : (s.setLoft c x).cur = s.cur := rfl
@[simp] theorem State.setLoft_ctxs (s : State) (c : Nat) (x : Loft) : (s.setLoft c x).ctxs = s.ctxs := rfl
@[simp] theorem State.setLoft_cores (s : State) (c : Nat) (x : Loft) : (s.setLoft c x).cores = s.cores := rfl
@[simp] theorem State.setLoft_gcores (s : State) (c : Nat) (x : Loft) : (s.setLoft c x).gcores = s.gcores := rfl
@[simp] theorem State.setLoft_flights (s : State) (c : Nat) (x : Loft) : (s.setLoft c x).flights = s.flights := rfl
@[simp] theorem State.setLoft_lofts (s : State) (c : Nat) (x : Loft) : (s.setLoft c x).lofts = put s.lofts c x := rfl
@[simp] theorem State.setLoft_dies (s : State) (c : Nat) (x : Loft) : (s.setLoft c x).dies = s.dies := rfl
@[simp] theorem State.setLoft_mem (s : State) (c : Nat) (x : Loft) : (s.setLoft c x).mem = s.mem := rfl
@[simp] theorem State.setLoft_launches (s : State) (c : Nat) (x : Loft) : (s.setLoft c x).launches = s.launches := rfl
@[simp] theorem State.setLoft_nextLaunch (s : State) (c : Nat) (x : Loft) : (s.setLoft c x).nextLaunch = s.nextLaunch := rfl
@[simp] theorem State.setLoft_msgs (s : State) (c : Nat) (x : Loft) : (s.setLoft c x).msgs = s.msgs := rfl
@[simp] theorem State.setLoft_joins (s : State) (c : Nat) (x : Loft) : (s.setLoft c x).joins = s.joins := rfl
@[simp] theorem State.setLoft_gates (s : State) (c : Nat) (x : Loft) : (s.setLoft c x).gates = s.gates := rfl
@[simp] theorem State.setLoft_keys (s : State) (c : Nat) (x : Loft) : (s.setLoft c x).keys = s.keys := rfl
@[simp] theorem State.setLoft_keyBook (s : State) (c : Nat) (x : Loft) : (s.setLoft c x).keyBook = s.keyBook := rfl
@[simp] theorem State.setLoft_pageKey (s : State) (c : Nat) (x : Loft) : (s.setLoft c x).pageKey = s.pageKey := rfl
@[simp] theorem State.setLoft_lineKey (s : State) (c : Nat) (x : Loft) : (s.setLoft c x).lineKey = s.lineKey := rfl
@[simp] theorem State.setLoft_eccLines (s : State) (c : Nat) (x : Loft) : (s.setLoft c x).eccLines = s.eccLines := rfl
@[simp] theorem State.setLoft_pot (s : State) (c : Nat) (x : Loft) : (s.setLoft c x).pot = s.pot := rfl
@[simp] theorem State.setLoft_egress (s : State) (c : Nat) (x : Loft) : (s.setLoft c x).egress = s.egress := rfl
@[simp] theorem State.setLoft_egressBytes (s : State) (c : Nat) (x : Loft) : (s.setLoft c x).egressBytes = s.egressBytes := rfl
@[simp] theorem State.setLoft_perf (s : State) (c : Nat) (x : Loft) : (s.setLoft c x).perf = s.perf := rfl
@[simp] theorem State.setLoft_errLog (s : State) (c : Nat) (x : Loft) : (s.setLoft c x).errLog = s.errLog := rfl
@[simp] theorem State.setLoft_parts (s : State) (c : Nat) (x : Loft) : (s.setLoft c x).parts = s.parts := rfl
@[simp] theorem State.setLoft_invals (s : State) (c : Nat) (x : Loft) : (s.setLoft c x).invals = s.invals := rfl
@[simp] theorem State.setLoft_past (s : State) (c : Nat) (x : Loft) : (s.setLoft c x).past = s.past := rfl
@[simp] theorem State.setLoft_rels (s : State) (c : Nat) (x : Loft) : (s.setLoft c x).rels = s.rels := rfl
@[simp] theorem State.setLoft_images (s : State) (c : Nat) (x : Loft) : (s.setLoft c x).images = s.images := rfl
@[simp] theorem State.setLoft_host (s : State) (c : Nat) (x : Loft) : (s.setLoft c x).host = s.host := rfl
@[simp] theorem State.setLoft_ports (s : State) (c : Nat) (x : Loft) : (s.setLoft c x).ports = s.ports := rfl
@[simp] theorem State.setLoft_routes (s : State) (c : Nat) (x : Loft) : (s.setLoft c x).routes = s.routes := rfl
@[simp] theorem State.setLoft_remoteWaits (s : State) (c : Nat) (x : Loft) : (s.setLoft c x).remoteWaits = s.remoteWaits := rfl
@[simp] theorem State.setLoft_stalls (s : State) (c : Nat) (x : Loft) : (s.setLoft c x).stalls = s.stalls := rfl
@[simp] theorem State.setLoft_sec (s : State) (c : Nat) (x : Loft) : (s.setLoft c x).sec = s.sec := rfl
@[simp] theorem State.setLoft_chip (s : State) (c : Nat) (x : Loft) : (s.setLoft c x).chip = s.chip := rfl
@[simp] theorem State.setLoft_clock (s : State) (c : Nat) (x : Loft) : (s.setLoft c x).clock = s.clock := rfl
@[simp] theorem State.setLoft_cycle (s : State) (c : Nat) (x : Loft) : (s.setLoft c x).cycle = s.cycle := rfl
@[simp] theorem State.setLoft_seq (s : State) (c : Nat) (x : Loft) : (s.setLoft c x).seq = s.seq := rfl
@[simp] theorem State.setLoft_freeCount (s : State) (c : Nat) (x : Loft) : (s.setLoft c x).freeCount = s.freeCount := rfl
@[simp] theorem State.setLoft_agenda (s : State) (c : Nat) (x : Loft) : (s.setLoft c x).agenda = s.agenda := rfl
@[simp] theorem State.setLoft_inputs (s : State) (c : Nat) (x : Loft) : (s.setLoft c x).inputs = s.inputs := rfl
@[simp] theorem State.setLoft_rot (s : State) (c : Nat) (x : Loft) : (s.setLoft c x).rot = s.rot := rfl
@[simp] theorem State.setLoft_stopped (s : State) (c : Nat) (x : Loft) : (s.setLoft c x).stopped = s.stopped := rfl

/-! ### setDie -/

@[simp] theorem State.setDie_me (s : State) (c : Nat) (x : Die) : (s.setDie c x).me = s.me := rfl
@[simp] theorem State.setDie_cur (s : State) (c : Nat) (x : Die) : (s.setDie c x).cur = s.cur := rfl
@[simp] theorem State.setDie_ctxs (s : State) (c : Nat) (x : Die) : (s.setDie c x).ctxs = s.ctxs := rfl
@[simp] theorem State.setDie_cores (s : State) (c : Nat) (x : Die) : (s.setDie c x).cores = s.cores := rfl
@[simp] theorem State.setDie_gcores (s : State) (c : Nat) (x : Die) : (s.setDie c x).gcores = s.gcores := rfl
@[simp] theorem State.setDie_flights (s : State) (c : Nat) (x : Die) : (s.setDie c x).flights = s.flights := rfl
@[simp] theorem State.setDie_lofts (s : State) (c : Nat) (x : Die) : (s.setDie c x).lofts = s.lofts := rfl
@[simp] theorem State.setDie_dies (s : State) (c : Nat) (x : Die) : (s.setDie c x).dies = put s.dies c x := rfl
@[simp] theorem State.setDie_mem (s : State) (c : Nat) (x : Die) : (s.setDie c x).mem = s.mem := rfl
@[simp] theorem State.setDie_launches (s : State) (c : Nat) (x : Die) : (s.setDie c x).launches = s.launches := rfl
@[simp] theorem State.setDie_nextLaunch (s : State) (c : Nat) (x : Die) : (s.setDie c x).nextLaunch = s.nextLaunch := rfl
@[simp] theorem State.setDie_msgs (s : State) (c : Nat) (x : Die) : (s.setDie c x).msgs = s.msgs := rfl
@[simp] theorem State.setDie_joins (s : State) (c : Nat) (x : Die) : (s.setDie c x).joins = s.joins := rfl
@[simp] theorem State.setDie_gates (s : State) (c : Nat) (x : Die) : (s.setDie c x).gates = s.gates := rfl
@[simp] theorem State.setDie_keys (s : State) (c : Nat) (x : Die) : (s.setDie c x).keys = s.keys := rfl
@[simp] theorem State.setDie_keyBook (s : State) (c : Nat) (x : Die) : (s.setDie c x).keyBook = s.keyBook := rfl
@[simp] theorem State.setDie_pageKey (s : State) (c : Nat) (x : Die) : (s.setDie c x).pageKey = s.pageKey := rfl
@[simp] theorem State.setDie_lineKey (s : State) (c : Nat) (x : Die) : (s.setDie c x).lineKey = s.lineKey := rfl
@[simp] theorem State.setDie_eccLines (s : State) (c : Nat) (x : Die) : (s.setDie c x).eccLines = s.eccLines := rfl
@[simp] theorem State.setDie_pot (s : State) (c : Nat) (x : Die) : (s.setDie c x).pot = s.pot := rfl
@[simp] theorem State.setDie_egress (s : State) (c : Nat) (x : Die) : (s.setDie c x).egress = s.egress := rfl
@[simp] theorem State.setDie_egressBytes (s : State) (c : Nat) (x : Die) : (s.setDie c x).egressBytes = s.egressBytes := rfl
@[simp] theorem State.setDie_perf (s : State) (c : Nat) (x : Die) : (s.setDie c x).perf = s.perf := rfl
@[simp] theorem State.setDie_errLog (s : State) (c : Nat) (x : Die) : (s.setDie c x).errLog = s.errLog := rfl
@[simp] theorem State.setDie_parts (s : State) (c : Nat) (x : Die) : (s.setDie c x).parts = s.parts := rfl
@[simp] theorem State.setDie_invals (s : State) (c : Nat) (x : Die) : (s.setDie c x).invals = s.invals := rfl
@[simp] theorem State.setDie_past (s : State) (c : Nat) (x : Die) : (s.setDie c x).past = s.past := rfl
@[simp] theorem State.setDie_rels (s : State) (c : Nat) (x : Die) : (s.setDie c x).rels = s.rels := rfl
@[simp] theorem State.setDie_images (s : State) (c : Nat) (x : Die) : (s.setDie c x).images = s.images := rfl
@[simp] theorem State.setDie_host (s : State) (c : Nat) (x : Die) : (s.setDie c x).host = s.host := rfl
@[simp] theorem State.setDie_ports (s : State) (c : Nat) (x : Die) : (s.setDie c x).ports = s.ports := rfl
@[simp] theorem State.setDie_routes (s : State) (c : Nat) (x : Die) : (s.setDie c x).routes = s.routes := rfl
@[simp] theorem State.setDie_remoteWaits (s : State) (c : Nat) (x : Die) : (s.setDie c x).remoteWaits = s.remoteWaits := rfl
@[simp] theorem State.setDie_stalls (s : State) (c : Nat) (x : Die) : (s.setDie c x).stalls = s.stalls := rfl
@[simp] theorem State.setDie_sec (s : State) (c : Nat) (x : Die) : (s.setDie c x).sec = s.sec := rfl
@[simp] theorem State.setDie_chip (s : State) (c : Nat) (x : Die) : (s.setDie c x).chip = s.chip := rfl
@[simp] theorem State.setDie_clock (s : State) (c : Nat) (x : Die) : (s.setDie c x).clock = s.clock := rfl
@[simp] theorem State.setDie_cycle (s : State) (c : Nat) (x : Die) : (s.setDie c x).cycle = s.cycle := rfl
@[simp] theorem State.setDie_seq (s : State) (c : Nat) (x : Die) : (s.setDie c x).seq = s.seq := rfl
@[simp] theorem State.setDie_freeCount (s : State) (c : Nat) (x : Die) : (s.setDie c x).freeCount = s.freeCount := rfl
@[simp] theorem State.setDie_agenda (s : State) (c : Nat) (x : Die) : (s.setDie c x).agenda = s.agenda := rfl
@[simp] theorem State.setDie_inputs (s : State) (c : Nat) (x : Die) : (s.setDie c x).inputs = s.inputs := rfl
@[simp] theorem State.setDie_rot (s : State) (c : Nat) (x : Die) : (s.setDie c x).rot = s.rot := rfl
@[simp] theorem State.setDie_stopped (s : State) (c : Nat) (x : Die) : (s.setDie c x).stopped = s.stopped := rfl

/-! ### setPart -/

@[simp] theorem State.setPart_me (s : State) (c : Nat) (x : Part) : (s.setPart c x).me = s.me := rfl
@[simp] theorem State.setPart_cur (s : State) (c : Nat) (x : Part) : (s.setPart c x).cur = s.cur := rfl
@[simp] theorem State.setPart_ctxs (s : State) (c : Nat) (x : Part) : (s.setPart c x).ctxs = s.ctxs := rfl
@[simp] theorem State.setPart_cores (s : State) (c : Nat) (x : Part) : (s.setPart c x).cores = s.cores := rfl
@[simp] theorem State.setPart_gcores (s : State) (c : Nat) (x : Part) : (s.setPart c x).gcores = s.gcores := rfl
@[simp] theorem State.setPart_flights (s : State) (c : Nat) (x : Part) : (s.setPart c x).flights = s.flights := rfl
@[simp] theorem State.setPart_lofts (s : State) (c : Nat) (x : Part) : (s.setPart c x).lofts = s.lofts := rfl
@[simp] theorem State.setPart_dies (s : State) (c : Nat) (x : Part) : (s.setPart c x).dies = s.dies := rfl
@[simp] theorem State.setPart_mem (s : State) (c : Nat) (x : Part) : (s.setPart c x).mem = s.mem := rfl
@[simp] theorem State.setPart_launches (s : State) (c : Nat) (x : Part) : (s.setPart c x).launches = s.launches := rfl
@[simp] theorem State.setPart_nextLaunch (s : State) (c : Nat) (x : Part) : (s.setPart c x).nextLaunch = s.nextLaunch := rfl
@[simp] theorem State.setPart_msgs (s : State) (c : Nat) (x : Part) : (s.setPart c x).msgs = s.msgs := rfl
@[simp] theorem State.setPart_joins (s : State) (c : Nat) (x : Part) : (s.setPart c x).joins = s.joins := rfl
@[simp] theorem State.setPart_gates (s : State) (c : Nat) (x : Part) : (s.setPart c x).gates = s.gates := rfl
@[simp] theorem State.setPart_keys (s : State) (c : Nat) (x : Part) : (s.setPart c x).keys = s.keys := rfl
@[simp] theorem State.setPart_keyBook (s : State) (c : Nat) (x : Part) : (s.setPart c x).keyBook = s.keyBook := rfl
@[simp] theorem State.setPart_pageKey (s : State) (c : Nat) (x : Part) : (s.setPart c x).pageKey = s.pageKey := rfl
@[simp] theorem State.setPart_lineKey (s : State) (c : Nat) (x : Part) : (s.setPart c x).lineKey = s.lineKey := rfl
@[simp] theorem State.setPart_eccLines (s : State) (c : Nat) (x : Part) : (s.setPart c x).eccLines = s.eccLines := rfl
@[simp] theorem State.setPart_pot (s : State) (c : Nat) (x : Part) : (s.setPart c x).pot = s.pot := rfl
@[simp] theorem State.setPart_egress (s : State) (c : Nat) (x : Part) : (s.setPart c x).egress = s.egress := rfl
@[simp] theorem State.setPart_egressBytes (s : State) (c : Nat) (x : Part) : (s.setPart c x).egressBytes = s.egressBytes := rfl
@[simp] theorem State.setPart_perf (s : State) (c : Nat) (x : Part) : (s.setPart c x).perf = s.perf := rfl
@[simp] theorem State.setPart_errLog (s : State) (c : Nat) (x : Part) : (s.setPart c x).errLog = s.errLog := rfl
@[simp] theorem State.setPart_parts (s : State) (c : Nat) (x : Part) : (s.setPart c x).parts = put s.parts c x := rfl
@[simp] theorem State.setPart_invals (s : State) (c : Nat) (x : Part) : (s.setPart c x).invals = s.invals := rfl
@[simp] theorem State.setPart_past (s : State) (c : Nat) (x : Part) : (s.setPart c x).past = s.past := rfl
@[simp] theorem State.setPart_rels (s : State) (c : Nat) (x : Part) : (s.setPart c x).rels = s.rels := rfl
@[simp] theorem State.setPart_images (s : State) (c : Nat) (x : Part) : (s.setPart c x).images = s.images := rfl
@[simp] theorem State.setPart_host (s : State) (c : Nat) (x : Part) : (s.setPart c x).host = s.host := rfl
@[simp] theorem State.setPart_ports (s : State) (c : Nat) (x : Part) : (s.setPart c x).ports = s.ports := rfl
@[simp] theorem State.setPart_routes (s : State) (c : Nat) (x : Part) : (s.setPart c x).routes = s.routes := rfl
@[simp] theorem State.setPart_remoteWaits (s : State) (c : Nat) (x : Part) : (s.setPart c x).remoteWaits = s.remoteWaits := rfl
@[simp] theorem State.setPart_stalls (s : State) (c : Nat) (x : Part) : (s.setPart c x).stalls = s.stalls := rfl
@[simp] theorem State.setPart_sec (s : State) (c : Nat) (x : Part) : (s.setPart c x).sec = s.sec := rfl
@[simp] theorem State.setPart_chip (s : State) (c : Nat) (x : Part) : (s.setPart c x).chip = s.chip := rfl
@[simp] theorem State.setPart_clock (s : State) (c : Nat) (x : Part) : (s.setPart c x).clock = s.clock := rfl
@[simp] theorem State.setPart_cycle (s : State) (c : Nat) (x : Part) : (s.setPart c x).cycle = s.cycle := rfl
@[simp] theorem State.setPart_seq (s : State) (c : Nat) (x : Part) : (s.setPart c x).seq = s.seq := rfl
@[simp] theorem State.setPart_freeCount (s : State) (c : Nat) (x : Part) : (s.setPart c x).freeCount = s.freeCount := rfl
@[simp] theorem State.setPart_agenda (s : State) (c : Nat) (x : Part) : (s.setPart c x).agenda = s.agenda := rfl
@[simp] theorem State.setPart_inputs (s : State) (c : Nat) (x : Part) : (s.setPart c x).inputs = s.inputs := rfl
@[simp] theorem State.setPart_rot (s : State) (c : Nat) (x : Part) : (s.setPart c x).rot = s.rot := rfl
@[simp] theorem State.setPart_stopped (s : State) (c : Nat) (x : Part) : (s.setPart c x).stopped = s.stopped := rfl

/-! ### setGcore -/

@[simp] theorem State.setGcore_me (s : State) (c : Nat) (x : GCore) : (s.setGcore c x).me = s.me := rfl
@[simp] theorem State.setGcore_cur (s : State) (c : Nat) (x : GCore) : (s.setGcore c x).cur = s.cur := rfl
@[simp] theorem State.setGcore_ctxs (s : State) (c : Nat) (x : GCore) : (s.setGcore c x).ctxs = s.ctxs := rfl
@[simp] theorem State.setGcore_cores (s : State) (c : Nat) (x : GCore) : (s.setGcore c x).cores = s.cores := rfl
@[simp] theorem State.setGcore_gcores (s : State) (c : Nat) (x : GCore) : (s.setGcore c x).gcores = put s.gcores c x := rfl
@[simp] theorem State.setGcore_flights (s : State) (c : Nat) (x : GCore) : (s.setGcore c x).flights = s.flights := rfl
@[simp] theorem State.setGcore_lofts (s : State) (c : Nat) (x : GCore) : (s.setGcore c x).lofts = s.lofts := rfl
@[simp] theorem State.setGcore_dies (s : State) (c : Nat) (x : GCore) : (s.setGcore c x).dies = s.dies := rfl
@[simp] theorem State.setGcore_mem (s : State) (c : Nat) (x : GCore) : (s.setGcore c x).mem = s.mem := rfl
@[simp] theorem State.setGcore_launches (s : State) (c : Nat) (x : GCore) : (s.setGcore c x).launches = s.launches := rfl
@[simp] theorem State.setGcore_nextLaunch (s : State) (c : Nat) (x : GCore) : (s.setGcore c x).nextLaunch = s.nextLaunch := rfl
@[simp] theorem State.setGcore_msgs (s : State) (c : Nat) (x : GCore) : (s.setGcore c x).msgs = s.msgs := rfl
@[simp] theorem State.setGcore_joins (s : State) (c : Nat) (x : GCore) : (s.setGcore c x).joins = s.joins := rfl
@[simp] theorem State.setGcore_gates (s : State) (c : Nat) (x : GCore) : (s.setGcore c x).gates = s.gates := rfl
@[simp] theorem State.setGcore_keys (s : State) (c : Nat) (x : GCore) : (s.setGcore c x).keys = s.keys := rfl
@[simp] theorem State.setGcore_keyBook (s : State) (c : Nat) (x : GCore) : (s.setGcore c x).keyBook = s.keyBook := rfl
@[simp] theorem State.setGcore_pageKey (s : State) (c : Nat) (x : GCore) : (s.setGcore c x).pageKey = s.pageKey := rfl
@[simp] theorem State.setGcore_lineKey (s : State) (c : Nat) (x : GCore) : (s.setGcore c x).lineKey = s.lineKey := rfl
@[simp] theorem State.setGcore_eccLines (s : State) (c : Nat) (x : GCore) : (s.setGcore c x).eccLines = s.eccLines := rfl
@[simp] theorem State.setGcore_pot (s : State) (c : Nat) (x : GCore) : (s.setGcore c x).pot = s.pot := rfl
@[simp] theorem State.setGcore_egress (s : State) (c : Nat) (x : GCore) : (s.setGcore c x).egress = s.egress := rfl
@[simp] theorem State.setGcore_egressBytes (s : State) (c : Nat) (x : GCore) : (s.setGcore c x).egressBytes = s.egressBytes := rfl
@[simp] theorem State.setGcore_perf (s : State) (c : Nat) (x : GCore) : (s.setGcore c x).perf = s.perf := rfl
@[simp] theorem State.setGcore_errLog (s : State) (c : Nat) (x : GCore) : (s.setGcore c x).errLog = s.errLog := rfl
@[simp] theorem State.setGcore_parts (s : State) (c : Nat) (x : GCore) : (s.setGcore c x).parts = s.parts := rfl
@[simp] theorem State.setGcore_invals (s : State) (c : Nat) (x : GCore) : (s.setGcore c x).invals = s.invals := rfl
@[simp] theorem State.setGcore_past (s : State) (c : Nat) (x : GCore) : (s.setGcore c x).past = s.past := rfl
@[simp] theorem State.setGcore_rels (s : State) (c : Nat) (x : GCore) : (s.setGcore c x).rels = s.rels := rfl
@[simp] theorem State.setGcore_images (s : State) (c : Nat) (x : GCore) : (s.setGcore c x).images = s.images := rfl
@[simp] theorem State.setGcore_host (s : State) (c : Nat) (x : GCore) : (s.setGcore c x).host = s.host := rfl
@[simp] theorem State.setGcore_ports (s : State) (c : Nat) (x : GCore) : (s.setGcore c x).ports = s.ports := rfl
@[simp] theorem State.setGcore_routes (s : State) (c : Nat) (x : GCore) : (s.setGcore c x).routes = s.routes := rfl
@[simp] theorem State.setGcore_remoteWaits (s : State) (c : Nat) (x : GCore) : (s.setGcore c x).remoteWaits = s.remoteWaits := rfl
@[simp] theorem State.setGcore_stalls (s : State) (c : Nat) (x : GCore) : (s.setGcore c x).stalls = s.stalls := rfl
@[simp] theorem State.setGcore_sec (s : State) (c : Nat) (x : GCore) : (s.setGcore c x).sec = s.sec := rfl
@[simp] theorem State.setGcore_chip (s : State) (c : Nat) (x : GCore) : (s.setGcore c x).chip = s.chip := rfl
@[simp] theorem State.setGcore_clock (s : State) (c : Nat) (x : GCore) : (s.setGcore c x).clock = s.clock := rfl
@[simp] theorem State.setGcore_cycle (s : State) (c : Nat) (x : GCore) : (s.setGcore c x).cycle = s.cycle := rfl
@[simp] theorem State.setGcore_seq (s : State) (c : Nat) (x : GCore) : (s.setGcore c x).seq = s.seq := rfl
@[simp] theorem State.setGcore_freeCount (s : State) (c : Nat) (x : GCore) : (s.setGcore c x).freeCount = s.freeCount := rfl
@[simp] theorem State.setGcore_agenda (s : State) (c : Nat) (x : GCore) : (s.setGcore c x).agenda = s.agenda := rfl
@[simp] theorem State.setGcore_inputs (s : State) (c : Nat) (x : GCore) : (s.setGcore c x).inputs = s.inputs := rfl
@[simp] theorem State.setGcore_rot (s : State) (c : Nat) (x : GCore) : (s.setGcore c x).rot = s.rot := rfl
@[simp] theorem State.setGcore_stopped (s : State) (c : Nat) (x : GCore) : (s.setGcore c x).stopped = s.stopped := rfl

/-! ### setLaunch -/

@[simp] theorem State.setLaunch_me (s : State) (c : Nat) (x : Launch) : (s.setLaunch c x).me = s.me := rfl
@[simp] theorem State.setLaunch_cur (s : State) (c : Nat) (x : Launch) : (s.setLaunch c x).cur = s.cur := rfl
@[simp] theorem State.setLaunch_ctxs (s : State) (c : Nat) (x : Launch) : (s.setLaunch c x).ctxs = s.ctxs := rfl
@[simp] theorem State.setLaunch_cores (s : State) (c : Nat) (x : Launch) : (s.setLaunch c x).cores = s.cores := rfl
@[simp] theorem State.setLaunch_gcores (s : State) (c : Nat) (x : Launch) : (s.setLaunch c x).gcores = s.gcores := rfl
@[simp] theorem State.setLaunch_flights (s : State) (c : Nat) (x : Launch) : (s.setLaunch c x).flights = s.flights := rfl
@[simp] theorem State.setLaunch_lofts (s : State) (c : Nat) (x : Launch) : (s.setLaunch c x).lofts = s.lofts := rfl
@[simp] theorem State.setLaunch_dies (s : State) (c : Nat) (x : Launch) : (s.setLaunch c x).dies = s.dies := rfl
@[simp] theorem State.setLaunch_mem (s : State) (c : Nat) (x : Launch) : (s.setLaunch c x).mem = s.mem := rfl
@[simp] theorem State.setLaunch_launches (s : State) (c : Nat) (x : Launch) : (s.setLaunch c x).launches = put s.launches c x := rfl
@[simp] theorem State.setLaunch_nextLaunch (s : State) (c : Nat) (x : Launch) : (s.setLaunch c x).nextLaunch = s.nextLaunch := rfl
@[simp] theorem State.setLaunch_msgs (s : State) (c : Nat) (x : Launch) : (s.setLaunch c x).msgs = s.msgs := rfl
@[simp] theorem State.setLaunch_joins (s : State) (c : Nat) (x : Launch) : (s.setLaunch c x).joins = s.joins := rfl
@[simp] theorem State.setLaunch_gates (s : State) (c : Nat) (x : Launch) : (s.setLaunch c x).gates = s.gates := rfl
@[simp] theorem State.setLaunch_keys (s : State) (c : Nat) (x : Launch) : (s.setLaunch c x).keys = s.keys := rfl
@[simp] theorem State.setLaunch_keyBook (s : State) (c : Nat) (x : Launch) : (s.setLaunch c x).keyBook = s.keyBook := rfl
@[simp] theorem State.setLaunch_pageKey (s : State) (c : Nat) (x : Launch) : (s.setLaunch c x).pageKey = s.pageKey := rfl
@[simp] theorem State.setLaunch_lineKey (s : State) (c : Nat) (x : Launch) : (s.setLaunch c x).lineKey = s.lineKey := rfl
@[simp] theorem State.setLaunch_eccLines (s : State) (c : Nat) (x : Launch) : (s.setLaunch c x).eccLines = s.eccLines := rfl
@[simp] theorem State.setLaunch_pot (s : State) (c : Nat) (x : Launch) : (s.setLaunch c x).pot = s.pot := rfl
@[simp] theorem State.setLaunch_egress (s : State) (c : Nat) (x : Launch) : (s.setLaunch c x).egress = s.egress := rfl
@[simp] theorem State.setLaunch_egressBytes (s : State) (c : Nat) (x : Launch) : (s.setLaunch c x).egressBytes = s.egressBytes := rfl
@[simp] theorem State.setLaunch_perf (s : State) (c : Nat) (x : Launch) : (s.setLaunch c x).perf = s.perf := rfl
@[simp] theorem State.setLaunch_errLog (s : State) (c : Nat) (x : Launch) : (s.setLaunch c x).errLog = s.errLog := rfl
@[simp] theorem State.setLaunch_parts (s : State) (c : Nat) (x : Launch) : (s.setLaunch c x).parts = s.parts := rfl
@[simp] theorem State.setLaunch_invals (s : State) (c : Nat) (x : Launch) : (s.setLaunch c x).invals = s.invals := rfl
@[simp] theorem State.setLaunch_past (s : State) (c : Nat) (x : Launch) : (s.setLaunch c x).past = s.past := rfl
@[simp] theorem State.setLaunch_rels (s : State) (c : Nat) (x : Launch) : (s.setLaunch c x).rels = s.rels := rfl
@[simp] theorem State.setLaunch_images (s : State) (c : Nat) (x : Launch) : (s.setLaunch c x).images = s.images := rfl
@[simp] theorem State.setLaunch_host (s : State) (c : Nat) (x : Launch) : (s.setLaunch c x).host = s.host := rfl
@[simp] theorem State.setLaunch_ports (s : State) (c : Nat) (x : Launch) : (s.setLaunch c x).ports = s.ports := rfl
@[simp] theorem State.setLaunch_routes (s : State) (c : Nat) (x : Launch) : (s.setLaunch c x).routes = s.routes := rfl
@[simp] theorem State.setLaunch_remoteWaits (s : State) (c : Nat) (x : Launch) : (s.setLaunch c x).remoteWaits = s.remoteWaits := rfl
@[simp] theorem State.setLaunch_stalls (s : State) (c : Nat) (x : Launch) : (s.setLaunch c x).stalls = s.stalls := rfl
@[simp] theorem State.setLaunch_sec (s : State) (c : Nat) (x : Launch) : (s.setLaunch c x).sec = s.sec := rfl
@[simp] theorem State.setLaunch_chip (s : State) (c : Nat) (x : Launch) : (s.setLaunch c x).chip = s.chip := rfl
@[simp] theorem State.setLaunch_clock (s : State) (c : Nat) (x : Launch) : (s.setLaunch c x).clock = s.clock := rfl
@[simp] theorem State.setLaunch_cycle (s : State) (c : Nat) (x : Launch) : (s.setLaunch c x).cycle = s.cycle := rfl
@[simp] theorem State.setLaunch_seq (s : State) (c : Nat) (x : Launch) : (s.setLaunch c x).seq = s.seq := rfl
@[simp] theorem State.setLaunch_freeCount (s : State) (c : Nat) (x : Launch) : (s.setLaunch c x).freeCount = s.freeCount := rfl
@[simp] theorem State.setLaunch_agenda (s : State) (c : Nat) (x : Launch) : (s.setLaunch c x).agenda = s.agenda := rfl
@[simp] theorem State.setLaunch_inputs (s : State) (c : Nat) (x : Launch) : (s.setLaunch c x).inputs = s.inputs := rfl
@[simp] theorem State.setLaunch_rot (s : State) (c : Nat) (x : Launch) : (s.setLaunch c x).rot = s.rot := rfl
@[simp] theorem State.setLaunch_stopped (s : State) (c : Nat) (x : Launch) : (s.setLaunch c x).stopped = s.stopped := rfl

/-! ### onCsr -/

@[simp] theorem State.onCsr_me (s : State) (f : Csr → Csr) : (s.onCsr f).me = { s.me with c := f s.me.c } := rfl
@[simp] theorem State.onCsr_cur (s : State) (f : Csr → Csr) : (s.onCsr f).cur = s.cur := rfl
@[simp] theorem State.onCsr_ctxs (s : State) (f : Csr → Csr) : (s.onCsr f).ctxs = s.ctxs := rfl
@[simp] theorem State.onCsr_cores (s : State) (f : Csr → Csr) : (s.onCsr f).cores = s.cores := rfl
@[simp] theorem State.onCsr_gcores (s : State) (f : Csr → Csr) : (s.onCsr f).gcores = s.gcores := rfl
@[simp] theorem State.onCsr_flights (s : State) (f : Csr → Csr) : (s.onCsr f).flights = s.flights := rfl
@[simp] theorem State.onCsr_lofts (s : State) (f : Csr → Csr) : (s.onCsr f).lofts = s.lofts := rfl
@[simp] theorem State.onCsr_dies (s : State) (f : Csr → Csr) : (s.onCsr f).dies = s.dies := rfl
@[simp] theorem State.onCsr_mem (s : State) (f : Csr → Csr) : (s.onCsr f).mem = s.mem := rfl
@[simp] theorem State.onCsr_launches (s : State) (f : Csr → Csr) : (s.onCsr f).launches = s.launches := rfl
@[simp] theorem State.onCsr_nextLaunch (s : State) (f : Csr → Csr) : (s.onCsr f).nextLaunch = s.nextLaunch := rfl
@[simp] theorem State.onCsr_msgs (s : State) (f : Csr → Csr) : (s.onCsr f).msgs = s.msgs := rfl
@[simp] theorem State.onCsr_joins (s : State) (f : Csr → Csr) : (s.onCsr f).joins = s.joins := rfl
@[simp] theorem State.onCsr_gates (s : State) (f : Csr → Csr) : (s.onCsr f).gates = s.gates := rfl
@[simp] theorem State.onCsr_keys (s : State) (f : Csr → Csr) : (s.onCsr f).keys = s.keys := rfl
@[simp] theorem State.onCsr_keyBook (s : State) (f : Csr → Csr) : (s.onCsr f).keyBook = s.keyBook := rfl
@[simp] theorem State.onCsr_pageKey (s : State) (f : Csr → Csr) : (s.onCsr f).pageKey = s.pageKey := rfl
@[simp] theorem State.onCsr_lineKey (s : State) (f : Csr → Csr) : (s.onCsr f).lineKey = s.lineKey := rfl
@[simp] theorem State.onCsr_eccLines (s : State) (f : Csr → Csr) : (s.onCsr f).eccLines = s.eccLines := rfl
@[simp] theorem State.onCsr_pot (s : State) (f : Csr → Csr) : (s.onCsr f).pot = s.pot := rfl
@[simp] theorem State.onCsr_egress (s : State) (f : Csr → Csr) : (s.onCsr f).egress = s.egress := rfl
@[simp] theorem State.onCsr_egressBytes (s : State) (f : Csr → Csr) : (s.onCsr f).egressBytes = s.egressBytes := rfl
@[simp] theorem State.onCsr_perf (s : State) (f : Csr → Csr) : (s.onCsr f).perf = s.perf := rfl
@[simp] theorem State.onCsr_errLog (s : State) (f : Csr → Csr) : (s.onCsr f).errLog = s.errLog := rfl
@[simp] theorem State.onCsr_parts (s : State) (f : Csr → Csr) : (s.onCsr f).parts = s.parts := rfl
@[simp] theorem State.onCsr_invals (s : State) (f : Csr → Csr) : (s.onCsr f).invals = s.invals := rfl
@[simp] theorem State.onCsr_past (s : State) (f : Csr → Csr) : (s.onCsr f).past = s.past := rfl
@[simp] theorem State.onCsr_rels (s : State) (f : Csr → Csr) : (s.onCsr f).rels = s.rels := rfl
@[simp] theorem State.onCsr_images (s : State) (f : Csr → Csr) : (s.onCsr f).images = s.images := rfl
@[simp] theorem State.onCsr_host (s : State) (f : Csr → Csr) : (s.onCsr f).host = s.host := rfl
@[simp] theorem State.onCsr_ports (s : State) (f : Csr → Csr) : (s.onCsr f).ports = s.ports := rfl
@[simp] theorem State.onCsr_routes (s : State) (f : Csr → Csr) : (s.onCsr f).routes = s.routes := rfl
@[simp] theorem State.onCsr_remoteWaits (s : State) (f : Csr → Csr) : (s.onCsr f).remoteWaits = s.remoteWaits := rfl
@[simp] theorem State.onCsr_stalls (s : State) (f : Csr → Csr) : (s.onCsr f).stalls = s.stalls := rfl
@[simp] theorem State.onCsr_sec (s : State) (f : Csr → Csr) : (s.onCsr f).sec = s.sec := rfl
@[simp] theorem State.onCsr_chip (s : State) (f : Csr → Csr) : (s.onCsr f).chip = s.chip := rfl
@[simp] theorem State.onCsr_clock (s : State) (f : Csr → Csr) : (s.onCsr f).clock = s.clock := rfl
@[simp] theorem State.onCsr_cycle (s : State) (f : Csr → Csr) : (s.onCsr f).cycle = s.cycle := rfl
@[simp] theorem State.onCsr_seq (s : State) (f : Csr → Csr) : (s.onCsr f).seq = s.seq := rfl
@[simp] theorem State.onCsr_freeCount (s : State) (f : Csr → Csr) : (s.onCsr f).freeCount = s.freeCount := rfl
@[simp] theorem State.onCsr_agenda (s : State) (f : Csr → Csr) : (s.onCsr f).agenda = s.agenda := rfl
@[simp] theorem State.onCsr_inputs (s : State) (f : Csr → Csr) : (s.onCsr f).inputs = s.inputs := rfl
@[simp] theorem State.onCsr_rot (s : State) (f : Csr → Csr) : (s.onCsr f).rot = s.rot := rfl
@[simp] theorem State.onCsr_stopped (s : State) (f : Csr → Csr) : (s.onCsr f).stopped = s.stopped := rfl

/-! ### onRegs -/

@[simp] theorem State.onRegs_me (s : State) (f : Regs → Regs) : (s.onRegs f).me = { s.me with r := f s.me.r } := rfl
@[simp] theorem State.onRegs_cur (s : State) (f : Regs → Regs) : (s.onRegs f).cur = s.cur := rfl
@[simp] theorem State.onRegs_ctxs (s : State) (f : Regs → Regs) : (s.onRegs f).ctxs = s.ctxs := rfl
@[simp] theorem State.onRegs_cores (s : State) (f : Regs → Regs) : (s.onRegs f).cores = s.cores := rfl
@[simp] theorem State.onRegs_gcores (s : State) (f : Regs → Regs) : (s.onRegs f).gcores = s.gcores := rfl
@[simp] theorem State.onRegs_flights (s : State) (f : Regs → Regs) : (s.onRegs f).flights = s.flights := rfl
@[simp] theorem State.onRegs_lofts (s : State) (f : Regs → Regs) : (s.onRegs f).lofts = s.lofts := rfl
@[simp] theorem State.onRegs_dies (s : State) (f : Regs → Regs) : (s.onRegs f).dies = s.dies := rfl
@[simp] theorem State.onRegs_mem (s : State) (f : Regs → Regs) : (s.onRegs f).mem = s.mem := rfl
@[simp] theorem State.onRegs_launches (s : State) (f : Regs → Regs) : (s.onRegs f).launches = s.launches := rfl
@[simp] theorem State.onRegs_nextLaunch (s : State) (f : Regs → Regs) : (s.onRegs f).nextLaunch = s.nextLaunch := rfl
@[simp] theorem State.onRegs_msgs (s : State) (f : Regs → Regs) : (s.onRegs f).msgs = s.msgs := rfl
@[simp] theorem State.onRegs_joins (s : State) (f : Regs → Regs) : (s.onRegs f).joins = s.joins := rfl
@[simp] theorem State.onRegs_gates (s : State) (f : Regs → Regs) : (s.onRegs f).gates = s.gates := rfl
@[simp] theorem State.onRegs_keys (s : State) (f : Regs → Regs) : (s.onRegs f).keys = s.keys := rfl
@[simp] theorem State.onRegs_keyBook (s : State) (f : Regs → Regs) : (s.onRegs f).keyBook = s.keyBook := rfl
@[simp] theorem State.onRegs_pageKey (s : State) (f : Regs → Regs) : (s.onRegs f).pageKey = s.pageKey := rfl
@[simp] theorem State.onRegs_lineKey (s : State) (f : Regs → Regs) : (s.onRegs f).lineKey = s.lineKey := rfl
@[simp] theorem State.onRegs_eccLines (s : State) (f : Regs → Regs) : (s.onRegs f).eccLines = s.eccLines := rfl
@[simp] theorem State.onRegs_pot (s : State) (f : Regs → Regs) : (s.onRegs f).pot = s.pot := rfl
@[simp] theorem State.onRegs_egress (s : State) (f : Regs → Regs) : (s.onRegs f).egress = s.egress := rfl
@[simp] theorem State.onRegs_egressBytes (s : State) (f : Regs → Regs) : (s.onRegs f).egressBytes = s.egressBytes := rfl
@[simp] theorem State.onRegs_perf (s : State) (f : Regs → Regs) : (s.onRegs f).perf = s.perf := rfl
@[simp] theorem State.onRegs_errLog (s : State) (f : Regs → Regs) : (s.onRegs f).errLog = s.errLog := rfl
@[simp] theorem State.onRegs_parts (s : State) (f : Regs → Regs) : (s.onRegs f).parts = s.parts := rfl
@[simp] theorem State.onRegs_invals (s : State) (f : Regs → Regs) : (s.onRegs f).invals = s.invals := rfl
@[simp] theorem State.onRegs_past (s : State) (f : Regs → Regs) : (s.onRegs f).past = s.past := rfl
@[simp] theorem State.onRegs_rels (s : State) (f : Regs → Regs) : (s.onRegs f).rels = s.rels := rfl
@[simp] theorem State.onRegs_images (s : State) (f : Regs → Regs) : (s.onRegs f).images = s.images := rfl
@[simp] theorem State.onRegs_host (s : State) (f : Regs → Regs) : (s.onRegs f).host = s.host := rfl
@[simp] theorem State.onRegs_ports (s : State) (f : Regs → Regs) : (s.onRegs f).ports = s.ports := rfl
@[simp] theorem State.onRegs_routes (s : State) (f : Regs → Regs) : (s.onRegs f).routes = s.routes := rfl
@[simp] theorem State.onRegs_remoteWaits (s : State) (f : Regs → Regs) : (s.onRegs f).remoteWaits = s.remoteWaits := rfl
@[simp] theorem State.onRegs_stalls (s : State) (f : Regs → Regs) : (s.onRegs f).stalls = s.stalls := rfl
@[simp] theorem State.onRegs_sec (s : State) (f : Regs → Regs) : (s.onRegs f).sec = s.sec := rfl
@[simp] theorem State.onRegs_chip (s : State) (f : Regs → Regs) : (s.onRegs f).chip = s.chip := rfl
@[simp] theorem State.onRegs_clock (s : State) (f : Regs → Regs) : (s.onRegs f).clock = s.clock := rfl
@[simp] theorem State.onRegs_cycle (s : State) (f : Regs → Regs) : (s.onRegs f).cycle = s.cycle := rfl
@[simp] theorem State.onRegs_seq (s : State) (f : Regs → Regs) : (s.onRegs f).seq = s.seq := rfl
@[simp] theorem State.onRegs_freeCount (s : State) (f : Regs → Regs) : (s.onRegs f).freeCount = s.freeCount := rfl
@[simp] theorem State.onRegs_agenda (s : State) (f : Regs → Regs) : (s.onRegs f).agenda = s.agenda := rfl
@[simp] theorem State.onRegs_inputs (s : State) (f : Regs → Regs) : (s.onRegs f).inputs = s.inputs := rfl
@[simp] theorem State.onRegs_rot (s : State) (f : Regs → Regs) : (s.onRegs f).rot = s.rot := rfl
@[simp] theorem State.onRegs_stopped (s : State) (f : Regs → Regs) : (s.onRegs f).stopped = s.stopped := rfl

/-! ### onTask -/

@[simp] theorem State.onTask_me (s : State) (f : Task → Task) : (s.onTask f).me = { s.me with t := f s.me.t } := rfl
@[simp] theorem State.onTask_cur (s : State) (f : Task → Task) : (s.onTask f).cur = s.cur := rfl
@[simp] theorem State.onTask_ctxs (s : State) (f : Task → Task) : (s.onTask f).ctxs = s.ctxs := rfl
@[simp] theorem State.onTask_cores (s : State) (f : Task → Task) : (s.onTask f).cores = s.cores := rfl
@[simp] theorem State.onTask_gcores (s : State) (f : Task → Task) : (s.onTask f).gcores = s.gcores := rfl
@[simp] theorem State.onTask_flights (s : State) (f : Task → Task) : (s.onTask f).flights = s.flights := rfl
@[simp] theorem State.onTask_lofts (s : State) (f : Task → Task) : (s.onTask f).lofts = s.lofts := rfl
@[simp] theorem State.onTask_dies (s : State) (f : Task → Task) : (s.onTask f).dies = s.dies := rfl
@[simp] theorem State.onTask_mem (s : State) (f : Task → Task) : (s.onTask f).mem = s.mem := rfl
@[simp] theorem State.onTask_launches (s : State) (f : Task → Task) : (s.onTask f).launches = s.launches := rfl
@[simp] theorem State.onTask_nextLaunch (s : State) (f : Task → Task) : (s.onTask f).nextLaunch = s.nextLaunch := rfl
@[simp] theorem State.onTask_msgs (s : State) (f : Task → Task) : (s.onTask f).msgs = s.msgs := rfl
@[simp] theorem State.onTask_joins (s : State) (f : Task → Task) : (s.onTask f).joins = s.joins := rfl
@[simp] theorem State.onTask_gates (s : State) (f : Task → Task) : (s.onTask f).gates = s.gates := rfl
@[simp] theorem State.onTask_keys (s : State) (f : Task → Task) : (s.onTask f).keys = s.keys := rfl
@[simp] theorem State.onTask_keyBook (s : State) (f : Task → Task) : (s.onTask f).keyBook = s.keyBook := rfl
@[simp] theorem State.onTask_pageKey (s : State) (f : Task → Task) : (s.onTask f).pageKey = s.pageKey := rfl
@[simp] theorem State.onTask_lineKey (s : State) (f : Task → Task) : (s.onTask f).lineKey = s.lineKey := rfl
@[simp] theorem State.onTask_eccLines (s : State) (f : Task → Task) : (s.onTask f).eccLines = s.eccLines := rfl
@[simp] theorem State.onTask_pot (s : State) (f : Task → Task) : (s.onTask f).pot = s.pot := rfl
@[simp] theorem State.onTask_egress (s : State) (f : Task → Task) : (s.onTask f).egress = s.egress := rfl
@[simp] theorem State.onTask_egressBytes (s : State) (f : Task → Task) : (s.onTask f).egressBytes = s.egressBytes := rfl
@[simp] theorem State.onTask_perf (s : State) (f : Task → Task) : (s.onTask f).perf = s.perf := rfl
@[simp] theorem State.onTask_errLog (s : State) (f : Task → Task) : (s.onTask f).errLog = s.errLog := rfl
@[simp] theorem State.onTask_parts (s : State) (f : Task → Task) : (s.onTask f).parts = s.parts := rfl
@[simp] theorem State.onTask_invals (s : State) (f : Task → Task) : (s.onTask f).invals = s.invals := rfl
@[simp] theorem State.onTask_past (s : State) (f : Task → Task) : (s.onTask f).past = s.past := rfl
@[simp] theorem State.onTask_rels (s : State) (f : Task → Task) : (s.onTask f).rels = s.rels := rfl
@[simp] theorem State.onTask_images (s : State) (f : Task → Task) : (s.onTask f).images = s.images := rfl
@[simp] theorem State.onTask_host (s : State) (f : Task → Task) : (s.onTask f).host = s.host := rfl
@[simp] theorem State.onTask_ports (s : State) (f : Task → Task) : (s.onTask f).ports = s.ports := rfl
@[simp] theorem State.onTask_routes (s : State) (f : Task → Task) : (s.onTask f).routes = s.routes := rfl
@[simp] theorem State.onTask_remoteWaits (s : State) (f : Task → Task) : (s.onTask f).remoteWaits = s.remoteWaits := rfl
@[simp] theorem State.onTask_stalls (s : State) (f : Task → Task) : (s.onTask f).stalls = s.stalls := rfl
@[simp] theorem State.onTask_sec (s : State) (f : Task → Task) : (s.onTask f).sec = s.sec := rfl
@[simp] theorem State.onTask_chip (s : State) (f : Task → Task) : (s.onTask f).chip = s.chip := rfl
@[simp] theorem State.onTask_clock (s : State) (f : Task → Task) : (s.onTask f).clock = s.clock := rfl
@[simp] theorem State.onTask_cycle (s : State) (f : Task → Task) : (s.onTask f).cycle = s.cycle := rfl
@[simp] theorem State.onTask_seq (s : State) (f : Task → Task) : (s.onTask f).seq = s.seq := rfl
@[simp] theorem State.onTask_freeCount (s : State) (f : Task → Task) : (s.onTask f).freeCount = s.freeCount := rfl
@[simp] theorem State.onTask_agenda (s : State) (f : Task → Task) : (s.onTask f).agenda = s.agenda := rfl
@[simp] theorem State.onTask_inputs (s : State) (f : Task → Task) : (s.onTask f).inputs = s.inputs := rfl
@[simp] theorem State.onTask_rot (s : State) (f : Task → Task) : (s.onTask f).rot = s.rot := rfl
@[simp] theorem State.onTask_stopped (s : State) (f : Task → Task) : (s.onTask f).stopped = s.stopped := rfl

/-! ### flow -/

@[simp] theorem State.flow_cur (s : State) (r : Regs) (l : List Behind) : (s.flow r l).cur = s.cur := rfl
@[simp] theorem State.flow_ctxs (s : State) (r : Regs) (l : List Behind) : (s.flow r l).ctxs = s.ctxs := rfl
@[simp] theorem State.flow_cores (s : State) (r : Regs) (l : List Behind) : (s.flow r l).cores = s.cores := rfl
@[simp] theorem State.flow_gcores (s : State) (r : Regs) (l : List Behind) : (s.flow r l).gcores = s.gcores := rfl
@[simp] theorem State.flow_flights (s : State) (r : Regs) (l : List Behind) : (s.flow r l).flights = s.flights := rfl
@[simp] theorem State.flow_lofts (s : State) (r : Regs) (l : List Behind) : (s.flow r l).lofts = s.lofts := rfl
@[simp] theorem State.flow_dies (s : State) (r : Regs) (l : List Behind) : (s.flow r l).dies = s.dies := rfl
@[simp] theorem State.flow_mem (s : State) (r : Regs) (l : List Behind) : (s.flow r l).mem = s.mem := rfl
@[simp] theorem State.flow_launches (s : State) (r : Regs) (l : List Behind) : (s.flow r l).launches = s.launches := rfl
@[simp] theorem State.flow_nextLaunch (s : State) (r : Regs) (l : List Behind) : (s.flow r l).nextLaunch = s.nextLaunch := rfl
@[simp] theorem State.flow_msgs (s : State) (r : Regs) (l : List Behind) : (s.flow r l).msgs = s.msgs := rfl
@[simp] theorem State.flow_joins (s : State) (r : Regs) (l : List Behind) : (s.flow r l).joins = s.joins := rfl
@[simp] theorem State.flow_gates (s : State) (r : Regs) (l : List Behind) : (s.flow r l).gates = s.gates := rfl
@[simp] theorem State.flow_keys (s : State) (r : Regs) (l : List Behind) : (s.flow r l).keys = s.keys := rfl
@[simp] theorem State.flow_keyBook (s : State) (r : Regs) (l : List Behind) : (s.flow r l).keyBook = s.keyBook := rfl
@[simp] theorem State.flow_pageKey (s : State) (r : Regs) (l : List Behind) : (s.flow r l).pageKey = s.pageKey := rfl
@[simp] theorem State.flow_lineKey (s : State) (r : Regs) (l : List Behind) : (s.flow r l).lineKey = s.lineKey := rfl
@[simp] theorem State.flow_eccLines (s : State) (r : Regs) (l : List Behind) : (s.flow r l).eccLines = s.eccLines := rfl
@[simp] theorem State.flow_pot (s : State) (r : Regs) (l : List Behind) : (s.flow r l).pot = s.pot := rfl
@[simp] theorem State.flow_egress (s : State) (r : Regs) (l : List Behind) : (s.flow r l).egress = s.egress := rfl
@[simp] theorem State.flow_egressBytes (s : State) (r : Regs) (l : List Behind) : (s.flow r l).egressBytes = s.egressBytes := rfl
@[simp] theorem State.flow_perf (s : State) (r : Regs) (l : List Behind) : (s.flow r l).perf = s.perf := rfl
@[simp] theorem State.flow_errLog (s : State) (r : Regs) (l : List Behind) : (s.flow r l).errLog = s.errLog := rfl
@[simp] theorem State.flow_parts (s : State) (r : Regs) (l : List Behind) : (s.flow r l).parts = s.parts := rfl
@[simp] theorem State.flow_invals (s : State) (r : Regs) (l : List Behind) : (s.flow r l).invals = s.invals := rfl
@[simp] theorem State.flow_past (s : State) (r : Regs) (l : List Behind) : (s.flow r l).past = s.past := rfl
@[simp] theorem State.flow_rels (s : State) (r : Regs) (l : List Behind) : (s.flow r l).rels = s.rels := rfl
@[simp] theorem State.flow_images (s : State) (r : Regs) (l : List Behind) : (s.flow r l).images = s.images := rfl
@[simp] theorem State.flow_host (s : State) (r : Regs) (l : List Behind) : (s.flow r l).host = s.host := rfl
@[simp] theorem State.flow_ports (s : State) (r : Regs) (l : List Behind) : (s.flow r l).ports = s.ports := rfl
@[simp] theorem State.flow_routes (s : State) (r : Regs) (l : List Behind) : (s.flow r l).routes = s.routes := rfl
@[simp] theorem State.flow_remoteWaits (s : State) (r : Regs) (l : List Behind) : (s.flow r l).remoteWaits = s.remoteWaits := rfl
@[simp] theorem State.flow_stalls (s : State) (r : Regs) (l : List Behind) : (s.flow r l).stalls = s.stalls := rfl
@[simp] theorem State.flow_sec (s : State) (r : Regs) (l : List Behind) : (s.flow r l).sec = s.sec := rfl
@[simp] theorem State.flow_chip (s : State) (r : Regs) (l : List Behind) : (s.flow r l).chip = s.chip := rfl
@[simp] theorem State.flow_clock (s : State) (r : Regs) (l : List Behind) : (s.flow r l).clock = s.clock := rfl
@[simp] theorem State.flow_cycle (s : State) (r : Regs) (l : List Behind) : (s.flow r l).cycle = s.cycle := rfl
@[simp] theorem State.flow_seq (s : State) (r : Regs) (l : List Behind) : (s.flow r l).seq = s.seq := rfl
@[simp] theorem State.flow_freeCount (s : State) (r : Regs) (l : List Behind) : (s.flow r l).freeCount = s.freeCount := rfl
@[simp] theorem State.flow_agenda (s : State) (r : Regs) (l : List Behind) : (s.flow r l).agenda = s.agenda := rfl
@[simp] theorem State.flow_inputs (s : State) (r : Regs) (l : List Behind) : (s.flow r l).inputs = s.inputs := rfl
@[simp] theorem State.flow_rot (s : State) (r : Regs) (l : List Behind) : (s.flow r l).rot = s.rot := rfl
@[simp] theorem State.flow_stopped (s : State) (r : Regs) (l : List Behind) : (s.flow r l).stopped = s.stopped := rfl

/-! ### result -/

@[simp] theorem State.result_cur (s : State) (d : Opnd) (x : Word) : (s.result d x).cur = s.cur := rfl
@[simp] theorem State.result_ctxs (s : State) (d : Opnd) (x : Word) : (s.result d x).ctxs = s.ctxs := rfl
@[simp] theorem State.result_cores (s : State) (d : Opnd) (x : Word) : (s.result d x).cores = s.cores := rfl
@[simp] theorem State.result_gcores (s : State) (d : Opnd) (x : Word) : (s.result d x).gcores = s.gcores := rfl
@[simp] theorem State.result_flights (s : State) (d : Opnd) (x : Word) : (s.result d x).flights = s.flights := rfl
@[simp] theorem State.result_lofts (s : State) (d : Opnd) (x : Word) : (s.result d x).lofts = s.lofts := rfl
@[simp] theorem State.result_dies (s : State) (d : Opnd) (x : Word) : (s.result d x).dies = s.dies := rfl
@[simp] theorem State.result_mem (s : State) (d : Opnd) (x : Word) : (s.result d x).mem = s.mem := rfl
@[simp] theorem State.result_launches (s : State) (d : Opnd) (x : Word) : (s.result d x).launches = s.launches := rfl
@[simp] theorem State.result_nextLaunch (s : State) (d : Opnd) (x : Word) : (s.result d x).nextLaunch = s.nextLaunch := rfl
@[simp] theorem State.result_msgs (s : State) (d : Opnd) (x : Word) : (s.result d x).msgs = s.msgs := rfl
@[simp] theorem State.result_joins (s : State) (d : Opnd) (x : Word) : (s.result d x).joins = s.joins := rfl
@[simp] theorem State.result_gates (s : State) (d : Opnd) (x : Word) : (s.result d x).gates = s.gates := rfl
@[simp] theorem State.result_keys (s : State) (d : Opnd) (x : Word) : (s.result d x).keys = s.keys := rfl
@[simp] theorem State.result_keyBook (s : State) (d : Opnd) (x : Word) : (s.result d x).keyBook = s.keyBook := rfl
@[simp] theorem State.result_pageKey (s : State) (d : Opnd) (x : Word) : (s.result d x).pageKey = s.pageKey := rfl
@[simp] theorem State.result_lineKey (s : State) (d : Opnd) (x : Word) : (s.result d x).lineKey = s.lineKey := rfl
@[simp] theorem State.result_eccLines (s : State) (d : Opnd) (x : Word) : (s.result d x).eccLines = s.eccLines := rfl
@[simp] theorem State.result_pot (s : State) (d : Opnd) (x : Word) : (s.result d x).pot = s.pot := rfl
@[simp] theorem State.result_egress (s : State) (d : Opnd) (x : Word) : (s.result d x).egress = s.egress := rfl
@[simp] theorem State.result_egressBytes (s : State) (d : Opnd) (x : Word) : (s.result d x).egressBytes = s.egressBytes := rfl
@[simp] theorem State.result_perf (s : State) (d : Opnd) (x : Word) : (s.result d x).perf = s.perf := rfl
@[simp] theorem State.result_errLog (s : State) (d : Opnd) (x : Word) : (s.result d x).errLog = s.errLog := rfl
@[simp] theorem State.result_parts (s : State) (d : Opnd) (x : Word) : (s.result d x).parts = s.parts := rfl
@[simp] theorem State.result_invals (s : State) (d : Opnd) (x : Word) : (s.result d x).invals = s.invals := rfl
@[simp] theorem State.result_past (s : State) (d : Opnd) (x : Word) : (s.result d x).past = s.past := rfl
@[simp] theorem State.result_rels (s : State) (d : Opnd) (x : Word) : (s.result d x).rels = s.rels := rfl
@[simp] theorem State.result_images (s : State) (d : Opnd) (x : Word) : (s.result d x).images = s.images := rfl
@[simp] theorem State.result_host (s : State) (d : Opnd) (x : Word) : (s.result d x).host = s.host := rfl
@[simp] theorem State.result_ports (s : State) (d : Opnd) (x : Word) : (s.result d x).ports = s.ports := rfl
@[simp] theorem State.result_routes (s : State) (d : Opnd) (x : Word) : (s.result d x).routes = s.routes := rfl
@[simp] theorem State.result_remoteWaits (s : State) (d : Opnd) (x : Word) : (s.result d x).remoteWaits = s.remoteWaits := rfl
@[simp] theorem State.result_stalls (s : State) (d : Opnd) (x : Word) : (s.result d x).stalls = s.stalls := rfl
@[simp] theorem State.result_sec (s : State) (d : Opnd) (x : Word) : (s.result d x).sec = s.sec := rfl
@[simp] theorem State.result_chip (s : State) (d : Opnd) (x : Word) : (s.result d x).chip = s.chip := rfl
@[simp] theorem State.result_clock (s : State) (d : Opnd) (x : Word) : (s.result d x).clock = s.clock := rfl
@[simp] theorem State.result_cycle (s : State) (d : Opnd) (x : Word) : (s.result d x).cycle = s.cycle := rfl
@[simp] theorem State.result_seq (s : State) (d : Opnd) (x : Word) : (s.result d x).seq = s.seq := rfl
@[simp] theorem State.result_freeCount (s : State) (d : Opnd) (x : Word) : (s.result d x).freeCount = s.freeCount := rfl
@[simp] theorem State.result_agenda (s : State) (d : Opnd) (x : Word) : (s.result d x).agenda = s.agenda := rfl
@[simp] theorem State.result_inputs (s : State) (d : Opnd) (x : Word) : (s.result d x).inputs = s.inputs := rfl
@[simp] theorem State.result_rot (s : State) (d : Opnd) (x : Word) : (s.result d x).rot = s.rot := rfl
@[simp] theorem State.result_stopped (s : State) (d : Opnd) (x : Word) : (s.result d x).stopped = s.stopped := rfl

/-! ### resultW -/

@[simp] theorem State.resultW_cur (s : State) (d : WReg) (x : Word) : (s.resultW d x).cur = s.cur := rfl
@[simp] theorem State.resultW_ctxs (s : State) (d : WReg) (x : Word) : (s.resultW d x).ctxs = s.ctxs := rfl
@[simp] theorem State.resultW_cores (s : State) (d : WReg) (x : Word) : (s.resultW d x).cores = s.cores := rfl
@[simp] theorem State.resultW_gcores (s : State) (d : WReg) (x : Word) : (s.resultW d x).gcores = s.gcores := rfl
@[simp] theorem State.resultW_flights (s : State) (d : WReg) (x : Word) : (s.resultW d x).flights = s.flights := rfl
@[simp] theorem State.resultW_lofts (s : State) (d : WReg) (x : Word) : (s.resultW d x).lofts = s.lofts := rfl
@[simp] theorem State.resultW_dies (s : State) (d : WReg) (x : Word) : (s.resultW d x).dies = s.dies := rfl
@[simp] theorem State.resultW_mem (s : State) (d : WReg) (x : Word) : (s.resultW d x).mem = s.mem := rfl
@[simp] theorem State.resultW_launches (s : State) (d : WReg) (x : Word) : (s.resultW d x).launches = s.launches := rfl
@[simp] theorem State.resultW_nextLaunch (s : State) (d : WReg) (x : Word) : (s.resultW d x).nextLaunch = s.nextLaunch := rfl
@[simp] theorem State.resultW_msgs (s : State) (d : WReg) (x : Word) : (s.resultW d x).msgs = s.msgs := rfl
@[simp] theorem State.resultW_joins (s : State) (d : WReg) (x : Word) : (s.resultW d x).joins = s.joins := rfl
@[simp] theorem State.resultW_gates (s : State) (d : WReg) (x : Word) : (s.resultW d x).gates = s.gates := rfl
@[simp] theorem State.resultW_keys (s : State) (d : WReg) (x : Word) : (s.resultW d x).keys = s.keys := rfl
@[simp] theorem State.resultW_keyBook (s : State) (d : WReg) (x : Word) : (s.resultW d x).keyBook = s.keyBook := rfl
@[simp] theorem State.resultW_pageKey (s : State) (d : WReg) (x : Word) : (s.resultW d x).pageKey = s.pageKey := rfl
@[simp] theorem State.resultW_lineKey (s : State) (d : WReg) (x : Word) : (s.resultW d x).lineKey = s.lineKey := rfl
@[simp] theorem State.resultW_eccLines (s : State) (d : WReg) (x : Word) : (s.resultW d x).eccLines = s.eccLines := rfl
@[simp] theorem State.resultW_pot (s : State) (d : WReg) (x : Word) : (s.resultW d x).pot = s.pot := rfl
@[simp] theorem State.resultW_egress (s : State) (d : WReg) (x : Word) : (s.resultW d x).egress = s.egress := rfl
@[simp] theorem State.resultW_egressBytes (s : State) (d : WReg) (x : Word) : (s.resultW d x).egressBytes = s.egressBytes := rfl
@[simp] theorem State.resultW_perf (s : State) (d : WReg) (x : Word) : (s.resultW d x).perf = s.perf := rfl
@[simp] theorem State.resultW_errLog (s : State) (d : WReg) (x : Word) : (s.resultW d x).errLog = s.errLog := rfl
@[simp] theorem State.resultW_parts (s : State) (d : WReg) (x : Word) : (s.resultW d x).parts = s.parts := rfl
@[simp] theorem State.resultW_invals (s : State) (d : WReg) (x : Word) : (s.resultW d x).invals = s.invals := rfl
@[simp] theorem State.resultW_past (s : State) (d : WReg) (x : Word) : (s.resultW d x).past = s.past := rfl
@[simp] theorem State.resultW_rels (s : State) (d : WReg) (x : Word) : (s.resultW d x).rels = s.rels := rfl
@[simp] theorem State.resultW_images (s : State) (d : WReg) (x : Word) : (s.resultW d x).images = s.images := rfl
@[simp] theorem State.resultW_host (s : State) (d : WReg) (x : Word) : (s.resultW d x).host = s.host := rfl
@[simp] theorem State.resultW_ports (s : State) (d : WReg) (x : Word) : (s.resultW d x).ports = s.ports := rfl
@[simp] theorem State.resultW_routes (s : State) (d : WReg) (x : Word) : (s.resultW d x).routes = s.routes := rfl
@[simp] theorem State.resultW_remoteWaits (s : State) (d : WReg) (x : Word) : (s.resultW d x).remoteWaits = s.remoteWaits := rfl
@[simp] theorem State.resultW_stalls (s : State) (d : WReg) (x : Word) : (s.resultW d x).stalls = s.stalls := rfl
@[simp] theorem State.resultW_sec (s : State) (d : WReg) (x : Word) : (s.resultW d x).sec = s.sec := rfl
@[simp] theorem State.resultW_chip (s : State) (d : WReg) (x : Word) : (s.resultW d x).chip = s.chip := rfl
@[simp] theorem State.resultW_clock (s : State) (d : WReg) (x : Word) : (s.resultW d x).clock = s.clock := rfl
@[simp] theorem State.resultW_cycle (s : State) (d : WReg) (x : Word) : (s.resultW d x).cycle = s.cycle := rfl
@[simp] theorem State.resultW_seq (s : State) (d : WReg) (x : Word) : (s.resultW d x).seq = s.seq := rfl
@[simp] theorem State.resultW_freeCount (s : State) (d : WReg) (x : Word) : (s.resultW d x).freeCount = s.freeCount := rfl
@[simp] theorem State.resultW_agenda (s : State) (d : WReg) (x : Word) : (s.resultW d x).agenda = s.agenda := rfl
@[simp] theorem State.resultW_inputs (s : State) (d : WReg) (x : Word) : (s.resultW d x).inputs = s.inputs := rfl
@[simp] theorem State.resultW_rot (s : State) (d : WReg) (x : Word) : (s.resultW d x).rot = s.rot := rfl
@[simp] theorem State.resultW_stopped (s : State) (d : WReg) (x : Word) : (s.resultW d x).stopped = s.stopped := rfl

/-! ### pop -/

@[simp] theorem State.pop_cur (s : State) (a : Opnd) : (s.pop a).cur = s.cur := rfl
@[simp] theorem State.pop_ctxs (s : State) (a : Opnd) : (s.pop a).ctxs = s.ctxs := rfl
@[simp] theorem State.pop_cores (s : State) (a : Opnd) : (s.pop a).cores = s.cores := rfl
@[simp] theorem State.pop_gcores (s : State) (a : Opnd) : (s.pop a).gcores = s.gcores := rfl
@[simp] theorem State.pop_flights (s : State) (a : Opnd) : (s.pop a).flights = s.flights := rfl
@[simp] theorem State.pop_lofts (s : State) (a : Opnd) : (s.pop a).lofts = s.lofts := rfl
@[simp] theorem State.pop_dies (s : State) (a : Opnd) : (s.pop a).dies = s.dies := rfl
@[simp] theorem State.pop_mem (s : State) (a : Opnd) : (s.pop a).mem = s.mem := rfl
@[simp] theorem State.pop_launches (s : State) (a : Opnd) : (s.pop a).launches = s.launches := rfl
@[simp] theorem State.pop_nextLaunch (s : State) (a : Opnd) : (s.pop a).nextLaunch = s.nextLaunch := rfl
@[simp] theorem State.pop_msgs (s : State) (a : Opnd) : (s.pop a).msgs = s.msgs := rfl
@[simp] theorem State.pop_joins (s : State) (a : Opnd) : (s.pop a).joins = s.joins := rfl
@[simp] theorem State.pop_gates (s : State) (a : Opnd) : (s.pop a).gates = s.gates := rfl
@[simp] theorem State.pop_keys (s : State) (a : Opnd) : (s.pop a).keys = s.keys := rfl
@[simp] theorem State.pop_keyBook (s : State) (a : Opnd) : (s.pop a).keyBook = s.keyBook := rfl
@[simp] theorem State.pop_pageKey (s : State) (a : Opnd) : (s.pop a).pageKey = s.pageKey := rfl
@[simp] theorem State.pop_lineKey (s : State) (a : Opnd) : (s.pop a).lineKey = s.lineKey := rfl
@[simp] theorem State.pop_eccLines (s : State) (a : Opnd) : (s.pop a).eccLines = s.eccLines := rfl
@[simp] theorem State.pop_pot (s : State) (a : Opnd) : (s.pop a).pot = s.pot := rfl
@[simp] theorem State.pop_egress (s : State) (a : Opnd) : (s.pop a).egress = s.egress := rfl
@[simp] theorem State.pop_egressBytes (s : State) (a : Opnd) : (s.pop a).egressBytes = s.egressBytes := rfl
@[simp] theorem State.pop_perf (s : State) (a : Opnd) : (s.pop a).perf = s.perf := rfl
@[simp] theorem State.pop_errLog (s : State) (a : Opnd) : (s.pop a).errLog = s.errLog := rfl
@[simp] theorem State.pop_parts (s : State) (a : Opnd) : (s.pop a).parts = s.parts := rfl
@[simp] theorem State.pop_invals (s : State) (a : Opnd) : (s.pop a).invals = s.invals := rfl
@[simp] theorem State.pop_past (s : State) (a : Opnd) : (s.pop a).past = s.past := rfl
@[simp] theorem State.pop_rels (s : State) (a : Opnd) : (s.pop a).rels = s.rels := rfl
@[simp] theorem State.pop_images (s : State) (a : Opnd) : (s.pop a).images = s.images := rfl
@[simp] theorem State.pop_host (s : State) (a : Opnd) : (s.pop a).host = s.host := rfl
@[simp] theorem State.pop_ports (s : State) (a : Opnd) : (s.pop a).ports = s.ports := rfl
@[simp] theorem State.pop_routes (s : State) (a : Opnd) : (s.pop a).routes = s.routes := rfl
@[simp] theorem State.pop_remoteWaits (s : State) (a : Opnd) : (s.pop a).remoteWaits = s.remoteWaits := rfl
@[simp] theorem State.pop_stalls (s : State) (a : Opnd) : (s.pop a).stalls = s.stalls := rfl
@[simp] theorem State.pop_sec (s : State) (a : Opnd) : (s.pop a).sec = s.sec := rfl
@[simp] theorem State.pop_chip (s : State) (a : Opnd) : (s.pop a).chip = s.chip := rfl
@[simp] theorem State.pop_clock (s : State) (a : Opnd) : (s.pop a).clock = s.clock := rfl
@[simp] theorem State.pop_cycle (s : State) (a : Opnd) : (s.pop a).cycle = s.cycle := rfl
@[simp] theorem State.pop_seq (s : State) (a : Opnd) : (s.pop a).seq = s.seq := rfl
@[simp] theorem State.pop_freeCount (s : State) (a : Opnd) : (s.pop a).freeCount = s.freeCount := rfl
@[simp] theorem State.pop_agenda (s : State) (a : Opnd) : (s.pop a).agenda = s.agenda := rfl
@[simp] theorem State.pop_inputs (s : State) (a : Opnd) : (s.pop a).inputs = s.inputs := rfl
@[simp] theorem State.pop_rot (s : State) (a : Opnd) : (s.pop a).rot = s.rot := rfl
@[simp] theorem State.pop_stopped (s : State) (a : Opnd) : (s.pop a).stopped = s.stopped := rfl

/-! ### pop2 -/

@[simp] theorem State.pop2_cur (s : State) (a b : Opnd) : (s.pop2 a b).cur = s.cur := rfl
@[simp] theorem State.pop2_ctxs (s : State) (a b : Opnd) : (s.pop2 a b).ctxs = s.ctxs := rfl
@[simp] theorem State.pop2_cores (s : State) (a b : Opnd) : (s.pop2 a b).cores = s.cores := rfl
@[simp] theorem State.pop2_gcores (s : State) (a b : Opnd) : (s.pop2 a b).gcores = s.gcores := rfl
@[simp] theorem State.pop2_flights (s : State) (a b : Opnd) : (s.pop2 a b).flights = s.flights := rfl
@[simp] theorem State.pop2_lofts (s : State) (a b : Opnd) : (s.pop2 a b).lofts = s.lofts := rfl
@[simp] theorem State.pop2_dies (s : State) (a b : Opnd) : (s.pop2 a b).dies = s.dies := rfl
@[simp] theorem State.pop2_mem (s : State) (a b : Opnd) : (s.pop2 a b).mem = s.mem := rfl
@[simp] theorem State.pop2_launches (s : State) (a b : Opnd) : (s.pop2 a b).launches = s.launches := rfl
@[simp] theorem State.pop2_nextLaunch (s : State) (a b : Opnd) : (s.pop2 a b).nextLaunch = s.nextLaunch := rfl
@[simp] theorem State.pop2_msgs (s : State) (a b : Opnd) : (s.pop2 a b).msgs = s.msgs := rfl
@[simp] theorem State.pop2_joins (s : State) (a b : Opnd) : (s.pop2 a b).joins = s.joins := rfl
@[simp] theorem State.pop2_gates (s : State) (a b : Opnd) : (s.pop2 a b).gates = s.gates := rfl
@[simp] theorem State.pop2_keys (s : State) (a b : Opnd) : (s.pop2 a b).keys = s.keys := rfl
@[simp] theorem State.pop2_keyBook (s : State) (a b : Opnd) : (s.pop2 a b).keyBook = s.keyBook := rfl
@[simp] theorem State.pop2_pageKey (s : State) (a b : Opnd) : (s.pop2 a b).pageKey = s.pageKey := rfl
@[simp] theorem State.pop2_lineKey (s : State) (a b : Opnd) : (s.pop2 a b).lineKey = s.lineKey := rfl
@[simp] theorem State.pop2_eccLines (s : State) (a b : Opnd) : (s.pop2 a b).eccLines = s.eccLines := rfl
@[simp] theorem State.pop2_pot (s : State) (a b : Opnd) : (s.pop2 a b).pot = s.pot := rfl
@[simp] theorem State.pop2_egress (s : State) (a b : Opnd) : (s.pop2 a b).egress = s.egress := rfl
@[simp] theorem State.pop2_egressBytes (s : State) (a b : Opnd) : (s.pop2 a b).egressBytes = s.egressBytes := rfl
@[simp] theorem State.pop2_perf (s : State) (a b : Opnd) : (s.pop2 a b).perf = s.perf := rfl
@[simp] theorem State.pop2_errLog (s : State) (a b : Opnd) : (s.pop2 a b).errLog = s.errLog := rfl
@[simp] theorem State.pop2_parts (s : State) (a b : Opnd) : (s.pop2 a b).parts = s.parts := rfl
@[simp] theorem State.pop2_invals (s : State) (a b : Opnd) : (s.pop2 a b).invals = s.invals := rfl
@[simp] theorem State.pop2_past (s : State) (a b : Opnd) : (s.pop2 a b).past = s.past := rfl
@[simp] theorem State.pop2_rels (s : State) (a b : Opnd) : (s.pop2 a b).rels = s.rels := rfl
@[simp] theorem State.pop2_images (s : State) (a b : Opnd) : (s.pop2 a b).images = s.images := rfl
@[simp] theorem State.pop2_host (s : State) (a b : Opnd) : (s.pop2 a b).host = s.host := rfl
@[simp] theorem State.pop2_ports (s : State) (a b : Opnd) : (s.pop2 a b).ports = s.ports := rfl
@[simp] theorem State.pop2_routes (s : State) (a b : Opnd) : (s.pop2 a b).routes = s.routes := rfl
@[simp] theorem State.pop2_remoteWaits (s : State) (a b : Opnd) : (s.pop2 a b).remoteWaits = s.remoteWaits := rfl
@[simp] theorem State.pop2_stalls (s : State) (a b : Opnd) : (s.pop2 a b).stalls = s.stalls := rfl
@[simp] theorem State.pop2_sec (s : State) (a b : Opnd) : (s.pop2 a b).sec = s.sec := rfl
@[simp] theorem State.pop2_chip (s : State) (a b : Opnd) : (s.pop2 a b).chip = s.chip := rfl
@[simp] theorem State.pop2_clock (s : State) (a b : Opnd) : (s.pop2 a b).clock = s.clock := rfl
@[simp] theorem State.pop2_cycle (s : State) (a b : Opnd) : (s.pop2 a b).cycle = s.cycle := rfl
@[simp] theorem State.pop2_seq (s : State) (a b : Opnd) : (s.pop2 a b).seq = s.seq := rfl
@[simp] theorem State.pop2_freeCount (s : State) (a b : Opnd) : (s.pop2 a b).freeCount = s.freeCount := rfl
@[simp] theorem State.pop2_agenda (s : State) (a b : Opnd) : (s.pop2 a b).agenda = s.agenda := rfl
@[simp] theorem State.pop2_inputs (s : State) (a b : Opnd) : (s.pop2 a b).inputs = s.inputs := rfl
@[simp] theorem State.pop2_rot (s : State) (a b : Opnd) : (s.pop2 a b).rot = s.rot := rfl
@[simp] theorem State.pop2_stopped (s : State) (a b : Opnd) : (s.pop2 a b).stopped = s.stopped := rfl

/-! ### vectored -/

@[simp] theorem State.vectored_cur (s : State) (l : List Opnd) : (s.vectored l).cur = s.cur := rfl
@[simp] theorem State.vectored_ctxs (s : State) (l : List Opnd) : (s.vectored l).ctxs = s.ctxs := rfl
@[simp] theorem State.vectored_cores (s : State) (l : List Opnd) : (s.vectored l).cores = s.cores := rfl
@[simp] theorem State.vectored_gcores (s : State) (l : List Opnd) : (s.vectored l).gcores = s.gcores := rfl
@[simp] theorem State.vectored_flights (s : State) (l : List Opnd) : (s.vectored l).flights = s.flights := rfl
@[simp] theorem State.vectored_lofts (s : State) (l : List Opnd) : (s.vectored l).lofts = s.lofts := rfl
@[simp] theorem State.vectored_dies (s : State) (l : List Opnd) : (s.vectored l).dies = s.dies := rfl
@[simp] theorem State.vectored_mem (s : State) (l : List Opnd) : (s.vectored l).mem = s.mem := rfl
@[simp] theorem State.vectored_launches (s : State) (l : List Opnd) : (s.vectored l).launches = s.launches := rfl
@[simp] theorem State.vectored_nextLaunch (s : State) (l : List Opnd) : (s.vectored l).nextLaunch = s.nextLaunch := rfl
@[simp] theorem State.vectored_msgs (s : State) (l : List Opnd) : (s.vectored l).msgs = s.msgs := rfl
@[simp] theorem State.vectored_joins (s : State) (l : List Opnd) : (s.vectored l).joins = s.joins := rfl
@[simp] theorem State.vectored_gates (s : State) (l : List Opnd) : (s.vectored l).gates = s.gates := rfl
@[simp] theorem State.vectored_keys (s : State) (l : List Opnd) : (s.vectored l).keys = s.keys := rfl
@[simp] theorem State.vectored_keyBook (s : State) (l : List Opnd) : (s.vectored l).keyBook = s.keyBook := rfl
@[simp] theorem State.vectored_pageKey (s : State) (l : List Opnd) : (s.vectored l).pageKey = s.pageKey := rfl
@[simp] theorem State.vectored_lineKey (s : State) (l : List Opnd) : (s.vectored l).lineKey = s.lineKey := rfl
@[simp] theorem State.vectored_eccLines (s : State) (l : List Opnd) : (s.vectored l).eccLines = s.eccLines := rfl
@[simp] theorem State.vectored_pot (s : State) (l : List Opnd) : (s.vectored l).pot = s.pot := rfl
@[simp] theorem State.vectored_egress (s : State) (l : List Opnd) : (s.vectored l).egress = s.egress := rfl
@[simp] theorem State.vectored_egressBytes (s : State) (l : List Opnd) : (s.vectored l).egressBytes = s.egressBytes := rfl
@[simp] theorem State.vectored_perf (s : State) (l : List Opnd) : (s.vectored l).perf = s.perf := rfl
@[simp] theorem State.vectored_errLog (s : State) (l : List Opnd) : (s.vectored l).errLog = s.errLog := rfl
@[simp] theorem State.vectored_parts (s : State) (l : List Opnd) : (s.vectored l).parts = s.parts := rfl
@[simp] theorem State.vectored_invals (s : State) (l : List Opnd) : (s.vectored l).invals = s.invals := rfl
@[simp] theorem State.vectored_past (s : State) (l : List Opnd) : (s.vectored l).past = s.past := rfl
@[simp] theorem State.vectored_rels (s : State) (l : List Opnd) : (s.vectored l).rels = s.rels := rfl
@[simp] theorem State.vectored_images (s : State) (l : List Opnd) : (s.vectored l).images = s.images := rfl
@[simp] theorem State.vectored_host (s : State) (l : List Opnd) : (s.vectored l).host = s.host := rfl
@[simp] theorem State.vectored_ports (s : State) (l : List Opnd) : (s.vectored l).ports = s.ports := rfl
@[simp] theorem State.vectored_routes (s : State) (l : List Opnd) : (s.vectored l).routes = s.routes := rfl
@[simp] theorem State.vectored_remoteWaits (s : State) (l : List Opnd) : (s.vectored l).remoteWaits = s.remoteWaits := rfl
@[simp] theorem State.vectored_stalls (s : State) (l : List Opnd) : (s.vectored l).stalls = s.stalls := rfl
@[simp] theorem State.vectored_sec (s : State) (l : List Opnd) : (s.vectored l).sec = s.sec := rfl
@[simp] theorem State.vectored_chip (s : State) (l : List Opnd) : (s.vectored l).chip = s.chip := rfl
@[simp] theorem State.vectored_clock (s : State) (l : List Opnd) : (s.vectored l).clock = s.clock := rfl
@[simp] theorem State.vectored_cycle (s : State) (l : List Opnd) : (s.vectored l).cycle = s.cycle := rfl
@[simp] theorem State.vectored_seq (s : State) (l : List Opnd) : (s.vectored l).seq = s.seq := rfl
@[simp] theorem State.vectored_freeCount (s : State) (l : List Opnd) : (s.vectored l).freeCount = s.freeCount := rfl
@[simp] theorem State.vectored_agenda (s : State) (l : List Opnd) : (s.vectored l).agenda = s.agenda := rfl
@[simp] theorem State.vectored_inputs (s : State) (l : List Opnd) : (s.vectored l).inputs = s.inputs := rfl
@[simp] theorem State.vectored_rot (s : State) (l : List Opnd) : (s.vectored l).rot = s.rot := rfl
@[simp] theorem State.vectored_stopped (s : State) (l : List Opnd) : (s.vectored l).stopped = s.stopped := rfl

/-! ### vectoredWith -/

@[simp] theorem State.vectoredWith_cur (s : State) (p : Option (Bool × Word)) (c : Option LoftCmd) (l : List Opnd) : (s.vectoredWith p c l).cur = s.cur := rfl
@[simp] theorem State.vectoredWith_ctxs (s : State) (p : Option (Bool × Word)) (c : Option LoftCmd) (l : List Opnd) : (s.vectoredWith p c l).ctxs = s.ctxs := rfl
@[simp] theorem State.vectoredWith_cores (s : State) (p : Option (Bool × Word)) (c : Option LoftCmd) (l : List Opnd) : (s.vectoredWith p c l).cores = s.cores := rfl
@[simp] theorem State.vectoredWith_gcores (s : State) (p : Option (Bool × Word)) (c : Option LoftCmd) (l : List Opnd) : (s.vectoredWith p c l).gcores = s.gcores := rfl
@[simp] theorem State.vectoredWith_flights (s : State) (p : Option (Bool × Word)) (c : Option LoftCmd) (l : List Opnd) : (s.vectoredWith p c l).flights = s.flights := rfl
@[simp] theorem State.vectoredWith_lofts (s : State) (p : Option (Bool × Word)) (c : Option LoftCmd) (l : List Opnd) : (s.vectoredWith p c l).lofts = s.lofts := rfl
@[simp] theorem State.vectoredWith_dies (s : State) (p : Option (Bool × Word)) (c : Option LoftCmd) (l : List Opnd) : (s.vectoredWith p c l).dies = s.dies := rfl
@[simp] theorem State.vectoredWith_mem (s : State) (p : Option (Bool × Word)) (c : Option LoftCmd) (l : List Opnd) : (s.vectoredWith p c l).mem = s.mem := rfl
@[simp] theorem State.vectoredWith_launches (s : State) (p : Option (Bool × Word)) (c : Option LoftCmd) (l : List Opnd) : (s.vectoredWith p c l).launches = s.launches := rfl
@[simp] theorem State.vectoredWith_nextLaunch (s : State) (p : Option (Bool × Word)) (c : Option LoftCmd) (l : List Opnd) : (s.vectoredWith p c l).nextLaunch = s.nextLaunch := rfl
@[simp] theorem State.vectoredWith_msgs (s : State) (p : Option (Bool × Word)) (c : Option LoftCmd) (l : List Opnd) : (s.vectoredWith p c l).msgs = s.msgs := rfl
@[simp] theorem State.vectoredWith_joins (s : State) (p : Option (Bool × Word)) (c : Option LoftCmd) (l : List Opnd) : (s.vectoredWith p c l).joins = s.joins := rfl
@[simp] theorem State.vectoredWith_gates (s : State) (p : Option (Bool × Word)) (c : Option LoftCmd) (l : List Opnd) : (s.vectoredWith p c l).gates = s.gates := rfl
@[simp] theorem State.vectoredWith_keys (s : State) (p : Option (Bool × Word)) (c : Option LoftCmd) (l : List Opnd) : (s.vectoredWith p c l).keys = s.keys := rfl
@[simp] theorem State.vectoredWith_keyBook (s : State) (p : Option (Bool × Word)) (c : Option LoftCmd) (l : List Opnd) : (s.vectoredWith p c l).keyBook = s.keyBook := rfl
@[simp] theorem State.vectoredWith_pageKey (s : State) (p : Option (Bool × Word)) (c : Option LoftCmd) (l : List Opnd) : (s.vectoredWith p c l).pageKey = s.pageKey := rfl
@[simp] theorem State.vectoredWith_lineKey (s : State) (p : Option (Bool × Word)) (c : Option LoftCmd) (l : List Opnd) : (s.vectoredWith p c l).lineKey = s.lineKey := rfl
@[simp] theorem State.vectoredWith_eccLines (s : State) (p : Option (Bool × Word)) (c : Option LoftCmd) (l : List Opnd) : (s.vectoredWith p c l).eccLines = s.eccLines := rfl
@[simp] theorem State.vectoredWith_pot (s : State) (p : Option (Bool × Word)) (c : Option LoftCmd) (l : List Opnd) : (s.vectoredWith p c l).pot = s.pot := rfl
@[simp] theorem State.vectoredWith_egress (s : State) (p : Option (Bool × Word)) (c : Option LoftCmd) (l : List Opnd) : (s.vectoredWith p c l).egress = s.egress := rfl
@[simp] theorem State.vectoredWith_egressBytes (s : State) (p : Option (Bool × Word)) (c : Option LoftCmd) (l : List Opnd) : (s.vectoredWith p c l).egressBytes = s.egressBytes := rfl
@[simp] theorem State.vectoredWith_perf (s : State) (p : Option (Bool × Word)) (c : Option LoftCmd) (l : List Opnd) : (s.vectoredWith p c l).perf = s.perf := rfl
@[simp] theorem State.vectoredWith_errLog (s : State) (p : Option (Bool × Word)) (c : Option LoftCmd) (l : List Opnd) : (s.vectoredWith p c l).errLog = s.errLog := rfl
@[simp] theorem State.vectoredWith_parts (s : State) (p : Option (Bool × Word)) (c : Option LoftCmd) (l : List Opnd) : (s.vectoredWith p c l).parts = s.parts := rfl
@[simp] theorem State.vectoredWith_invals (s : State) (p : Option (Bool × Word)) (c : Option LoftCmd) (l : List Opnd) : (s.vectoredWith p c l).invals = s.invals := rfl
@[simp] theorem State.vectoredWith_past (s : State) (p : Option (Bool × Word)) (c : Option LoftCmd) (l : List Opnd) : (s.vectoredWith p c l).past = s.past := rfl
@[simp] theorem State.vectoredWith_rels (s : State) (p : Option (Bool × Word)) (c : Option LoftCmd) (l : List Opnd) : (s.vectoredWith p c l).rels = s.rels := rfl
@[simp] theorem State.vectoredWith_images (s : State) (p : Option (Bool × Word)) (c : Option LoftCmd) (l : List Opnd) : (s.vectoredWith p c l).images = s.images := rfl
@[simp] theorem State.vectoredWith_host (s : State) (p : Option (Bool × Word)) (c : Option LoftCmd) (l : List Opnd) : (s.vectoredWith p c l).host = s.host := rfl
@[simp] theorem State.vectoredWith_ports (s : State) (p : Option (Bool × Word)) (c : Option LoftCmd) (l : List Opnd) : (s.vectoredWith p c l).ports = s.ports := rfl
@[simp] theorem State.vectoredWith_routes (s : State) (p : Option (Bool × Word)) (c : Option LoftCmd) (l : List Opnd) : (s.vectoredWith p c l).routes = s.routes := rfl
@[simp] theorem State.vectoredWith_remoteWaits (s : State) (p : Option (Bool × Word)) (c : Option LoftCmd) (l : List Opnd) : (s.vectoredWith p c l).remoteWaits = s.remoteWaits := rfl
@[simp] theorem State.vectoredWith_stalls (s : State) (p : Option (Bool × Word)) (c : Option LoftCmd) (l : List Opnd) : (s.vectoredWith p c l).stalls = s.stalls := rfl
@[simp] theorem State.vectoredWith_sec (s : State) (p : Option (Bool × Word)) (c : Option LoftCmd) (l : List Opnd) : (s.vectoredWith p c l).sec = s.sec := rfl
@[simp] theorem State.vectoredWith_chip (s : State) (p : Option (Bool × Word)) (c : Option LoftCmd) (l : List Opnd) : (s.vectoredWith p c l).chip = s.chip := rfl
@[simp] theorem State.vectoredWith_clock (s : State) (p : Option (Bool × Word)) (c : Option LoftCmd) (l : List Opnd) : (s.vectoredWith p c l).clock = s.clock := rfl
@[simp] theorem State.vectoredWith_cycle (s : State) (p : Option (Bool × Word)) (c : Option LoftCmd) (l : List Opnd) : (s.vectoredWith p c l).cycle = s.cycle := rfl
@[simp] theorem State.vectoredWith_seq (s : State) (p : Option (Bool × Word)) (c : Option LoftCmd) (l : List Opnd) : (s.vectoredWith p c l).seq = s.seq := rfl
@[simp] theorem State.vectoredWith_freeCount (s : State) (p : Option (Bool × Word)) (c : Option LoftCmd) (l : List Opnd) : (s.vectoredWith p c l).freeCount = s.freeCount := rfl
@[simp] theorem State.vectoredWith_agenda (s : State) (p : Option (Bool × Word)) (c : Option LoftCmd) (l : List Opnd) : (s.vectoredWith p c l).agenda = s.agenda := rfl
@[simp] theorem State.vectoredWith_inputs (s : State) (p : Option (Bool × Word)) (c : Option LoftCmd) (l : List Opnd) : (s.vectoredWith p c l).inputs = s.inputs := rfl
@[simp] theorem State.vectoredWith_rot (s : State) (p : Option (Bool × Word)) (c : Option LoftCmd) (l : List Opnd) : (s.vectoredWith p c l).rot = s.rot := rfl
@[simp] theorem State.vectoredWith_stopped (s : State) (p : Option (Bool × Word)) (c : Option LoftCmd) (l : List Opnd) : (s.vectoredWith p c l).stopped = s.stopped := rfl

/-! ### stamp -/

@[simp] theorem State.stamp_me (s : State)  : (s.stamp ).me = s.me := rfl
@[simp] theorem State.stamp_cur (s : State)  : (s.stamp ).cur = s.cur := rfl
@[simp] theorem State.stamp_ctxs (s : State)  : (s.stamp ).ctxs = s.ctxs := rfl
@[simp] theorem State.stamp_cores (s : State)  : (s.stamp ).cores = s.cores := rfl
@[simp] theorem State.stamp_gcores (s : State)  : (s.stamp ).gcores = s.gcores := rfl
@[simp] theorem State.stamp_flights (s : State)  : (s.stamp ).flights = s.flights := rfl
@[simp] theorem State.stamp_lofts (s : State)  : (s.stamp ).lofts = s.lofts := rfl
@[simp] theorem State.stamp_dies (s : State)  : (s.stamp ).dies = s.dies := rfl
@[simp] theorem State.stamp_mem (s : State)  : (s.stamp ).mem = s.mem := rfl
@[simp] theorem State.stamp_launches (s : State)  : (s.stamp ).launches = s.launches := rfl
@[simp] theorem State.stamp_nextLaunch (s : State)  : (s.stamp ).nextLaunch = s.nextLaunch := rfl
@[simp] theorem State.stamp_msgs (s : State)  : (s.stamp ).msgs = s.msgs := rfl
@[simp] theorem State.stamp_joins (s : State)  : (s.stamp ).joins = s.joins := rfl
@[simp] theorem State.stamp_gates (s : State)  : (s.stamp ).gates = s.gates := rfl
@[simp] theorem State.stamp_keys (s : State)  : (s.stamp ).keys = s.keys := rfl
@[simp] theorem State.stamp_keyBook (s : State)  : (s.stamp ).keyBook = s.keyBook := rfl
@[simp] theorem State.stamp_pageKey (s : State)  : (s.stamp ).pageKey = s.pageKey := rfl
@[simp] theorem State.stamp_lineKey (s : State)  : (s.stamp ).lineKey = s.lineKey := rfl
@[simp] theorem State.stamp_eccLines (s : State)  : (s.stamp ).eccLines = s.eccLines := rfl
@[simp] theorem State.stamp_pot (s : State)  : (s.stamp ).pot = s.pot := rfl
@[simp] theorem State.stamp_egress (s : State)  : (s.stamp ).egress = s.egress := rfl
@[simp] theorem State.stamp_egressBytes (s : State)  : (s.stamp ).egressBytes = s.egressBytes := rfl
@[simp] theorem State.stamp_perf (s : State)  : (s.stamp ).perf = s.perf := rfl
@[simp] theorem State.stamp_errLog (s : State)  : (s.stamp ).errLog = s.errLog := rfl
@[simp] theorem State.stamp_parts (s : State)  : (s.stamp ).parts = s.parts := rfl
@[simp] theorem State.stamp_invals (s : State)  : (s.stamp ).invals = s.invals := rfl
@[simp] theorem State.stamp_past (s : State)  : (s.stamp ).past = s.past := rfl
@[simp] theorem State.stamp_rels (s : State)  : (s.stamp ).rels = s.rels := rfl
@[simp] theorem State.stamp_images (s : State)  : (s.stamp ).images = s.images := rfl
@[simp] theorem State.stamp_host (s : State)  : (s.stamp ).host = s.host := rfl
@[simp] theorem State.stamp_ports (s : State)  : (s.stamp ).ports = s.ports := rfl
@[simp] theorem State.stamp_routes (s : State)  : (s.stamp ).routes = s.routes := rfl
@[simp] theorem State.stamp_remoteWaits (s : State)  : (s.stamp ).remoteWaits = s.remoteWaits := rfl
@[simp] theorem State.stamp_stalls (s : State)  : (s.stamp ).stalls = s.stalls := rfl
@[simp] theorem State.stamp_sec (s : State)  : (s.stamp ).sec = s.sec := rfl
@[simp] theorem State.stamp_chip (s : State)  : (s.stamp ).chip = s.chip := rfl
@[simp] theorem State.stamp_clock (s : State)  : (s.stamp ).clock = s.clock := rfl
@[simp] theorem State.stamp_cycle (s : State)  : (s.stamp ).cycle = s.cycle := rfl
@[simp] theorem State.stamp_seq (s : State)  : (s.stamp ).seq = s.seq + 1 := rfl
@[simp] theorem State.stamp_freeCount (s : State)  : (s.stamp ).freeCount = s.freeCount := rfl
@[simp] theorem State.stamp_agenda (s : State)  : (s.stamp ).agenda = s.agenda := rfl
@[simp] theorem State.stamp_inputs (s : State)  : (s.stamp ).inputs = s.inputs := rfl
@[simp] theorem State.stamp_rot (s : State)  : (s.stamp ).rot = s.rot := rfl
@[simp] theorem State.stamp_stopped (s : State)  : (s.stamp ).stopped = s.stopped := rfl

/-! ### waiting -/

@[simp] theorem State.waiting_cur (s : State) (w : Wait) : (s.waiting w).cur = s.cur := rfl
@[simp] theorem State.waiting_ctxs (s : State) (w : Wait) : (s.waiting w).ctxs = s.ctxs := rfl
@[simp] theorem State.waiting_cores (s : State) (w : Wait) : (s.waiting w).cores = s.cores := rfl
@[simp] theorem State.waiting_gcores (s : State) (w : Wait) : (s.waiting w).gcores = s.gcores := rfl
@[simp] theorem State.waiting_flights (s : State) (w : Wait) : (s.waiting w).flights = s.flights := rfl
@[simp] theorem State.waiting_lofts (s : State) (w : Wait) : (s.waiting w).lofts = s.lofts := rfl
@[simp] theorem State.waiting_dies (s : State) (w : Wait) : (s.waiting w).dies = s.dies := rfl
@[simp] theorem State.waiting_mem (s : State) (w : Wait) : (s.waiting w).mem = s.mem := rfl
@[simp] theorem State.waiting_launches (s : State) (w : Wait) : (s.waiting w).launches = s.launches := rfl
@[simp] theorem State.waiting_nextLaunch (s : State) (w : Wait) : (s.waiting w).nextLaunch = s.nextLaunch := rfl
@[simp] theorem State.waiting_msgs (s : State) (w : Wait) : (s.waiting w).msgs = s.msgs := rfl
@[simp] theorem State.waiting_joins (s : State) (w : Wait) : (s.waiting w).joins = s.joins := rfl
@[simp] theorem State.waiting_gates (s : State) (w : Wait) : (s.waiting w).gates = s.gates := rfl
@[simp] theorem State.waiting_keys (s : State) (w : Wait) : (s.waiting w).keys = s.keys := rfl
@[simp] theorem State.waiting_keyBook (s : State) (w : Wait) : (s.waiting w).keyBook = s.keyBook := rfl
@[simp] theorem State.waiting_pageKey (s : State) (w : Wait) : (s.waiting w).pageKey = s.pageKey := rfl
@[simp] theorem State.waiting_lineKey (s : State) (w : Wait) : (s.waiting w).lineKey = s.lineKey := rfl
@[simp] theorem State.waiting_eccLines (s : State) (w : Wait) : (s.waiting w).eccLines = s.eccLines := rfl
@[simp] theorem State.waiting_pot (s : State) (w : Wait) : (s.waiting w).pot = s.pot := rfl
@[simp] theorem State.waiting_egress (s : State) (w : Wait) : (s.waiting w).egress = s.egress := rfl
@[simp] theorem State.waiting_egressBytes (s : State) (w : Wait) : (s.waiting w).egressBytes = s.egressBytes := rfl
@[simp] theorem State.waiting_perf (s : State) (w : Wait) : (s.waiting w).perf = s.perf := rfl
@[simp] theorem State.waiting_errLog (s : State) (w : Wait) : (s.waiting w).errLog = s.errLog := rfl
@[simp] theorem State.waiting_parts (s : State) (w : Wait) : (s.waiting w).parts = s.parts := rfl
@[simp] theorem State.waiting_invals (s : State) (w : Wait) : (s.waiting w).invals = s.invals := rfl
@[simp] theorem State.waiting_past (s : State) (w : Wait) : (s.waiting w).past = s.past := rfl
@[simp] theorem State.waiting_rels (s : State) (w : Wait) : (s.waiting w).rels = s.rels := rfl
@[simp] theorem State.waiting_images (s : State) (w : Wait) : (s.waiting w).images = s.images := rfl
@[simp] theorem State.waiting_host (s : State) (w : Wait) : (s.waiting w).host = s.host := rfl
@[simp] theorem State.waiting_ports (s : State) (w : Wait) : (s.waiting w).ports = s.ports := rfl
@[simp] theorem State.waiting_routes (s : State) (w : Wait) : (s.waiting w).routes = s.routes := rfl
@[simp] theorem State.waiting_remoteWaits (s : State) (w : Wait) : (s.waiting w).remoteWaits = s.remoteWaits := rfl
@[simp] theorem State.waiting_stalls (s : State) (w : Wait) : (s.waiting w).stalls = s.stalls := rfl
@[simp] theorem State.waiting_sec (s : State) (w : Wait) : (s.waiting w).sec = s.sec := rfl
@[simp] theorem State.waiting_chip (s : State) (w : Wait) : (s.waiting w).chip = s.chip := rfl
@[simp] theorem State.waiting_clock (s : State) (w : Wait) : (s.waiting w).clock = s.clock := rfl
@[simp] theorem State.waiting_cycle (s : State) (w : Wait) : (s.waiting w).cycle = s.cycle := rfl
@[simp] theorem State.waiting_seq (s : State) (w : Wait) : (s.waiting w).seq = s.seq := rfl
@[simp] theorem State.waiting_freeCount (s : State) (w : Wait) : (s.waiting w).freeCount = s.freeCount := rfl
@[simp] theorem State.waiting_agenda (s : State) (w : Wait) : (s.waiting w).agenda = s.agenda := rfl
@[simp] theorem State.waiting_inputs (s : State) (w : Wait) : (s.waiting w).inputs = s.inputs := rfl
@[simp] theorem State.waiting_rot (s : State) (w : Wait) : (s.waiting w).rot = s.rot := rfl
@[simp] theorem State.waiting_stopped (s : State) (w : Wait) : (s.waiting w).stopped = s.stopped := rfl

/-! ### rounded -/

@[simp] theorem State.rounded_cur (s : State) (a : Acc) : (s.rounded a).cur = s.cur := rfl
@[simp] theorem State.rounded_ctxs (s : State) (a : Acc) : (s.rounded a).ctxs = s.ctxs := rfl
@[simp] theorem State.rounded_cores (s : State) (a : Acc) : (s.rounded a).cores = s.cores := rfl
@[simp] theorem State.rounded_gcores (s : State) (a : Acc) : (s.rounded a).gcores = s.gcores := rfl
@[simp] theorem State.rounded_flights (s : State) (a : Acc) : (s.rounded a).flights = s.flights := rfl
@[simp] theorem State.rounded_lofts (s : State) (a : Acc) : (s.rounded a).lofts = s.lofts := rfl
@[simp] theorem State.rounded_dies (s : State) (a : Acc) : (s.rounded a).dies = s.dies := rfl
@[simp] theorem State.rounded_mem (s : State) (a : Acc) : (s.rounded a).mem = s.mem := rfl
@[simp] theorem State.rounded_launches (s : State) (a : Acc) : (s.rounded a).launches = s.launches := rfl
@[simp] theorem State.rounded_nextLaunch (s : State) (a : Acc) : (s.rounded a).nextLaunch = s.nextLaunch := rfl
@[simp] theorem State.rounded_msgs (s : State) (a : Acc) : (s.rounded a).msgs = s.msgs := rfl
@[simp] theorem State.rounded_joins (s : State) (a : Acc) : (s.rounded a).joins = s.joins := rfl
@[simp] theorem State.rounded_gates (s : State) (a : Acc) : (s.rounded a).gates = s.gates := rfl
@[simp] theorem State.rounded_keys (s : State) (a : Acc) : (s.rounded a).keys = s.keys := rfl
@[simp] theorem State.rounded_keyBook (s : State) (a : Acc) : (s.rounded a).keyBook = s.keyBook := rfl
@[simp] theorem State.rounded_pageKey (s : State) (a : Acc) : (s.rounded a).pageKey = s.pageKey := rfl
@[simp] theorem State.rounded_lineKey (s : State) (a : Acc) : (s.rounded a).lineKey = s.lineKey := rfl
@[simp] theorem State.rounded_eccLines (s : State) (a : Acc) : (s.rounded a).eccLines = s.eccLines := rfl
@[simp] theorem State.rounded_pot (s : State) (a : Acc) : (s.rounded a).pot = s.pot := rfl
@[simp] theorem State.rounded_egress (s : State) (a : Acc) : (s.rounded a).egress = s.egress := rfl
@[simp] theorem State.rounded_egressBytes (s : State) (a : Acc) : (s.rounded a).egressBytes = s.egressBytes := rfl
@[simp] theorem State.rounded_perf (s : State) (a : Acc) : (s.rounded a).perf = s.perf := rfl
@[simp] theorem State.rounded_errLog (s : State) (a : Acc) : (s.rounded a).errLog = s.errLog := rfl
@[simp] theorem State.rounded_parts (s : State) (a : Acc) : (s.rounded a).parts = s.parts := rfl
@[simp] theorem State.rounded_invals (s : State) (a : Acc) : (s.rounded a).invals = s.invals := rfl
@[simp] theorem State.rounded_past (s : State) (a : Acc) : (s.rounded a).past = s.past := rfl
@[simp] theorem State.rounded_rels (s : State) (a : Acc) : (s.rounded a).rels = s.rels := rfl
@[simp] theorem State.rounded_images (s : State) (a : Acc) : (s.rounded a).images = s.images := rfl
@[simp] theorem State.rounded_host (s : State) (a : Acc) : (s.rounded a).host = s.host := rfl
@[simp] theorem State.rounded_ports (s : State) (a : Acc) : (s.rounded a).ports = s.ports := rfl
@[simp] theorem State.rounded_routes (s : State) (a : Acc) : (s.rounded a).routes = s.routes := rfl
@[simp] theorem State.rounded_remoteWaits (s : State) (a : Acc) : (s.rounded a).remoteWaits = s.remoteWaits := rfl
@[simp] theorem State.rounded_stalls (s : State) (a : Acc) : (s.rounded a).stalls = s.stalls := rfl
@[simp] theorem State.rounded_sec (s : State) (a : Acc) : (s.rounded a).sec = s.sec := rfl
@[simp] theorem State.rounded_chip (s : State) (a : Acc) : (s.rounded a).chip = s.chip := rfl
@[simp] theorem State.rounded_clock (s : State) (a : Acc) : (s.rounded a).clock = s.clock := rfl
@[simp] theorem State.rounded_cycle (s : State) (a : Acc) : (s.rounded a).cycle = s.cycle := rfl
@[simp] theorem State.rounded_seq (s : State) (a : Acc) : (s.rounded a).seq = s.seq := rfl
@[simp] theorem State.rounded_freeCount (s : State) (a : Acc) : (s.rounded a).freeCount = s.freeCount := rfl
@[simp] theorem State.rounded_agenda (s : State) (a : Acc) : (s.rounded a).agenda = s.agenda := rfl
@[simp] theorem State.rounded_inputs (s : State) (a : Acc) : (s.rounded a).inputs = s.inputs := rfl
@[simp] theorem State.rounded_rot (s : State) (a : Acc) : (s.rounded a).rot = s.rot := rfl
@[simp] theorem State.rounded_stopped (s : State) (a : Acc) : (s.rounded a).stopped = s.stopped := rfl

/-! ### The issuing context -/

@[simp] theorem State.onCsr_me_st (s : State) (f : Csr → Csr) : (s.onCsr f).me.st = s.me.st := rfl
@[simp] theorem State.onCsr_me_pc (s : State) (f : Csr → Csr) : (s.onCsr f).me.pc = s.me.pc := rfl
@[simp] theorem State.onCsr_me_r (s : State) (f : Csr → Csr) : (s.onCsr f).me.r = s.me.r := rfl
@[simp] theorem State.onCsr_me_fmt (s : State) (f : Csr → Csr) : (s.onCsr f).me.fmt = s.me.fmt := rfl
@[simp] theorem State.onCsr_me_rep (s : State) (f : Csr → Csr) : (s.onCsr f).me.rep = s.me.rep := rfl
@[simp] theorem State.onCsr_me_vs (s : State) (f : Csr → Csr) : (s.onCsr f).me.vs = s.me.vs := rfl
@[simp] theorem State.onCsr_me_t (s : State) (f : Csr → Csr) : (s.onCsr f).me.t = s.me.t := rfl
@[simp] theorem State.onCsr_me_wake (s : State) (f : Csr → Csr) : (s.onCsr f).me.wake = s.me.wake := rfl
@[simp] theorem State.onCsr_me_last (s : State) (f : Csr → Csr) : (s.onCsr f).me.last = s.me.last := rfl
@[simp] theorem State.onCsr_me_frames (s : State) (f : Csr → Csr) : (s.onCsr f).me.frames = s.me.frames := rfl
@[simp] theorem State.onCsr_me_unwind (s : State) (f : Csr → Csr) : (s.onCsr f).me.unwind = s.me.unwind := rfl
@[simp] theorem State.onCsr_me_zeroing (s : State) (f : Csr → Csr) : (s.onCsr f).me.zeroing = s.me.zeroing := rfl
@[simp] theorem State.onCsr_me_kill (s : State) (f : Csr → Csr) : (s.onCsr f).me.kill = s.me.kill := rfl
@[simp] theorem State.onCsr_me_resume (s : State) (f : Csr → Csr) : (s.onCsr f).me.resume = s.me.resume := rfl
@[simp] theorem State.onCsr_me_trapNo (s : State) (f : Csr → Csr) : (s.onCsr f).me.trapNo = s.me.trapNo := rfl
@[simp] theorem State.onCsr_me_imp (s : State) (f : Csr → Csr) : (s.onCsr f).me.imp = s.me.imp := rfl
@[simp] theorem State.onCsr_me_wokeBy (s : State) (f : Csr → Csr) : (s.onCsr f).me.wokeBy = s.me.wokeBy := rfl
@[simp] theorem State.onCsr_me_since (s : State) (f : Csr → Csr) : (s.onCsr f).me.since = s.me.since := rfl
@[simp] theorem State.onRegs_me_st (s : State) (f : Regs → Regs) : (s.onRegs f).me.st = s.me.st := rfl
@[simp] theorem State.onRegs_me_pc (s : State) (f : Regs → Regs) : (s.onRegs f).me.pc = s.me.pc := rfl
@[simp] theorem State.onRegs_me_c (s : State) (f : Regs → Regs) : (s.onRegs f).me.c = s.me.c := rfl
@[simp] theorem State.onRegs_me_fmt (s : State) (f : Regs → Regs) : (s.onRegs f).me.fmt = s.me.fmt := rfl
@[simp] theorem State.onRegs_me_rep (s : State) (f : Regs → Regs) : (s.onRegs f).me.rep = s.me.rep := rfl
@[simp] theorem State.onRegs_me_vs (s : State) (f : Regs → Regs) : (s.onRegs f).me.vs = s.me.vs := rfl
@[simp] theorem State.onRegs_me_t (s : State) (f : Regs → Regs) : (s.onRegs f).me.t = s.me.t := rfl
@[simp] theorem State.onRegs_me_wake (s : State) (f : Regs → Regs) : (s.onRegs f).me.wake = s.me.wake := rfl
@[simp] theorem State.onRegs_me_last (s : State) (f : Regs → Regs) : (s.onRegs f).me.last = s.me.last := rfl
@[simp] theorem State.onRegs_me_frames (s : State) (f : Regs → Regs) : (s.onRegs f).me.frames = s.me.frames := rfl
@[simp] theorem State.onRegs_me_unwind (s : State) (f : Regs → Regs) : (s.onRegs f).me.unwind = s.me.unwind := rfl
@[simp] theorem State.onRegs_me_zeroing (s : State) (f : Regs → Regs) : (s.onRegs f).me.zeroing = s.me.zeroing := rfl
@[simp] theorem State.onRegs_me_kill (s : State) (f : Regs → Regs) : (s.onRegs f).me.kill = s.me.kill := rfl
@[simp] theorem State.onRegs_me_resume (s : State) (f : Regs → Regs) : (s.onRegs f).me.resume = s.me.resume := rfl
@[simp] theorem State.onRegs_me_trapNo (s : State) (f : Regs → Regs) : (s.onRegs f).me.trapNo = s.me.trapNo := rfl
@[simp] theorem State.onRegs_me_imp (s : State) (f : Regs → Regs) : (s.onRegs f).me.imp = s.me.imp := rfl
@[simp] theorem State.onRegs_me_wokeBy (s : State) (f : Regs → Regs) : (s.onRegs f).me.wokeBy = s.me.wokeBy := rfl
@[simp] theorem State.onRegs_me_since (s : State) (f : Regs → Regs) : (s.onRegs f).me.since = s.me.since := rfl
@[simp] theorem State.onTask_me_st (s : State) (f : Task → Task) : (s.onTask f).me.st = s.me.st := rfl
@[simp] theorem State.onTask_me_pc (s : State) (f : Task → Task) : (s.onTask f).me.pc = s.me.pc := rfl
@[simp] theorem State.onTask_me_r (s : State) (f : Task → Task) : (s.onTask f).me.r = s.me.r := rfl
@[simp] theorem State.onTask_me_c (s : State) (f : Task → Task) : (s.onTask f).me.c = s.me.c := rfl
@[simp] theorem State.onTask_me_fmt (s : State) (f : Task → Task) : (s.onTask f).me.fmt = s.me.fmt := rfl
@[simp] theorem State.onTask_me_rep (s : State) (f : Task → Task) : (s.onTask f).me.rep = s.me.rep := rfl
@[simp] theorem State.onTask_me_vs (s : State) (f : Task → Task) : (s.onTask f).me.vs = s.me.vs := rfl
@[simp] theorem State.onTask_me_wake (s : State) (f : Task → Task) : (s.onTask f).me.wake = s.me.wake := rfl
@[simp] theorem State.onTask_me_last (s : State) (f : Task → Task) : (s.onTask f).me.last = s.me.last := rfl
@[simp] theorem State.onTask_me_frames (s : State) (f : Task → Task) : (s.onTask f).me.frames = s.me.frames := rfl
@[simp] theorem State.onTask_me_unwind (s : State) (f : Task → Task) : (s.onTask f).me.unwind = s.me.unwind := rfl
@[simp] theorem State.onTask_me_zeroing (s : State) (f : Task → Task) : (s.onTask f).me.zeroing = s.me.zeroing := rfl
@[simp] theorem State.onTask_me_kill (s : State) (f : Task → Task) : (s.onTask f).me.kill = s.me.kill := rfl
@[simp] theorem State.onTask_me_resume (s : State) (f : Task → Task) : (s.onTask f).me.resume = s.me.resume := rfl
@[simp] theorem State.onTask_me_trapNo (s : State) (f : Task → Task) : (s.onTask f).me.trapNo = s.me.trapNo := rfl
@[simp] theorem State.onTask_me_imp (s : State) (f : Task → Task) : (s.onTask f).me.imp = s.me.imp := rfl
@[simp] theorem State.onTask_me_wokeBy (s : State) (f : Task → Task) : (s.onTask f).me.wokeBy = s.me.wokeBy := rfl
@[simp] theorem State.onTask_me_since (s : State) (f : Task → Task) : (s.onTask f).me.since = s.me.since := rfl
@[simp] theorem State.flow_me_st (s : State) (r : Regs) (l : List Behind) : (s.flow r l).me.st = s.me.st := rfl
@[simp] theorem State.flow_me_pc (s : State) (r : Regs) (l : List Behind) : (s.flow r l).me.pc = s.me.pc := rfl
@[simp] theorem State.flow_me_c (s : State) (r : Regs) (l : List Behind) : (s.flow r l).me.c = s.me.c := rfl
@[simp] theorem State.flow_me_fmt (s : State) (r : Regs) (l : List Behind) : (s.flow r l).me.fmt = s.me.fmt := rfl
@[simp] theorem State.flow_me_rep (s : State) (r : Regs) (l : List Behind) : (s.flow r l).me.rep = s.me.rep := rfl
@[simp] theorem State.flow_me_t (s : State) (r : Regs) (l : List Behind) : (s.flow r l).me.t = s.me.t := rfl
@[simp] theorem State.flow_me_wake (s : State) (r : Regs) (l : List Behind) : (s.flow r l).me.wake = s.me.wake := rfl
@[simp] theorem State.flow_me_last (s : State) (r : Regs) (l : List Behind) : (s.flow r l).me.last = s.me.last := rfl
@[simp] theorem State.flow_me_frames (s : State) (r : Regs) (l : List Behind) : (s.flow r l).me.frames = s.me.frames := rfl
@[simp] theorem State.flow_me_unwind (s : State) (r : Regs) (l : List Behind) : (s.flow r l).me.unwind = s.me.unwind := rfl
@[simp] theorem State.flow_me_zeroing (s : State) (r : Regs) (l : List Behind) : (s.flow r l).me.zeroing = s.me.zeroing := rfl
@[simp] theorem State.flow_me_kill (s : State) (r : Regs) (l : List Behind) : (s.flow r l).me.kill = s.me.kill := rfl
@[simp] theorem State.flow_me_resume (s : State) (r : Regs) (l : List Behind) : (s.flow r l).me.resume = s.me.resume := rfl
@[simp] theorem State.flow_me_trapNo (s : State) (r : Regs) (l : List Behind) : (s.flow r l).me.trapNo = s.me.trapNo := rfl
@[simp] theorem State.flow_me_imp (s : State) (r : Regs) (l : List Behind) : (s.flow r l).me.imp = s.me.imp := rfl
@[simp] theorem State.flow_me_wokeBy (s : State) (r : Regs) (l : List Behind) : (s.flow r l).me.wokeBy = s.me.wokeBy := rfl
@[simp] theorem State.flow_me_since (s : State) (r : Regs) (l : List Behind) : (s.flow r l).me.since = s.me.since := rfl
@[simp] theorem State.result_me_st (s : State) (d : Opnd) (x : Word) : (s.result d x).me.st = s.me.st := rfl
@[simp] theorem State.result_me_pc (s : State) (d : Opnd) (x : Word) : (s.result d x).me.pc = s.me.pc := rfl
@[simp] theorem State.result_me_c (s : State) (d : Opnd) (x : Word) : (s.result d x).me.c = s.me.c := rfl
@[simp] theorem State.result_me_fmt (s : State) (d : Opnd) (x : Word) : (s.result d x).me.fmt = s.me.fmt := rfl
@[simp] theorem State.result_me_rep (s : State) (d : Opnd) (x : Word) : (s.result d x).me.rep = s.me.rep := rfl
@[simp] theorem State.result_me_vs (s : State) (d : Opnd) (x : Word) : (s.result d x).me.vs = s.me.vs := rfl
@[simp] theorem State.result_me_t (s : State) (d : Opnd) (x : Word) : (s.result d x).me.t = s.me.t := rfl
@[simp] theorem State.result_me_wake (s : State) (d : Opnd) (x : Word) : (s.result d x).me.wake = s.me.wake := rfl
@[simp] theorem State.result_me_last (s : State) (d : Opnd) (x : Word) : (s.result d x).me.last = s.me.last := rfl
@[simp] theorem State.result_me_frames (s : State) (d : Opnd) (x : Word) : (s.result d x).me.frames = s.me.frames := rfl
@[simp] theorem State.result_me_unwind (s : State) (d : Opnd) (x : Word) : (s.result d x).me.unwind = s.me.unwind := rfl
@[simp] theorem State.result_me_zeroing (s : State) (d : Opnd) (x : Word) : (s.result d x).me.zeroing = s.me.zeroing := rfl
@[simp] theorem State.result_me_kill (s : State) (d : Opnd) (x : Word) : (s.result d x).me.kill = s.me.kill := rfl
@[simp] theorem State.result_me_resume (s : State) (d : Opnd) (x : Word) : (s.result d x).me.resume = s.me.resume := rfl
@[simp] theorem State.result_me_trapNo (s : State) (d : Opnd) (x : Word) : (s.result d x).me.trapNo = s.me.trapNo := rfl
@[simp] theorem State.result_me_imp (s : State) (d : Opnd) (x : Word) : (s.result d x).me.imp = s.me.imp := rfl
@[simp] theorem State.result_me_wokeBy (s : State) (d : Opnd) (x : Word) : (s.result d x).me.wokeBy = s.me.wokeBy := rfl
@[simp] theorem State.result_me_since (s : State) (d : Opnd) (x : Word) : (s.result d x).me.since = s.me.since := rfl
@[simp] theorem State.resultW_me_st (s : State) (d : WReg) (x : Word) : (s.resultW d x).me.st = s.me.st := rfl
@[simp] theorem State.resultW_me_pc (s : State) (d : WReg) (x : Word) : (s.resultW d x).me.pc = s.me.pc := rfl
@[simp] theorem State.resultW_me_c (s : State) (d : WReg) (x : Word) : (s.resultW d x).me.c = s.me.c := rfl
@[simp] theorem State.resultW_me_fmt (s : State) (d : WReg) (x : Word) : (s.resultW d x).me.fmt = s.me.fmt := rfl
@[simp] theorem State.resultW_me_rep (s : State) (d : WReg) (x : Word) : (s.resultW d x).me.rep = s.me.rep := rfl
@[simp] theorem State.resultW_me_vs (s : State) (d : WReg) (x : Word) : (s.resultW d x).me.vs = s.me.vs := rfl
@[simp] theorem State.resultW_me_t (s : State) (d : WReg) (x : Word) : (s.resultW d x).me.t = s.me.t := rfl
@[simp] theorem State.resultW_me_wake (s : State) (d : WReg) (x : Word) : (s.resultW d x).me.wake = s.me.wake := rfl
@[simp] theorem State.resultW_me_last (s : State) (d : WReg) (x : Word) : (s.resultW d x).me.last = s.me.last := rfl
@[simp] theorem State.resultW_me_frames (s : State) (d : WReg) (x : Word) : (s.resultW d x).me.frames = s.me.frames := rfl
@[simp] theorem State.resultW_me_unwind (s : State) (d : WReg) (x : Word) : (s.resultW d x).me.unwind = s.me.unwind := rfl
@[simp] theorem State.resultW_me_zeroing (s : State) (d : WReg) (x : Word) : (s.resultW d x).me.zeroing = s.me.zeroing := rfl
@[simp] theorem State.resultW_me_kill (s : State) (d : WReg) (x : Word) : (s.resultW d x).me.kill = s.me.kill := rfl
@[simp] theorem State.resultW_me_resume (s : State) (d : WReg) (x : Word) : (s.resultW d x).me.resume = s.me.resume := rfl
@[simp] theorem State.resultW_me_trapNo (s : State) (d : WReg) (x : Word) : (s.resultW d x).me.trapNo = s.me.trapNo := rfl
@[simp] theorem State.resultW_me_imp (s : State) (d : WReg) (x : Word) : (s.resultW d x).me.imp = s.me.imp := rfl
@[simp] theorem State.resultW_me_wokeBy (s : State) (d : WReg) (x : Word) : (s.resultW d x).me.wokeBy = s.me.wokeBy := rfl
@[simp] theorem State.resultW_me_since (s : State) (d : WReg) (x : Word) : (s.resultW d x).me.since = s.me.since := rfl
@[simp] theorem State.pop_me_st (s : State) (a : Opnd) : (s.pop a).me.st = s.me.st := rfl
@[simp] theorem State.pop_me_pc (s : State) (a : Opnd) : (s.pop a).me.pc = s.me.pc := rfl
@[simp] theorem State.pop_me_c (s : State) (a : Opnd) : (s.pop a).me.c = s.me.c := rfl
@[simp] theorem State.pop_me_fmt (s : State) (a : Opnd) : (s.pop a).me.fmt = s.me.fmt := rfl
@[simp] theorem State.pop_me_rep (s : State) (a : Opnd) : (s.pop a).me.rep = s.me.rep := rfl
@[simp] theorem State.pop_me_t (s : State) (a : Opnd) : (s.pop a).me.t = s.me.t := rfl
@[simp] theorem State.pop_me_wake (s : State) (a : Opnd) : (s.pop a).me.wake = s.me.wake := rfl
@[simp] theorem State.pop_me_last (s : State) (a : Opnd) : (s.pop a).me.last = s.me.last := rfl
@[simp] theorem State.pop_me_frames (s : State) (a : Opnd) : (s.pop a).me.frames = s.me.frames := rfl
@[simp] theorem State.pop_me_unwind (s : State) (a : Opnd) : (s.pop a).me.unwind = s.me.unwind := rfl
@[simp] theorem State.pop_me_zeroing (s : State) (a : Opnd) : (s.pop a).me.zeroing = s.me.zeroing := rfl
@[simp] theorem State.pop_me_kill (s : State) (a : Opnd) : (s.pop a).me.kill = s.me.kill := rfl
@[simp] theorem State.pop_me_resume (s : State) (a : Opnd) : (s.pop a).me.resume = s.me.resume := rfl
@[simp] theorem State.pop_me_trapNo (s : State) (a : Opnd) : (s.pop a).me.trapNo = s.me.trapNo := rfl
@[simp] theorem State.pop_me_imp (s : State) (a : Opnd) : (s.pop a).me.imp = s.me.imp := rfl
@[simp] theorem State.pop_me_wokeBy (s : State) (a : Opnd) : (s.pop a).me.wokeBy = s.me.wokeBy := rfl
@[simp] theorem State.pop_me_since (s : State) (a : Opnd) : (s.pop a).me.since = s.me.since := rfl
@[simp] theorem State.pop2_me_st (s : State) (a b : Opnd) : (s.pop2 a b).me.st = s.me.st := rfl
@[simp] theorem State.pop2_me_pc (s : State) (a b : Opnd) : (s.pop2 a b).me.pc = s.me.pc := rfl
@[simp] theorem State.pop2_me_c (s : State) (a b : Opnd) : (s.pop2 a b).me.c = s.me.c := rfl
@[simp] theorem State.pop2_me_fmt (s : State) (a b : Opnd) : (s.pop2 a b).me.fmt = s.me.fmt := rfl
@[simp] theorem State.pop2_me_rep (s : State) (a b : Opnd) : (s.pop2 a b).me.rep = s.me.rep := rfl
@[simp] theorem State.pop2_me_t (s : State) (a b : Opnd) : (s.pop2 a b).me.t = s.me.t := rfl
@[simp] theorem State.pop2_me_wake (s : State) (a b : Opnd) : (s.pop2 a b).me.wake = s.me.wake := rfl
@[simp] theorem State.pop2_me_last (s : State) (a b : Opnd) : (s.pop2 a b).me.last = s.me.last := rfl
@[simp] theorem State.pop2_me_frames (s : State) (a b : Opnd) : (s.pop2 a b).me.frames = s.me.frames := rfl
@[simp] theorem State.pop2_me_unwind (s : State) (a b : Opnd) : (s.pop2 a b).me.unwind = s.me.unwind := rfl
@[simp] theorem State.pop2_me_zeroing (s : State) (a b : Opnd) : (s.pop2 a b).me.zeroing = s.me.zeroing := rfl
@[simp] theorem State.pop2_me_kill (s : State) (a b : Opnd) : (s.pop2 a b).me.kill = s.me.kill := rfl
@[simp] theorem State.pop2_me_resume (s : State) (a b : Opnd) : (s.pop2 a b).me.resume = s.me.resume := rfl
@[simp] theorem State.pop2_me_trapNo (s : State) (a b : Opnd) : (s.pop2 a b).me.trapNo = s.me.trapNo := rfl
@[simp] theorem State.pop2_me_imp (s : State) (a b : Opnd) : (s.pop2 a b).me.imp = s.me.imp := rfl
@[simp] theorem State.pop2_me_wokeBy (s : State) (a b : Opnd) : (s.pop2 a b).me.wokeBy = s.me.wokeBy := rfl
@[simp] theorem State.pop2_me_since (s : State) (a b : Opnd) : (s.pop2 a b).me.since = s.me.since := rfl
@[simp] theorem State.vectored_me_st (s : State) (l : List Opnd) : (s.vectored l).me.st = s.me.st := rfl
@[simp] theorem State.vectored_me_pc (s : State) (l : List Opnd) : (s.vectored l).me.pc = s.me.pc := rfl
@[simp] theorem State.vectored_me_c (s : State) (l : List Opnd) : (s.vectored l).me.c = s.me.c := rfl
@[simp] theorem State.vectored_me_fmt (s : State) (l : List Opnd) : (s.vectored l).me.fmt = s.me.fmt := rfl
@[simp] theorem State.vectored_me_rep (s : State) (l : List Opnd) : (s.vectored l).me.rep = s.me.rep := rfl
@[simp] theorem State.vectored_me_t (s : State) (l : List Opnd) : (s.vectored l).me.t = s.me.t := rfl
@[simp] theorem State.vectored_me_wake (s : State) (l : List Opnd) : (s.vectored l).me.wake = s.me.wake := rfl
@[simp] theorem State.vectored_me_last (s : State) (l : List Opnd) : (s.vectored l).me.last = s.me.last := rfl
@[simp] theorem State.vectored_me_frames (s : State) (l : List Opnd) : (s.vectored l).me.frames = s.me.frames := rfl
@[simp] theorem State.vectored_me_unwind (s : State) (l : List Opnd) : (s.vectored l).me.unwind = s.me.unwind := rfl
@[simp] theorem State.vectored_me_zeroing (s : State) (l : List Opnd) : (s.vectored l).me.zeroing = s.me.zeroing := rfl
@[simp] theorem State.vectored_me_kill (s : State) (l : List Opnd) : (s.vectored l).me.kill = s.me.kill := rfl
@[simp] theorem State.vectored_me_resume (s : State) (l : List Opnd) : (s.vectored l).me.resume = s.me.resume := rfl
@[simp] theorem State.vectored_me_trapNo (s : State) (l : List Opnd) : (s.vectored l).me.trapNo = s.me.trapNo := rfl
@[simp] theorem State.vectored_me_imp (s : State) (l : List Opnd) : (s.vectored l).me.imp = s.me.imp := rfl
@[simp] theorem State.vectored_me_wokeBy (s : State) (l : List Opnd) : (s.vectored l).me.wokeBy = s.me.wokeBy := rfl
@[simp] theorem State.vectored_me_since (s : State) (l : List Opnd) : (s.vectored l).me.since = s.me.since := rfl
@[simp] theorem State.vectoredWith_me_st (s : State) (p : Option (Bool × Word)) (c : Option LoftCmd) (l : List Opnd) : (s.vectoredWith p c l).me.st = s.me.st := rfl
@[simp] theorem State.vectoredWith_me_pc (s : State) (p : Option (Bool × Word)) (c : Option LoftCmd) (l : List Opnd) : (s.vectoredWith p c l).me.pc = s.me.pc := rfl
@[simp] theorem State.vectoredWith_me_c (s : State) (p : Option (Bool × Word)) (c : Option LoftCmd) (l : List Opnd) : (s.vectoredWith p c l).me.c = s.me.c := rfl
@[simp] theorem State.vectoredWith_me_fmt (s : State) (p : Option (Bool × Word)) (c : Option LoftCmd) (l : List Opnd) : (s.vectoredWith p c l).me.fmt = s.me.fmt := rfl
@[simp] theorem State.vectoredWith_me_rep (s : State) (p : Option (Bool × Word)) (c : Option LoftCmd) (l : List Opnd) : (s.vectoredWith p c l).me.rep = s.me.rep := rfl
@[simp] theorem State.vectoredWith_me_t (s : State) (p : Option (Bool × Word)) (c : Option LoftCmd) (l : List Opnd) : (s.vectoredWith p c l).me.t = s.me.t := rfl
@[simp] theorem State.vectoredWith_me_wake (s : State) (p : Option (Bool × Word)) (c : Option LoftCmd) (l : List Opnd) : (s.vectoredWith p c l).me.wake = s.me.wake := rfl
@[simp] theorem State.vectoredWith_me_last (s : State) (p : Option (Bool × Word)) (c : Option LoftCmd) (l : List Opnd) : (s.vectoredWith p c l).me.last = s.me.last := rfl
@[simp] theorem State.vectoredWith_me_frames (s : State) (p : Option (Bool × Word)) (c : Option LoftCmd) (l : List Opnd) : (s.vectoredWith p c l).me.frames = s.me.frames := rfl
@[simp] theorem State.vectoredWith_me_unwind (s : State) (p : Option (Bool × Word)) (c : Option LoftCmd) (l : List Opnd) : (s.vectoredWith p c l).me.unwind = s.me.unwind := rfl
@[simp] theorem State.vectoredWith_me_zeroing (s : State) (p : Option (Bool × Word)) (c : Option LoftCmd) (l : List Opnd) : (s.vectoredWith p c l).me.zeroing = s.me.zeroing := rfl
@[simp] theorem State.vectoredWith_me_kill (s : State) (p : Option (Bool × Word)) (c : Option LoftCmd) (l : List Opnd) : (s.vectoredWith p c l).me.kill = s.me.kill := rfl
@[simp] theorem State.vectoredWith_me_resume (s : State) (p : Option (Bool × Word)) (c : Option LoftCmd) (l : List Opnd) : (s.vectoredWith p c l).me.resume = s.me.resume := rfl
@[simp] theorem State.vectoredWith_me_trapNo (s : State) (p : Option (Bool × Word)) (c : Option LoftCmd) (l : List Opnd) : (s.vectoredWith p c l).me.trapNo = s.me.trapNo := rfl
@[simp] theorem State.vectoredWith_me_imp (s : State) (p : Option (Bool × Word)) (c : Option LoftCmd) (l : List Opnd) : (s.vectoredWith p c l).me.imp = s.me.imp := rfl
@[simp] theorem State.vectoredWith_me_wokeBy (s : State) (p : Option (Bool × Word)) (c : Option LoftCmd) (l : List Opnd) : (s.vectoredWith p c l).me.wokeBy = s.me.wokeBy := rfl
@[simp] theorem State.vectoredWith_me_since (s : State) (p : Option (Bool × Word)) (c : Option LoftCmd) (l : List Opnd) : (s.vectoredWith p c l).me.since = s.me.since := rfl
@[simp] theorem State.waiting_me_pc (s : State) (w : Wait) : (s.waiting w).me.pc = s.me.pc := rfl
@[simp] theorem State.waiting_me_r (s : State) (w : Wait) : (s.waiting w).me.r = s.me.r := rfl
@[simp] theorem State.waiting_me_c (s : State) (w : Wait) : (s.waiting w).me.c = s.me.c := rfl
@[simp] theorem State.waiting_me_fmt (s : State) (w : Wait) : (s.waiting w).me.fmt = s.me.fmt := rfl
@[simp] theorem State.waiting_me_rep (s : State) (w : Wait) : (s.waiting w).me.rep = s.me.rep := rfl
@[simp] theorem State.waiting_me_vs (s : State) (w : Wait) : (s.waiting w).me.vs = s.me.vs := rfl
@[simp] theorem State.waiting_me_t (s : State) (w : Wait) : (s.waiting w).me.t = s.me.t := rfl
@[simp] theorem State.waiting_me_wake (s : State) (w : Wait) : (s.waiting w).me.wake = s.me.wake := rfl
@[simp] theorem State.waiting_me_last (s : State) (w : Wait) : (s.waiting w).me.last = s.me.last := rfl
@[simp] theorem State.waiting_me_frames (s : State) (w : Wait) : (s.waiting w).me.frames = s.me.frames := rfl
@[simp] theorem State.waiting_me_unwind (s : State) (w : Wait) : (s.waiting w).me.unwind = s.me.unwind := rfl
@[simp] theorem State.waiting_me_zeroing (s : State) (w : Wait) : (s.waiting w).me.zeroing = s.me.zeroing := rfl
@[simp] theorem State.waiting_me_kill (s : State) (w : Wait) : (s.waiting w).me.kill = s.me.kill := rfl
@[simp] theorem State.waiting_me_resume (s : State) (w : Wait) : (s.waiting w).me.resume = s.me.resume := rfl
@[simp] theorem State.waiting_me_trapNo (s : State) (w : Wait) : (s.waiting w).me.trapNo = s.me.trapNo := rfl
@[simp] theorem State.waiting_me_imp (s : State) (w : Wait) : (s.waiting w).me.imp = s.me.imp := rfl
@[simp] theorem State.waiting_me_wokeBy (s : State) (w : Wait) : (s.waiting w).me.wokeBy = s.me.wokeBy := rfl
@[simp] theorem State.rounded_me_st (s : State) (a : Acc) : (s.rounded a).me.st = s.me.st := rfl
@[simp] theorem State.rounded_me_pc (s : State) (a : Acc) : (s.rounded a).me.pc = s.me.pc := rfl
@[simp] theorem State.rounded_me_r (s : State) (a : Acc) : (s.rounded a).me.r = s.me.r := rfl
@[simp] theorem State.rounded_me_fmt (s : State) (a : Acc) : (s.rounded a).me.fmt = s.me.fmt := rfl
@[simp] theorem State.rounded_me_rep (s : State) (a : Acc) : (s.rounded a).me.rep = s.me.rep := rfl
@[simp] theorem State.rounded_me_vs (s : State) (a : Acc) : (s.rounded a).me.vs = s.me.vs := rfl
@[simp] theorem State.rounded_me_t (s : State) (a : Acc) : (s.rounded a).me.t = s.me.t := rfl
@[simp] theorem State.rounded_me_wake (s : State) (a : Acc) : (s.rounded a).me.wake = s.me.wake := rfl
@[simp] theorem State.rounded_me_last (s : State) (a : Acc) : (s.rounded a).me.last = s.me.last := rfl
@[simp] theorem State.rounded_me_frames (s : State) (a : Acc) : (s.rounded a).me.frames = s.me.frames := rfl
@[simp] theorem State.rounded_me_unwind (s : State) (a : Acc) : (s.rounded a).me.unwind = s.me.unwind := rfl
@[simp] theorem State.rounded_me_zeroing (s : State) (a : Acc) : (s.rounded a).me.zeroing = s.me.zeroing := rfl
@[simp] theorem State.rounded_me_kill (s : State) (a : Acc) : (s.rounded a).me.kill = s.me.kill := rfl
@[simp] theorem State.rounded_me_resume (s : State) (a : Acc) : (s.rounded a).me.resume = s.me.resume := rfl
@[simp] theorem State.rounded_me_trapNo (s : State) (a : Acc) : (s.rounded a).me.trapNo = s.me.trapNo := rfl
@[simp] theorem State.rounded_me_imp (s : State) (a : Acc) : (s.rounded a).me.imp = s.me.imp := rfl
@[simp] theorem State.rounded_me_wokeBy (s : State) (a : Acc) : (s.rounded a).me.wokeBy = s.me.wokeBy := rfl
@[simp] theorem State.rounded_me_since (s : State) (a : Acc) : (s.rounded a).me.since = s.me.since := rfl
@[simp] theorem State.result_me_r (s : State) (d : Opnd) (x : Word) : (s.result d x).me.r = (s.me.r.write d x).pushL x := rfl
@[simp] theorem State.waiting_me_st (s : State) (w : Wait) : (s.waiting w).me.st = .waiting w := rfl

/-- With no incomplete vector-stream instruction, a change of the registers is that change and no more. -/
theorem State.flow_nil (s : State) (r : Regs) : s.flow r [] = { s with me := { s.me with r := r, vs := [] } } := by
  unfold State.flow State.settled; split <;> rfl

/-! ### Registers -/

@[simp] theorem Regs.getW_zero (r : Regs) : r.getW 0 = 0 := rfl
@[simp] theorem Regs.setW_zero (r : Regs) (x : Word) : r.setW 0 x = r := rfl
@[simp] theorem Regs.setW_v (r : Regs) (n : WReg) (x : Word) : (r.setW n x).v = r.v := by unfold Regs.setW; split <;> rfl
@[simp] theorem Regs.setW_m (r : Regs) (n : WReg) (x : Word) : (r.setW n x).m = r.m := by unfold Regs.setW; split <;> rfl
@[simp] theorem Regs.setW_l (r : Regs) (n : WReg) (x : Word) : (r.setW n x).l = r.l := by unfold Regs.setW; split <;> rfl
@[simp] theorem Regs.setW_o (r : Regs) (n : WReg) (x : Word) : (r.setW n x).o = r.o := by unfold Regs.setW; split <;> rfl
@[simp] theorem Regs.setW_q0 (r : Regs) (n : WReg) (x : Word) : (r.setW n x).q0 = r.q0 := by unfold Regs.setW; split <;> rfl
@[simp] theorem Regs.setW_q1 (r : Regs) (n : WReg) (x : Word) : (r.setW n x).q1 = r.q1 := by unfold Regs.setW; split <;> rfl
@[simp] theorem Regs.setW_q2 (r : Regs) (n : WReg) (x : Word) : (r.setW n x).q2 = r.q2 := by unfold Regs.setW; split <;> rfl
@[simp] theorem Regs.setW_q3 (r : Regs) (n : WReg) (x : Word) : (r.setW n x).q3 = r.q3 := by unfold Regs.setW; split <;> rfl
@[simp] theorem Regs.setW_sc (r : Regs) (n : WReg) (x : Word) : (r.setW n x).sc = r.sc := by unfold Regs.setW; split <;> rfl
@[simp] theorem Regs.setW_cb (r : Regs) (n : WReg) (x : Word) : (r.setW n x).cb = r.cb := by unfold Regs.setW; split <;> rfl
@[simp] theorem Regs.pushL_w (r : Regs) (x : Word) : (r.pushL x).w = r.w := rfl
@[simp] theorem Regs.pushL_v (r : Regs) (x : Word) : (r.pushL x).v = r.v := rfl
@[simp] theorem Regs.pushL_m (r : Regs) (x : Word) : (r.pushL x).m = r.m := rfl
@[simp] theorem Regs.pushL_o (r : Regs) (x : Word) : (r.pushL x).o = r.o := rfl
@[simp] theorem Regs.pushL_q0 (r : Regs) (x : Word) : (r.pushL x).q0 = r.q0 := rfl
@[simp] theorem Regs.pushL_q1 (r : Regs) (x : Word) : (r.pushL x).q1 = r.q1 := rfl
@[simp] theorem Regs.pushL_q2 (r : Regs) (x : Word) : (r.pushL x).q2 = r.q2 := rfl
@[simp] theorem Regs.pushL_q3 (r : Regs) (x : Word) : (r.pushL x).q3 = r.q3 := rfl
@[simp] theorem Regs.pushL_sc (r : Regs) (x : Word) : (r.pushL x).sc = r.sc := rfl
@[simp] theorem Regs.pushL_cb (r : Regs) (x : Word) : (r.pushL x).cb = r.cb := rfl
@[simp] theorem Regs.setV_w (r : Regs) (n : VReg) (x : Vec) : (r.setV n x).w = r.w := rfl
@[simp] theorem Regs.setV_m (r : Regs) (n : VReg) (x : Vec) : (r.setV n x).m = r.m := rfl
@[simp] theorem Regs.setV_l (r : Regs) (n : VReg) (x : Vec) : (r.setV n x).l = r.l := rfl
@[simp] theorem Regs.setV_o (r : Regs) (n : VReg) (x : Vec) : (r.setV n x).o = r.o := rfl
@[simp] theorem Regs.setV_q0 (r : Regs) (n : VReg) (x : Vec) : (r.setV n x).q0 = r.q0 := rfl
@[simp] theorem Regs.setV_q1 (r : Regs) (n : VReg) (x : Vec) : (r.setV n x).q1 = r.q1 := rfl
@[simp] theorem Regs.setV_q2 (r : Regs) (n : VReg) (x : Vec) : (r.setV n x).q2 = r.q2 := rfl
@[simp] theorem Regs.setV_q3 (r : Regs) (n : VReg) (x : Vec) : (r.setV n x).q3 = r.q3 := rfl
@[simp] theorem Regs.setV_sc (r : Regs) (n : VReg) (x : Vec) : (r.setV n x).sc = r.sc := rfl
@[simp] theorem Regs.setV_cb (r : Regs) (n : VReg) (x : Vec) : (r.setV n x).cb = r.cb := rfl
@[simp] theorem Regs.setM_w (r : Regs) (n : MReg) (x : Word) : (r.setM n x).w = r.w := rfl
@[simp] theorem Regs.setM_v (r : Regs) (n : MReg) (x : Word) : (r.setM n x).v = r.v := rfl
@[simp] theorem Regs.setM_l (r : Regs) (n : MReg) (x : Word) : (r.setM n x).l = r.l := rfl
@[simp] theorem Regs.setM_o (r : Regs) (n : MReg) (x : Word) : (r.setM n x).o = r.o := rfl
@[simp] theorem Regs.setM_q0 (r : Regs) (n : MReg) (x : Word) : (r.setM n x).q0 = r.q0 := rfl
@[simp] theorem Regs.setM_q1 (r : Regs) (n : MReg) (x : Word) : (r.setM n x).q1 = r.q1 := rfl
@[simp] theorem Regs.setM_q2 (r : Regs) (n : MReg) (x : Word) : (r.setM n x).q2 = r.q2 := rfl
@[simp] theorem Regs.setM_q3 (r : Regs) (n : MReg) (x : Word) : (r.setM n x).q3 = r.q3 := rfl
@[simp] theorem Regs.setM_sc (r : Regs) (n : MReg) (x : Word) : (r.setM n x).sc = r.sc := rfl
@[simp] theorem Regs.setM_cb (r : Regs) (n : MReg) (x : Word) : (r.setM n x).cb = r.cb := rfl
@[simp] theorem Regs.setO_w (r : Regs) (n : BitVec 3) (x : Word) : (r.setO n x).w = r.w := rfl
@[simp] theorem Regs.setO_v (r : Regs) (n : BitVec 3) (x : Word) : (r.setO n x).v = r.v := rfl
@[simp] theorem Regs.setO_m (r : Regs) (n : BitVec 3) (x : Word) : (r.setO n x).m = r.m := rfl
@[simp] theorem Regs.setO_l (r : Regs) (n : BitVec 3) (x : Word) : (r.setO n x).l = r.l := rfl
@[simp] theorem Regs.setO_q0 (r : Regs) (n : BitVec 3) (x : Word) : (r.setO n x).q0 = r.q0 := rfl
@[simp] theorem Regs.setO_q1 (r : Regs) (n : BitVec 3) (x : Word) : (r.setO n x).q1 = r.q1 := rfl
@[simp] theorem Regs.setO_q2 (r : Regs) (n : BitVec 3) (x : Word) : (r.setO n x).q2 = r.q2 := rfl
@[simp] theorem Regs.setO_q3 (r : Regs) (n : BitVec 3) (x : Word) : (r.setO n x).q3 = r.q3 := rfl
@[simp] theorem Regs.setO_sc (r : Regs) (n : BitVec 3) (x : Word) : (r.setO n x).sc = r.sc := rfl
@[simp] theorem Regs.setO_cb (r : Regs) (n : BitVec 3) (x : Word) : (r.setO n x).cb = r.cb := rfl

/-- w(n) after a write to w(k). -/
theorem Regs.getW_setW (r : Regs) (n k : WReg) (x : Word) :
    (r.setW k x).getW n = if n = k ∧ n ≠ 0 then x else r.getW n := by
  unfold Regs.getW Regs.setW
  by_cases hk : k = 0 <;> by_cases hn : n = 0 <;> by_cases h : n = k <;> simp_all [Vector.getElem_set]
  · intro h2; exact absurd (BitVec.eq_of_toNat_eq h2.symm) h

end Sys2Proof.Machine
end
end

