-- ==== Sys2Proof/Laws/Ops.lean ====
section
/-!
SUPPORT. One lemma for each shared operation, which says what it comes to: the frame of a meaning (`issue`), the shapes
that meanings share, retirement, and the accesses of the issuing context.
-/
set_option Elab.async false
noncomputable section
namespace Sys2Proof.Machine
open Sys2Proof.Safety

/-! ### The frame of a meaning -/

theorem issue_finish {i : Instr} {s : State} {body : State → Res} (h : issues s i) : issue i s body = s.finish i (body s) := by
  unfold issue; rw [h.1]; simp [h.2.1, h.2.2]

/-- An instruction that cannot issue raises the first cause of R76 that applies. -/
theorem issue_precheck {i : Instr} {s : State} {body : State → Res} {c : Cause}
    (h : s.precheck i = some c) : issue i s body = .next (s.raise i c 0 0) := by
  unfold issue; rw [h]

theorem issue_done {i : Instr} {s t : State} {body : State → Res} (h : issues s i) (hb : body s = .done t) :
    issue i s body = retires i t := by
  rw [issue_finish h, hb]; rfl

theorem issue_goto {i : Instr} {s t : State} {pc : Word} {body : State → Res} (h : issues s i) (hb : body s = .goto pc t) :
    issue i s body = jumps i pc t := by
  rw [issue_finish h, hb]; rfl

theorem issue_trap {i : Instr} {s t : State} {c : Cause} {a : Word} {body : State → Res} (h : issues s i)
    (hb : body s = .trap c a t) : issue i s body = .next (t.raise i c a 0) := by
  rw [issue_finish h, hb]; rfl

theorem issue_code {i : Instr} {s : State} {c : Cause} {n : Nat} {body : State → Res} (h : issues s i)
    (hb : body s = .code c n) : issue i s body = .next (s.raise i c 0 n) := by
  rw [issue_finish h, hb]; rfl

theorem issue_wait {i : Instr} {s t : State} {w : Wait} {body : State → Res} (h : issues s i) (hb : body s = .wait w t) :
    issue i s body = .next (t.blocked i w) := by
  rw [issue_finish h, hb]; rfl

theorem issue_whole {i : Instr} {s t : State} {body : State → Res} (h : issues s i) (hb : body s = .whole t) :
    issue i s body = .next t := by
  rw [issue_finish h, hb]; rfl

/-- No instruction that goes through the frame ends in a fault or a refusal. -/
theorem issue_next (i : Instr) (s : State) (body : State → Res) : ∃ t, issue i s body = .next t := by
  unfold issue
  cases s.precheck i with
  | some c => exact ⟨_, rfl⟩
  | none =>
    by_cases h : s.me.tooFar = true
    · exact ⟨_, by simp only [if_pos h]; rfl⟩
    · by_cases hb : s.heldBack i = true
      · exact ⟨_, by simp only [if_neg h, if_pos hb]; rfl⟩
      · simp only [if_neg h, if_neg hb]
        cases body s <;> exact ⟨_, rfl⟩

/-! ### Shapes -/

theorem alu2_result {i : Instr} {s : State} {d a b : Opnd} {f : Word → Word → Word} {x y : Word} (h : issues s i)
    (hv : s.me.r.val2 a b = some (x, y)) (hd : s.me.room d = true) :
    alu2 i d a b s f = retires i ((s.pop2 a b).result d (f x y)) :=
  issue_done h (by simp [hv, hd])

/-- The stream that cannot go on waits: the scalar stream itself, or the vector stream, to which the instruction is left. -/
theorem blocked_scalar {s : State} {i : Instr} {w : Wait} (h : i.vector = false) : s.blocked i w = s.waiting w := by
  simp [State.blocked, Ctx.leaves, h]

theorem alu2_waits {i : Instr} {s : State} {d a b : Opnd} {f : Word → Word → Word} (h : issues s i)
    (hv : s.me.r.val2 a b = none ∨ s.me.room d = false) : alu2 i d a b s f = .next (s.blocked i .queue) :=
  issue_wait h (by
    obtain hv | hd := hv
    · simp [hv]
    · cases hx : s.me.r.val2 a b <;> simp [hd])

theorem alu1_result {i : Instr} {s : State} {d a : Opnd} {f : Word → Word} {x : Word} (h : issues s i)
    (hv : s.me.r.val a = some x) (hd : s.me.room d = true) : alu1 i d a s f = retires i ((s.pop a).result d (f x)) :=
  issue_done h (by simp [hv, hd])

theorem alu0_result {i : Instr} {s : State} {d : Opnd} {f : State → Word} (h : issues s i) (hd : s.me.room d = true) :
    alu0 i d s f = retires i (s.result d (f s)) :=
  issue_done h (by simp [hd])

theorem branch_result {i : Instr} {s : State} {a b : Opnd} {o : BitVec 12} {c : Word → Word → Bool} {x y : Word}
    (h : issues s i) (hv : s.me.r.val2 a b = some (x, y)) :
    branch i a b o s c = if c x y then jumps i (relPc s.me.pc o) (s.pop2 a b) else retires i (s.pop2 a b) := by
  unfold branch
  cases hc : c x y
  · simpa using issue_done (t := s.pop2 a b) h (by simp [hv, hc])
  · simpa using issue_goto (t := s.pop2 a b) (pc := relPc s.me.pc o) h (by simp [hv, hc])

theorem loadTo_ok {s u : State} {d : Opnd} {pops : State → State} {ea : Word} {n : Nat} {f : Nat → Word} {b : List Byte}
    (hd : s.me.room d = true) (hl : s.load ea n = .ok b u) : s.loadTo d pops ea n f = .done ((pops u).result d (f (leNat b))) := by
  simp [State.loadTo, hd, hl, Mem.then]

theorem storeFrom_ok {s u : State} {i : Instr} {pops : State → State} {ea : Word} {n : Nat} {x : Word}
    (hl : s.store ea (natLe n x.toNat) = .ok () u) : s.storeFrom i pops ea n x = .done (pops u) := by
  simp [State.storeFrom, hl]

/-! ### Retirement (R39, R58, R461) -/

@[simp] theorem noteWoke_me (s : State) (n f : Nat) : (s.noteWoke n f).me = s.me := by
  simp only [State.noteWoke, State.onLaunch]; split <;> rfl

@[simp] theorem countRetired_me (s : State) : s.countRetired.me = s.me := by
  simp only [State.countRetired, State.onLaunch]; repeat' split
  all_goals rfl

@[simp] theorem woke_me (s : State) (b : Bool) (n f : Nat) : (if b = true then s.noteWoke n f else s).me = s.me := by
  cases b <;> simp

theorem retired_pc (s : State) (k : Bool) : (s.retired k).me.pc = s.me.pc := by simp [State.retired]
theorem retired_r (s : State) (k : Bool) : (s.retired k).me.r = s.me.r := by simp [State.retired]
theorem retired_rep (s : State) (k : Bool) : (s.retired k).me.rep = s.me.rep := by simp [State.retired]
theorem retired_st (s : State) (k : Bool) : (s.retired k).me.st = .ready := rfl
theorem retired_c (s : State) (k : Bool) :
    (s.retired k).me.c = { s.me.c with ret := s.me.c.ret + 1, psw := if k then s.me.c.psw else setBit s.me.c.psw 1 false } := by
  simp [State.retired]

/-- Psw bits other than PP stand at retirement. -/
theorem setBit_other (x : BitVec 19) (n k : Nat) (b : Bool) (h : k ≠ n) : (setBit x n b).getLsbD k = x.getLsbD k := by
  unfold setBit
  cases b <;> simp [BitVec.getLsbD_twoPow, Ne.symm h]
  intro hx
  have := BitVec.lt_of_getLsbD hx
  omega

theorem retired_tr (s : State) (k : Bool) : (s.retired k).me.c.tr = s.me.c.tr := by
  rw [retired_c]
  cases k
  · exact setBit_other _ 1 18 false (by decide)
  · rfl

/-- Retirement with no trace, outside a REP body: the PC goes past the instruction, or to the target. -/
theorem retire_quiet (s : State) (k : Bool) (jump : Option Word) (n : Nat) (hq : quiet s) (hr : s.me.rep = none) :
    s.retire k jump n =
      { s.retired k with me := { (s.retired k).me with pc := jump.getD (s.me.pc + BitVec.ofNat 64 n), rep := none } } := by
  unfold State.retire
  have ht : (s.retired k).me.c.tr = false := by rw [retired_tr]; exact hq
  cases jump <;> simp [State.retireQuiet, State.traced, retired_rep, hr, ht, retired_pc]

/-! ### Accesses of the issuing context (R138 to R141) -/

@[simp] theorem charge_mem (s : State) (d : Dom) (c n : Nat) : (s.charge d c n).mem = s.mem := by
  simp only [State.charge]; repeat' split
  all_goals rfl
@[simp] theorem charge_me (s : State) (d : Dom) (c n : Nat) : (s.charge d c n).me = s.me := by
  simp only [State.charge]; repeat' split
  all_goals rfl
@[simp] theorem charge_ctxs (s : State) (d : Dom) (c n : Nat) : (s.charge d c n).ctxs = s.ctxs := by
  simp only [State.charge]; repeat' split
  all_goals rfl
@[simp] theorem charge_cur (s : State) (d : Dom) (c n : Nat) : (s.charge d c n).cur = s.cur := by
  simp only [State.charge]; repeat' split
  all_goals rfl

@[simp] theorem chargeAll_mem (s : State) (l : List (Dom × Nat × Nat)) : (s.chargeAll l).mem = s.mem := by
  induction l generalizing s with
  | nil => rfl
  | cons p r ih => simp [State.chargeAll, ih]
@[simp] theorem chargeAll_me (s : State) (l : List (Dom × Nat × Nat)) : (s.chargeAll l).me = s.me := by
  induction l generalizing s with
  | nil => rfl
  | cons p r ih => simp [State.chargeAll, ih]
@[simp] theorem chargeAll_ctxs (s : State) (l : List (Dom × Nat × Nat)) : (s.chargeAll l).ctxs = s.ctxs := by
  induction l generalizing s with
  | nil => rfl
  | cons p r ih => simp [State.chargeAll, ih]
@[simp] theorem chargeAll_cur (s : State) (l : List (Dom × Nat × Nat)) : (s.chargeAll l).cur = s.cur := by
  induction l generalizing s with
  | nil => rfl
  | cons p r ih => simp [State.chargeAll, ih]

@[simp] theorem keepL1_mem (s : State) (o : Option Nat) (t : TlbEntry) : (s.keepL1 o t).mem = s.mem := by
  simp only [State.keepL1]; repeat' split
  all_goals rfl
@[simp] theorem keepL1_me (s : State) (o : Option Nat) (t : TlbEntry) : (s.keepL1 o t).me = s.me := by
  simp only [State.keepL1]; repeat' split
  all_goals rfl
@[simp] theorem keepL1_ctxs (s : State) (o : Option Nat) (t : TlbEntry) : (s.keepL1 o t).ctxs = s.ctxs := by
  simp only [State.keepL1]; repeat' split
  all_goals rfl
@[simp] theorem keepL1_cur (s : State) (o : Option Nat) (t : TlbEntry) : (s.keepL1 o t).cur = s.cur := by
  simp only [State.keepL1]; repeat' split
  all_goals rfl

@[simp] theorem recordUnit_mem (s : State) (w : Who) (t : TlbEntry) (u : TlbUnit) : (s.recordUnit w t u).mem = s.mem := by
  simp only [State.recordUnit]; repeat' split
  all_goals rfl
@[simp] theorem recordUnit_me (s : State) (w : Who) (t : TlbEntry) (u : TlbUnit) : (s.recordUnit w t u).me = s.me := by
  simp only [State.recordUnit]; repeat' split
  all_goals rfl
@[simp] theorem recordUnit_ctxs (s : State) (w : Who) (t : TlbEntry) (u : TlbUnit) : (s.recordUnit w t u).ctxs = s.ctxs := by
  simp only [State.recordUnit]; repeat' split
  all_goals rfl
@[simp] theorem recordUnit_cur (s : State) (w : Who) (t : TlbEntry) (u : TlbUnit) : (s.recordUnit w t u).cur = s.cur := by
  simp only [State.recordUnit]; repeat' split
  all_goals rfl

/-- Keeping a translation leaves what keeping it in one level does not change. -/
theorem keepTlb_keeps {α : Type} (f : State → α) (hu : ∀ s w t u, f (State.recordUnit s w t u) = f s)
    (h1 : ∀ s o t, f (State.keepL1 s o t) = f s) (h2 : ∀ s n t, f (State.keepL2 s n t) = f s) (s : State) (who : Who)
    (k : Kind) (a : Nat) : f (s.keepTlb who k a) = f s := by
  unfold State.keepTlb
  by_cases h : inWindows a = true
  · rw [if_pos h]
  · rw [if_neg h]
    generalize s.tlbOwn who a = o1, s.tlbShared who a = o2, s.fill who k a = o3
    cases o1 with
    | some t =>
      dsimp only
      generalize (if (t.unit? a).isSome then none else (s.checkUnit who k t a).toOption) = x
      cases x with
      | some u => exact hu ..
      | none => rfl
    | none =>
      cases o2 with
      | some t =>
        dsimp only
        generalize (if (t.unit? a).isSome then none else (s.checkUnit who k t a).toOption) = x
        cases x with
        | some u => exact (h1 ..).trans (hu ..)
        | none => exact h1 ..
      | none =>
        cases o3 with
        | ok p => exact (h1 ..).trans (h2 ..)
        | error _ => rfl

@[simp] theorem keepTlbs_mem (s : State) (who : Who) (k : Kind) (ea : Word) (n : Nat) : (s.keepTlbs who k ea n).mem = s.mem := by
  have h := keepTlb_keeps (·.mem) recordUnit_mem keepL1_mem (by intro s n t; rfl)
  unfold State.keepTlbs
  exact (h ..).trans (h ..)
@[simp] theorem keepTlbs_me (s : State) (who : Who) (k : Kind) (ea : Word) (n : Nat) : (s.keepTlbs who k ea n).me = s.me := by
  have h := keepTlb_keeps (·.me) recordUnit_me keepL1_me (by intro s n t; rfl)
  unfold State.keepTlbs
  exact (h ..).trans (h ..)
@[simp] theorem keepTlbs_ctxs (s : State) (who : Who) (k : Kind) (ea : Word) (n : Nat) : (s.keepTlbs who k ea n).ctxs = s.ctxs := by
  have h := keepTlb_keeps (·.ctxs) recordUnit_ctxs keepL1_ctxs (by intro s n t; rfl)
  unfold State.keepTlbs
  exact (h ..).trans (h ..)
@[simp] theorem keepTlbs_cur (s : State) (who : Who) (k : Kind) (ea : Word) (n : Nat) : (s.keepTlbs who k ea n).cur = s.cur := by
  have h := keepTlb_keeps (·.cur) recordUnit_cur keepL1_cur (by intro s n t; rfl)
  unfold State.keepTlbs
  exact (h ..).trans (h ..)

theorem refused_not_ok {α : Type} {s u : State} {c : Cause} {a : Word} {x : α} : s.refused (α := α) c a ≠ .ok x u := by
  unfold State.refused State.badMem
  by_cases h : c.precise = true
  · rw [if_pos h]; exact nofun
  · rw [if_neg h]
    split
    · split <;> exact nofun
    · exact nofun

theorem badMem_not_ok {α : Type} {s t u : State} {c : Cause} {k : Nat} {o : Dom} {ea : Word} {x : α} :
    s.badMem (α := α) t c k o ea ≠ .ok x u := by
  unfold State.badMem
  split <;> exact nofun

/-- An access that passes the gate of the buckets is charged. -/
theorem egressGate_ok {α : Type} {s u : State} {ea : Word} {l : List (Dom × Nat × Nat)} {k : State → Mem α} {x : α}
    (h : s.egressGate ea l k = .ok x u) : k (s.chargeAll l) = .ok x u := by
  unfold State.egressGate at h
  split at h
  · split at h
    · cases h
    · split at h <;> cases h
  · split at h
    · cases h
    · split at h <;> cases h
  · exact h

/-- An access that the link carries goes on with memory and every context as they were. -/
theorem overLink_ok {α : Type} {s s0 u : State} {l : List Where} {vc : BitVec 2} {k : State → Mem α} {x : α}
    (h : s.overLink s0 l vc k = .ok x u) :
    ∃ t, k t = .ok x u ∧ t.mem = s.mem ∧ t.me = s.me ∧ t.ctxs = s.ctxs ∧ t.cur = s.cur := by
  unfold State.overLink at h
  split at h
  · rename_i t ht
    refine ⟨t, h, ?_⟩
    unfold State.linkOut at ht
    split at ht
    · cases ht; exact ⟨rfl, rfl, rfl, rfl⟩
    · split at ht
      · cases ht; exact ⟨rfl, rfl, rfl, rfl⟩
      · cases hc : s.carrier ‹_› vc with
        | none => rw [hc] at ht; cases ht
        | some q => rw [hc] at ht; cases ht; exact ⟨rfl, rfl, rfl, rfl⟩
  · cases h

/-- A load that completes has passed the check of its bytes, gives what stands at their places, and leaves memory and every
context. -/
theorem load_ok {s u : State} {ea : Word} {n : Nat} {b : List Byte} (h : s.load ea n = .ok b u) :
    ∃ l, s.check s.who .load ea n = .ok l ∧ u.mem = s.mem ∧ u.me = s.me ∧ u.ctxs = s.ctxs ∧ u.cur = s.cur := by
  unfold State.load at h
  split at h
  · cases h
  · split at h
    · exact absurd h refused_not_ok
    · rename_i l hl
      split at h
      · cases h
      obtain ⟨t, ht, h1, h2, h3, h4⟩ := overLink_ok (egressGate_ok h)
      refine ⟨l, hl, ?_⟩
      split at ht
      · exact absurd ht badMem_not_ok
      · cases ht; simp [h1, h2, h3, h4]

/-- Sealing a line changes neither memory nor a context. -/
theorem sealLine_frame (v : State) (p : Where) :
    (v.sealLine p).mem = v.mem ∧ (v.sealLine p).me = v.me ∧ (v.sealLine p).ctxs = v.ctxs ∧ (v.sealLine p).cur = v.cur := by
  unfold State.sealLine
  repeat' split
  all_goals first | exact ⟨rfl, rfl, rfl, rfl⟩ | (dsimp only; split <;> exact ⟨rfl, rfl, rfl, rfl⟩)

theorem sealLines_frame (l : List Where) (v : State) :
    (l.foldl State.sealLine v).mem = v.mem ∧ (l.foldl State.sealLine v).me = v.me ∧
      (l.foldl State.sealLine v).ctxs = v.ctxs ∧ (l.foldl State.sealLine v).cur = v.cur := by
  induction l generalizing v with
  | nil => exact ⟨rfl, rfl, rfl, rfl⟩
  | cons p r ih => simp only [List.foldl_cons, ih, sealLine_frame, and_self]

/-- A store that completes has passed the check of its bytes, and writes them at the places that the check gives. -/
theorem store_ok {s u : State} {ea : Word} {b : List Byte} (h : s.store ea b = .ok () u) :
    ∃ (l : List Where) (t : State), s.check s.who .store ea b.length = .ok l ∧ t.mem = s.mem ∧ t.me = s.me ∧ t.ctxs = s.ctxs ∧ t.cur = s.cur ∧
      u = (t.pokes l b).keepTlbs t.who .store ea b.length := by
  unfold State.store at h
  split at h
  · cases h
  · split at h
    · split at h
      · cases h
      · exact absurd h refused_not_ok
    · rename_i l hl
      split at h
      · cases h
      obtain ⟨t, ht, h1, h2, h3, h4⟩ := overLink_ok (egressGate_ok h)
      unfold State.storeAt at ht
      dsimp only at ht
      split at ht
      · exact absurd ht badMem_not_ok
      · cases ht
        refine ⟨l, _, hl, ?_, ?_, ?_, ?_, rfl⟩ <;> split <;> simp [sealLines_frame, h1, h2, h3, h4]

/-! ### Tables -/

theorem find?_put_same {α : Type} (l : List (Nat × α)) (k : Nat) (x : α) : find? (put l k x) k = some x := by
  induction l with
  | nil => simp [put, find?]
  | cons p r ih =>
    obtain ⟨j, y⟩ := p
    simp only [put]
    split
    · simp [find?]
    · split
      · simp [find?]
      · rename_i h1 h2; simp only [find?]; simp_all

end Sys2Proof.Machine
end
end

