-- ==== Sys2Proof/Laws/PerInstr.lean ====
section
/-!
SUPPORT. Statements that hold of every instruction, one lemma for each constructor. Encoding: bit 0 of the first halfword
tells the lengths apart (R60): a 16-bit instruction's is 0 and a 32-bit instruction's is 1; an undecodable word is kept as it
stands in memory.
-/
set_option Elab.async false
noncomputable section
namespace Sys2Proof.Laws.Encoding

/-- Bit 0 of the encoding gives its length (R60). -/
def Statement (i : Instr) : Prop :=
  ∀ n w, encode i = some (n, w) → (n = 16 ∧ w % 2 = 0) ∨ (n = 32 ∧ (w % 2 = 1 ∨ ∃ b, i = .ill b))

theorem illh : ∀ x0, Statement (.illh x0) := by
  intro x0 n w h; cases h; exact .inl ⟨rfl, by simp only [packN] <;> omega⟩

theorem mov16 : ∀ x0 x1, Statement (.mov16 x0 x1) := by
  intro x0 x1 n w h; cases h; exact .inl ⟨rfl, by simp only [packCR] <;> omega⟩

theorem add16 : ∀ x0 x1, Statement (.add16 x0 x1) := by
  intro x0 x1 n w h; cases h; exact .inl ⟨rfl, by simp only [packCR] <;> omega⟩

theorem addi16 : ∀ x0 x1, Statement (.addi16 x0 x1) := by
  intro x0 x1 n w h; cases h; exact .inl ⟨rfl, by simp only [packCR] <;> omega⟩

theorem sub16 : ∀ x0 x1, Statement (.sub16 x0 x1) := by
  intro x0 x1 n w h; cases h; exact .inl ⟨rfl, by simp only [packCR] <;> omega⟩

theorem and16 : ∀ x0 x1, Statement (.and16 x0 x1) := by
  intro x0 x1 n w h; cases h; exact .inl ⟨rfl, by simp only [packCR] <;> omega⟩

theorem or16 : ∀ x0 x1, Statement (.or16 x0 x1) := by
  intro x0 x1 n w h; cases h; exact .inl ⟨rfl, by simp only [packCR] <;> omega⟩

theorem xor16 : ∀ x0 x1, Statement (.xor16 x0 x1) := by
  intro x0 x1 n w h; cases h; exact .inl ⟨rfl, by simp only [packCR] <;> omega⟩

theorem shli16 : ∀ x0 x1, Statement (.shli16 x0 x1) := by
  intro x0 x1 n w h; cases h; exact .inl ⟨rfl, by simp only [packCR] <;> omega⟩

theorem shri16 : ∀ x0 x1, Statement (.shri16 x0 x1) := by
  intro x0 x1 n w h; cases h; exact .inl ⟨rfl, by simp only [packCR] <;> omega⟩

theorem srai16 : ∀ x0 x1, Statement (.srai16 x0 x1) := by
  intro x0 x1 n w h; cases h; exact .inl ⟨rfl, by simp only [packCR] <;> omega⟩

theorem li16 : ∀ x0 x1, Statement (.li16 x0 x1) := by
  intro x0 x1 n w h; cases h; exact .inl ⟨rfl, by simp only [packCR] <;> omega⟩

theorem ld16 : ∀ x0 x1, Statement (.ld16 x0 x1) := by
  intro x0 x1 n w h; cases h; exact .inl ⟨rfl, by simp only [packCR] <;> omega⟩

theorem st16 : ∀ x0 x1, Statement (.st16 x0 x1) := by
  intro x0 x1 n w h; cases h; exact .inl ⟨rfl, by simp only [packCR] <;> omega⟩

theorem lds16 : ∀ x0 x1, Statement (.lds16 x0 x1) := by
  intro x0 x1 n w h; cases h; exact .inl ⟨rfl, by simp only [packCR] <;> omega⟩

theorem sts16 : ∀ x0 x1, Statement (.sts16 x0 x1) := by
  intro x0 x1 n w h; cases h; exact .inl ⟨rfl, by simp only [packCR] <;> omega⟩

theorem beqz : ∀ x0 x1, Statement (.beqz x0 x1) := by
  intro x0 x1 n w h; cases h; exact .inl ⟨rfl, by simp only [packCR] <;> omega⟩

theorem bnez : ∀ x0 x1, Statement (.bnez x0 x1) := by
  intro x0 x1 n w h; cases h; exact .inl ⟨rfl, by simp only [packCR] <;> omega⟩

theorem j : ∀ x0, Statement (.j x0) := by
  intro x0 n w h; cases h; exact .inl ⟨rfl, by simp only [packN] <;> omega⟩

theorem jr16 : ∀ x0, Statement (.jr16 x0) := by
  intro x0 n w h; cases h; exact .inl ⟨rfl, by simp only [packCR] <;> omega⟩

theorem end16 : Statement (.end16) := by
  intro n w h; cases h; exact .inl ⟨rfl, by simp only [packCR] <;> omega⟩

theorem pause16 : Statement (.pause16) := by
  intro n w h; cases h; exact .inl ⟨rfl, by simp only [packCR] <;> omega⟩

theorem nop : Statement (.nop) := by
  intro n w h; cases h; exact .inl ⟨rfl, by simp only [packCR] <;> omega⟩

theorem break16 : ∀ x0, Statement (.break16 x0) := by
  intro x0 n w h; cases h; exact .inl ⟨rfl, by simp only [packN] <;> omega⟩

theorem add : ∀ x0 x1 x2, Statement (.add x0 x1 x2) := by
  intro x0 x1 x2 n w h; cases h; exact .inr ⟨rfl, .inl (by simp only [packA] <;> omega)⟩

theorem sub : ∀ x0 x1 x2, Statement (.sub x0 x1 x2) := by
  intro x0 x1 x2 n w h; cases h; exact .inr ⟨rfl, .inl (by simp only [packA] <;> omega)⟩

theorem andI : ∀ x0 x1 x2, Statement (.andI x0 x1 x2) := by
  intro x0 x1 x2 n w h; cases h; exact .inr ⟨rfl, .inl (by simp only [packA] <;> omega)⟩

theorem orI : ∀ x0 x1 x2, Statement (.orI x0 x1 x2) := by
  intro x0 x1 x2 n w h; cases h; exact .inr ⟨rfl, .inl (by simp only [packA] <;> omega)⟩

theorem xorI : ∀ x0 x1 x2, Statement (.xorI x0 x1 x2) := by
  intro x0 x1 x2 n w h; cases h; exact .inr ⟨rfl, .inl (by simp only [packA] <;> omega)⟩

theorem andn : ∀ x0 x1 x2, Statement (.andn x0 x1 x2) := by
  intro x0 x1 x2 n w h; cases h; exact .inr ⟨rfl, .inl (by simp only [packA] <;> omega)⟩

theorem shl : ∀ x0 x1 x2, Statement (.shl x0 x1 x2) := by
  intro x0 x1 x2 n w h; cases h; exact .inr ⟨rfl, .inl (by simp only [packA] <;> omega)⟩

theorem shr : ∀ x0 x1 x2, Statement (.shr x0 x1 x2) := by
  intro x0 x1 x2 n w h; cases h; exact .inr ⟨rfl, .inl (by simp only [packA] <;> omega)⟩

theorem sra : ∀ x0 x1 x2, Statement (.sra x0 x1 x2) := by
  intro x0 x1 x2 n w h; cases h; exact .inr ⟨rfl, .inl (by simp only [packA] <;> omega)⟩

theorem rol : ∀ x0 x1 x2, Statement (.rol x0 x1 x2) := by
  intro x0 x1 x2 n w h; cases h; exact .inr ⟨rfl, .inl (by simp only [packA] <;> omega)⟩

theorem ror : ∀ x0 x1 x2, Statement (.ror x0 x1 x2) := by
  intro x0 x1 x2 n w h; cases h; exact .inr ⟨rfl, .inl (by simp only [packA] <;> omega)⟩

theorem slt : ∀ x0 x1 x2, Statement (.slt x0 x1 x2) := by
  intro x0 x1 x2 n w h; cases h; exact .inr ⟨rfl, .inl (by simp only [packA] <;> omega)⟩

theorem sltu : ∀ x0 x1 x2, Statement (.sltu x0 x1 x2) := by
  intro x0 x1 x2 n w h; cases h; exact .inr ⟨rfl, .inl (by simp only [packA] <;> omega)⟩

theorem minI : ∀ x0 x1 x2, Statement (.minI x0 x1 x2) := by
  intro x0 x1 x2 n w h; cases h; exact .inr ⟨rfl, .inl (by simp only [packA] <;> omega)⟩

theorem maxI : ∀ x0 x1 x2, Statement (.maxI x0 x1 x2) := by
  intro x0 x1 x2 n w h; cases h; exact .inr ⟨rfl, .inl (by simp only [packA] <;> omega)⟩

theorem minu : ∀ x0 x1 x2, Statement (.minu x0 x1 x2) := by
  intro x0 x1 x2 n w h; cases h; exact .inr ⟨rfl, .inl (by simp only [packA] <;> omega)⟩

theorem maxu : ∀ x0 x1 x2, Statement (.maxu x0 x1 x2) := by
  intro x0 x1 x2 n w h; cases h; exact .inr ⟨rfl, .inl (by simp only [packA] <;> omega)⟩

theorem mul : ∀ x0 x1 x2, Statement (.mul x0 x1 x2) := by
  intro x0 x1 x2 n w h; cases h; exact .inr ⟨rfl, .inl (by simp only [packA] <;> omega)⟩

theorem mulh : ∀ x0 x1 x2, Statement (.mulh x0 x1 x2) := by
  intro x0 x1 x2 n w h; cases h; exact .inr ⟨rfl, .inl (by simp only [packA] <;> omega)⟩

theorem mulhu : ∀ x0 x1 x2, Statement (.mulhu x0 x1 x2) := by
  intro x0 x1 x2 n w h; cases h; exact .inr ⟨rfl, .inl (by simp only [packA] <;> omega)⟩

theorem divI : ∀ x0 x1 x2, Statement (.divI x0 x1 x2) := by
  intro x0 x1 x2 n w h; cases h; exact .inr ⟨rfl, .inl (by simp only [packA] <;> omega)⟩

theorem divu : ∀ x0 x1 x2, Statement (.divu x0 x1 x2) := by
  intro x0 x1 x2 n w h; cases h; exact .inr ⟨rfl, .inl (by simp only [packA] <;> omega)⟩

theorem remI : ∀ x0 x1 x2, Statement (.remI x0 x1 x2) := by
  intro x0 x1 x2 n w h; cases h; exact .inr ⟨rfl, .inl (by simp only [packA] <;> omega)⟩

theorem remu : ∀ x0 x1 x2, Statement (.remu x0 x1 x2) := by
  intro x0 x1 x2 n w h; cases h; exact .inr ⟨rfl, .inl (by simp only [packA] <;> omega)⟩

theorem sel : ∀ x0 x1 x2, Statement (.sel x0 x1 x2) := by
  intro x0 x1 x2 n w h; cases h; exact .inr ⟨rfl, .inl (by simp only [packA] <;> omega)⟩

theorem addW : ∀ x0 x1 x2, Statement (.addW x0 x1 x2) := by
  intro x0 x1 x2 n w h; cases h; exact .inr ⟨rfl, .inl (by simp only [packA] <;> omega)⟩

theorem subW : ∀ x0 x1 x2, Statement (.subW x0 x1 x2) := by
  intro x0 x1 x2 n w h; cases h; exact .inr ⟨rfl, .inl (by simp only [packA] <;> omega)⟩

theorem shlW : ∀ x0 x1 x2, Statement (.shlW x0 x1 x2) := by
  intro x0 x1 x2 n w h; cases h; exact .inr ⟨rfl, .inl (by simp only [packA] <;> omega)⟩

theorem shrW : ∀ x0 x1 x2, Statement (.shrW x0 x1 x2) := by
  intro x0 x1 x2 n w h; cases h; exact .inr ⟨rfl, .inl (by simp only [packA] <;> omega)⟩

theorem sraW : ∀ x0 x1 x2, Statement (.sraW x0 x1 x2) := by
  intro x0 x1 x2 n w h; cases h; exact .inr ⟨rfl, .inl (by simp only [packA] <;> omega)⟩

theorem mulW : ∀ x0 x1 x2, Statement (.mulW x0 x1 x2) := by
  intro x0 x1 x2 n w h; cases h; exact .inr ⟨rfl, .inl (by simp only [packA] <;> omega)⟩

theorem clz : ∀ x0 x1, Statement (.clz x0 x1) := by
  intro x0 x1 n w h; cases h; exact .inr ⟨rfl, .inl (by simp only [packA] <;> omega)⟩

theorem ctz : ∀ x0 x1, Statement (.ctz x0 x1) := by
  intro x0 x1 n w h; cases h; exact .inr ⟨rfl, .inl (by simp only [packA] <;> omega)⟩

theorem popc : ∀ x0 x1, Statement (.popc x0 x1) := by
  intro x0 x1 n w h; cases h; exact .inr ⟨rfl, .inl (by simp only [packA] <;> omega)⟩

theorem sextB : ∀ x0 x1, Statement (.sextB x0 x1) := by
  intro x0 x1 n w h; cases h; exact .inr ⟨rfl, .inl (by simp only [packA] <;> omega)⟩

theorem sextH : ∀ x0 x1, Statement (.sextH x0 x1) := by
  intro x0 x1 n w h; cases h; exact .inr ⟨rfl, .inl (by simp only [packA] <;> omega)⟩

theorem sextW : ∀ x0 x1, Statement (.sextW x0 x1) := by
  intro x0 x1 n w h; cases h; exact .inr ⟨rfl, .inl (by simp only [packA] <;> omega)⟩

theorem zextB : ∀ x0 x1, Statement (.zextB x0 x1) := by
  intro x0 x1 n w h; cases h; exact .inr ⟨rfl, .inl (by simp only [packA] <;> omega)⟩

theorem zextH : ∀ x0 x1, Statement (.zextH x0 x1) := by
  intro x0 x1 n w h; cases h; exact .inr ⟨rfl, .inl (by simp only [packA] <;> omega)⟩

theorem zextW : ∀ x0 x1, Statement (.zextW x0 x1) := by
  intro x0 x1 n w h; cases h; exact .inr ⟨rfl, .inl (by simp only [packA] <;> omega)⟩

theorem brev : ∀ x0 x1, Statement (.brev x0 x1) := by
  intro x0 x1 n w h; cases h; exact .inr ⟨rfl, .inl (by simp only [packA] <;> omega)⟩

theorem bswap : ∀ x0 x1, Statement (.bswap x0 x1) := by
  intro x0 x1 n w h; cases h; exact .inr ⟨rfl, .inl (by simp only [packA] <;> omega)⟩

theorem bext : ∀ x0 x1 x2 x3, Statement (.bext x0 x1 x2 x3) := by
  intro x0 x1 x2 x3 n w h; cases h; exact .inr ⟨rfl, .inl (by simp only [packI] <;> omega)⟩

theorem bins : ∀ x0 x1 x2 x3, Statement (.bins x0 x1 x2 x3) := by
  intro x0 x1 x2 x3 n w h; cases h; exact .inr ⟨rfl, .inl (by simp only [packI] <;> omega)⟩

theorem addi : ∀ x0 x1 x2, Statement (.addi x0 x1 x2) := by
  intro x0 x1 x2 n w h; cases h; exact .inr ⟨rfl, .inl (by simp only [packI] <;> omega)⟩

theorem andImm : ∀ x0 x1 x2, Statement (.andImm x0 x1 x2) := by
  intro x0 x1 x2 n w h; cases h; exact .inr ⟨rfl, .inl (by simp only [packI] <;> omega)⟩

theorem orImm : ∀ x0 x1 x2, Statement (.orImm x0 x1 x2) := by
  intro x0 x1 x2 n w h; cases h; exact .inr ⟨rfl, .inl (by simp only [packI] <;> omega)⟩

theorem xorImm : ∀ x0 x1 x2, Statement (.xorImm x0 x1 x2) := by
  intro x0 x1 x2 n w h; cases h; exact .inr ⟨rfl, .inl (by simp only [packI] <;> omega)⟩

theorem slti : ∀ x0 x1 x2, Statement (.slti x0 x1 x2) := by
  intro x0 x1 x2 n w h; cases h; exact .inr ⟨rfl, .inl (by simp only [packI] <;> omega)⟩

theorem sltiu : ∀ x0 x1 x2, Statement (.sltiu x0 x1 x2) := by
  intro x0 x1 x2 n w h; cases h; exact .inr ⟨rfl, .inl (by simp only [packI] <;> omega)⟩

theorem shli : ∀ x0 x1 x2, Statement (.shli x0 x1 x2) := by
  intro x0 x1 x2 n w h; cases h; exact .inr ⟨rfl, .inl (by simp only [packI] <;> omega)⟩

theorem shri : ∀ x0 x1 x2, Statement (.shri x0 x1 x2) := by
  intro x0 x1 x2 n w h; cases h; exact .inr ⟨rfl, .inl (by simp only [packI] <;> omega)⟩

theorem srai : ∀ x0 x1 x2, Statement (.srai x0 x1 x2) := by
  intro x0 x1 x2 n w h; cases h; exact .inr ⟨rfl, .inl (by simp only [packI] <;> omega)⟩

theorem rori : ∀ x0 x1 x2, Statement (.rori x0 x1 x2) := by
  intro x0 x1 x2 n w h; cases h; exact .inr ⟨rfl, .inl (by simp only [packI] <;> omega)⟩

theorem addiW : ∀ x0 x1 x2, Statement (.addiW x0 x1 x2) := by
  intro x0 x1 x2 n w h; cases h; exact .inr ⟨rfl, .inl (by simp only [packI] <;> omega)⟩

theorem li : ∀ x0 x1, Statement (.li x0 x1) := by
  intro x0 x1 n w h; cases h; exact .inr ⟨rfl, .inl (by simp only [packU] <;> omega)⟩

theorem lis : ∀ x0 x1, Statement (.lis x0 x1) := by
  intro x0 x1 n w h; cases h; exact .inr ⟨rfl, .inl (by simp only [packU] <;> omega)⟩

theorem lpc : ∀ x0 x1, Statement (.lpc x0 x1) := by
  intro x0 x1 n w h; cases h; exact .inr ⟨rfl, .inl (by simp only [packU] <;> omega)⟩

theorem jmp : ∀ x0, Statement (.jmp x0) := by
  intro x0 n w h; cases h; exact .inr ⟨rfl, .inl (by simp only [packJ] <;> omega)⟩

theorem call : ∀ x0, Statement (.call x0) := by
  intro x0 n w h; cases h; exact .inr ⟨rfl, .inl (by simp only [packJ] <;> omega)⟩

theorem jr : ∀ x0 x1 x2, Statement (.jr x0 x1 x2) := by
  intro x0 x1 x2 n w h; cases h; exact .inr ⟨rfl, .inl (by simp only [packI] <;> omega)⟩

theorem bEq : ∀ x0 x1 x2, Statement (.bEq x0 x1 x2) := by
  intro x0 x1 x2 n w h; cases h; exact .inr ⟨rfl, .inl (by simp only [packI] <;> omega)⟩

theorem bNe : ∀ x0 x1 x2, Statement (.bNe x0 x1 x2) := by
  intro x0 x1 x2 n w h; cases h; exact .inr ⟨rfl, .inl (by simp only [packI] <;> omega)⟩

theorem bLt : ∀ x0 x1 x2, Statement (.bLt x0 x1 x2) := by
  intro x0 x1 x2 n w h; cases h; exact .inr ⟨rfl, .inl (by simp only [packI] <;> omega)⟩

theorem bGe : ∀ x0 x1 x2, Statement (.bGe x0 x1 x2) := by
  intro x0 x1 x2 n w h; cases h; exact .inr ⟨rfl, .inl (by simp only [packI] <;> omega)⟩

theorem bLtu : ∀ x0 x1 x2, Statement (.bLtu x0 x1 x2) := by
  intro x0 x1 x2 n w h; cases h; exact .inr ⟨rfl, .inl (by simp only [packI] <;> omega)⟩

theorem bGeu : ∀ x0 x1 x2, Statement (.bGeu x0 x1 x2) := by
  intro x0 x1 x2 n w h; cases h; exact .inr ⟨rfl, .inl (by simp only [packI] <;> omega)⟩

theorem bBs : ∀ x0 x1 x2, Statement (.bBs x0 x1 x2) := by
  intro x0 x1 x2 n w h; cases h; exact .inr ⟨rfl, .inl (by simp only [packI] <;> omega)⟩

theorem bBc : ∀ x0 x1 x2, Statement (.bBc x0 x1 x2) := by
  intro x0 x1 x2 n w h; cases h; exact .inr ⟨rfl, .inl (by simp only [packI] <;> omega)⟩

theorem ldB : ∀ x0 x1 x2, Statement (.ldB x0 x1 x2) := by
  intro x0 x1 x2 n w h; cases h; exact .inr ⟨rfl, .inl (by simp only [packI] <;> omega)⟩

theorem ldH : ∀ x0 x1 x2, Statement (.ldH x0 x1 x2) := by
  intro x0 x1 x2 n w h; cases h; exact .inr ⟨rfl, .inl (by simp only [packI] <;> omega)⟩

theorem ldW : ∀ x0 x1 x2, Statement (.ldW x0 x1 x2) := by
  intro x0 x1 x2 n w h; cases h; exact .inr ⟨rfl, .inl (by simp only [packI] <;> omega)⟩

theorem ldD : ∀ x0 x1 x2, Statement (.ldD x0 x1 x2) := by
  intro x0 x1 x2 n w h; cases h; exact .inr ⟨rfl, .inl (by simp only [packI] <;> omega)⟩

theorem ldBu : ∀ x0 x1 x2, Statement (.ldBu x0 x1 x2) := by
  intro x0 x1 x2 n w h; cases h; exact .inr ⟨rfl, .inl (by simp only [packI] <;> omega)⟩

theorem ldHu : ∀ x0 x1 x2, Statement (.ldHu x0 x1 x2) := by
  intro x0 x1 x2 n w h; cases h; exact .inr ⟨rfl, .inl (by simp only [packI] <;> omega)⟩

theorem ldWu : ∀ x0 x1 x2, Statement (.ldWu x0 x1 x2) := by
  intro x0 x1 x2 n w h; cases h; exact .inr ⟨rfl, .inl (by simp only [packI] <;> omega)⟩

theorem stB : ∀ x0 x1 x2, Statement (.stB x0 x1 x2) := by
  intro x0 x1 x2 n w h; cases h; exact .inr ⟨rfl, .inl (by simp only [packI] <;> omega)⟩

theorem stH : ∀ x0 x1 x2, Statement (.stH x0 x1 x2) := by
  intro x0 x1 x2 n w h; cases h; exact .inr ⟨rfl, .inl (by simp only [packI] <;> omega)⟩

theorem stW : ∀ x0 x1 x2, Statement (.stW x0 x1 x2) := by
  intro x0 x1 x2 n w h; cases h; exact .inr ⟨rfl, .inl (by simp only [packI] <;> omega)⟩

theorem stD : ∀ x0 x1 x2, Statement (.stD x0 x1 x2) := by
  intro x0 x1 x2 n w h; cases h; exact .inr ⟨rfl, .inl (by simp only [packI] <;> omega)⟩

theorem ldx : ∀ x0 x1 x2 x3 x4, Statement (.ldx x0 x1 x2 x3 x4) := by
  intro x0 x1 x2 x3 x4 n w h; cases h; exact .inr ⟨rfl, .inl (by simp only [packA] <;> omega)⟩

theorem ldxu : ∀ x0 x1 x2 x3 x4, Statement (.ldxu x0 x1 x2 x3 x4) := by
  intro x0 x1 x2 x3 x4 n w h; cases h; exact .inr ⟨rfl, .inl (by simp only [packA] <;> omega)⟩

theorem stx : ∀ x0 x1 x2 x3 x4, Statement (.stx x0 x1 x2 x3 x4) := by
  intro x0 x1 x2 x3 x4 n w h; cases h; exact .inr ⟨rfl, .inl (by simp only [packA] <;> omega)⟩

theorem ldaq : ∀ x0 x1 x2 x3, Statement (.ldaq x0 x1 x2 x3) := by
  intro x0 x1 x2 x3 n w h; cases h; exact .inr ⟨rfl, .inl (by simp only [packM] <;> omega)⟩

theorem strl : ∀ x0 x1 x2 x3, Statement (.strl x0 x1 x2 x3) := by
  intro x0 x1 x2 x3 n w h; cases h; exact .inr ⟨rfl, .inl (by simp only [packM] <;> omega)⟩

theorem amoAdd : ∀ x0 x1 x2 x3 x4, Statement (.amoAdd x0 x1 x2 x3 x4) := by
  intro x0 x1 x2 x3 x4 n w h; cases h; exact .inr ⟨rfl, .inl (by simp only [packM] <;> omega)⟩

theorem amoAnd : ∀ x0 x1 x2 x3 x4, Statement (.amoAnd x0 x1 x2 x3 x4) := by
  intro x0 x1 x2 x3 x4 n w h; cases h; exact .inr ⟨rfl, .inl (by simp only [packM] <;> omega)⟩

theorem amoOr : ∀ x0 x1 x2 x3 x4, Statement (.amoOr x0 x1 x2 x3 x4) := by
  intro x0 x1 x2 x3 x4 n w h; cases h; exact .inr ⟨rfl, .inl (by simp only [packM] <;> omega)⟩

theorem amoXor : ∀ x0 x1 x2 x3 x4, Statement (.amoXor x0 x1 x2 x3 x4) := by
  intro x0 x1 x2 x3 x4 n w h; cases h; exact .inr ⟨rfl, .inl (by simp only [packM] <;> omega)⟩

theorem amoMin : ∀ x0 x1 x2 x3 x4, Statement (.amoMin x0 x1 x2 x3 x4) := by
  intro x0 x1 x2 x3 x4 n w h; cases h; exact .inr ⟨rfl, .inl (by simp only [packM] <;> omega)⟩

theorem amoMax : ∀ x0 x1 x2 x3 x4, Statement (.amoMax x0 x1 x2 x3 x4) := by
  intro x0 x1 x2 x3 x4 n w h; cases h; exact .inr ⟨rfl, .inl (by simp only [packM] <;> omega)⟩

theorem amoMinu : ∀ x0 x1 x2 x3 x4, Statement (.amoMinu x0 x1 x2 x3 x4) := by
  intro x0 x1 x2 x3 x4 n w h; cases h; exact .inr ⟨rfl, .inl (by simp only [packM] <;> omega)⟩

theorem amoMaxu : ∀ x0 x1 x2 x3 x4, Statement (.amoMaxu x0 x1 x2 x3 x4) := by
  intro x0 x1 x2 x3 x4 n w h; cases h; exact .inr ⟨rfl, .inl (by simp only [packM] <;> omega)⟩

theorem amoSwap : ∀ x0 x1 x2 x3 x4, Statement (.amoSwap x0 x1 x2 x3 x4) := by
  intro x0 x1 x2 x3 x4 n w h; cases h; exact .inr ⟨rfl, .inl (by simp only [packM] <;> omega)⟩

theorem amoFadd : ∀ x0 x1 x2 x3 x4, Statement (.amoFadd x0 x1 x2 x3 x4) := by
  intro x0 x1 x2 x3 x4 n w h; cases h; exact .inr ⟨rfl, .inl (by simp only [packM] <;> omega)⟩

theorem amoFmax : ∀ x0 x1 x2 x3 x4, Statement (.amoFmax x0 x1 x2 x3 x4) := by
  intro x0 x1 x2 x3 x4 n w h; cases h; exact .inr ⟨rfl, .inl (by simp only [packM] <;> omega)⟩

theorem amoFmin : ∀ x0 x1 x2 x3 x4, Statement (.amoFmin x0 x1 x2 x3 x4) := by
  intro x0 x1 x2 x3 x4 n w h; cases h; exact .inr ⟨rfl, .inl (by simp only [packM] <;> omega)⟩

theorem amoFamax : ∀ x0 x1 x2 x3 x4, Statement (.amoFamax x0 x1 x2 x3 x4) := by
  intro x0 x1 x2 x3 x4 n w h; cases h; exact .inr ⟨rfl, .inl (by simp only [packM] <;> omega)⟩

theorem amoWAdd : ∀ x0 x1 x2 x3 x4, Statement (.amoWAdd x0 x1 x2 x3 x4) := by
  intro x0 x1 x2 x3 x4 n w h; cases h; exact .inr ⟨rfl, .inl (by simp only [packM] <;> omega)⟩

theorem amoWAnd : ∀ x0 x1 x2 x3 x4, Statement (.amoWAnd x0 x1 x2 x3 x4) := by
  intro x0 x1 x2 x3 x4 n w h; cases h; exact .inr ⟨rfl, .inl (by simp only [packM] <;> omega)⟩

theorem amoWOr : ∀ x0 x1 x2 x3 x4, Statement (.amoWOr x0 x1 x2 x3 x4) := by
  intro x0 x1 x2 x3 x4 n w h; cases h; exact .inr ⟨rfl, .inl (by simp only [packM] <;> omega)⟩

theorem amoWXor : ∀ x0 x1 x2 x3 x4, Statement (.amoWXor x0 x1 x2 x3 x4) := by
  intro x0 x1 x2 x3 x4 n w h; cases h; exact .inr ⟨rfl, .inl (by simp only [packM] <;> omega)⟩

theorem amoWMin : ∀ x0 x1 x2 x3 x4, Statement (.amoWMin x0 x1 x2 x3 x4) := by
  intro x0 x1 x2 x3 x4 n w h; cases h; exact .inr ⟨rfl, .inl (by simp only [packM] <;> omega)⟩

theorem amoWMax : ∀ x0 x1 x2 x3 x4, Statement (.amoWMax x0 x1 x2 x3 x4) := by
  intro x0 x1 x2 x3 x4 n w h; cases h; exact .inr ⟨rfl, .inl (by simp only [packM] <;> omega)⟩

theorem amoWMinu : ∀ x0 x1 x2 x3 x4, Statement (.amoWMinu x0 x1 x2 x3 x4) := by
  intro x0 x1 x2 x3 x4 n w h; cases h; exact .inr ⟨rfl, .inl (by simp only [packM] <;> omega)⟩

theorem amoWMaxu : ∀ x0 x1 x2 x3 x4, Statement (.amoWMaxu x0 x1 x2 x3 x4) := by
  intro x0 x1 x2 x3 x4 n w h; cases h; exact .inr ⟨rfl, .inl (by simp only [packM] <;> omega)⟩

theorem amoWSwap : ∀ x0 x1 x2 x3 x4, Statement (.amoWSwap x0 x1 x2 x3 x4) := by
  intro x0 x1 x2 x3 x4 n w h; cases h; exact .inr ⟨rfl, .inl (by simp only [packM] <;> omega)⟩

theorem amoWFadd : ∀ x0 x1 x2 x3 x4, Statement (.amoWFadd x0 x1 x2 x3 x4) := by
  intro x0 x1 x2 x3 x4 n w h; cases h; exact .inr ⟨rfl, .inl (by simp only [packM] <;> omega)⟩

theorem amoWFmax : ∀ x0 x1 x2 x3 x4, Statement (.amoWFmax x0 x1 x2 x3 x4) := by
  intro x0 x1 x2 x3 x4 n w h; cases h; exact .inr ⟨rfl, .inl (by simp only [packM] <;> omega)⟩

theorem amoWFmin : ∀ x0 x1 x2 x3 x4, Statement (.amoWFmin x0 x1 x2 x3 x4) := by
  intro x0 x1 x2 x3 x4 n w h; cases h; exact .inr ⟨rfl, .inl (by simp only [packM] <;> omega)⟩

theorem amoWFamax : ∀ x0 x1 x2 x3 x4, Statement (.amoWFamax x0 x1 x2 x3 x4) := by
  intro x0 x1 x2 x3 x4 n w h; cases h; exact .inr ⟨rfl, .inl (by simp only [packM] <;> omega)⟩

theorem cas : ∀ x0 x1 x2 x3 x4, Statement (.cas x0 x1 x2 x3 x4) := by
  intro x0 x1 x2 x3 x4 n w h; cases h; exact .inr ⟨rfl, .inl (by simp only [packM] <;> omega)⟩

theorem casW : ∀ x0 x1 x2 x3 x4, Statement (.casW x0 x1 x2 x3 x4) := by
  intro x0 x1 x2 x3 x4 n w h; cases h; exact .inr ⟨rfl, .inl (by simp only [packM] <;> omega)⟩

theorem fence : ∀ x0 x1 x2, Statement (.fence x0 x1 x2) := by
  intro x0 x1 x2 n w h; cases h; exact .inr ⟨rfl, .inl (by simp only [packM] <;> omega)⟩

theorem waitm : ∀ x0 x1 x2 x3 x4 x5, Statement (.waitm x0 x1 x2 x3 x4 x5) := by
  intro x0 x1 x2 x3 x4 x5 n w h; cases h; exact .inr ⟨rfl, .inl (by simp only [packM] <;> omega)⟩

theorem pause : ∀ x0, Statement (.pause x0) := by
  intro x0 n w h; cases h; exact .inr ⟨rfl, .inl (by simp only [packI] <;> omega)⟩

theorem faddD : ∀ x0 x1 x2 x3, Statement (.faddD x0 x1 x2 x3) := by
  intro x0 x1 x2 x3 n w h; cases h; exact .inr ⟨rfl, .inl (by simp only [packA] <;> omega)⟩

theorem fsubD : ∀ x0 x1 x2 x3, Statement (.fsubD x0 x1 x2 x3) := by
  intro x0 x1 x2 x3 n w h; cases h; exact .inr ⟨rfl, .inl (by simp only [packA] <;> omega)⟩

theorem fmulD : ∀ x0 x1 x2 x3, Statement (.fmulD x0 x1 x2 x3) := by
  intro x0 x1 x2 x3 n w h; cases h; exact .inr ⟨rfl, .inl (by simp only [packA] <;> omega)⟩

theorem fminD : ∀ x0 x1 x2, Statement (.fminD x0 x1 x2) := by
  intro x0 x1 x2 n w h; cases h; exact .inr ⟨rfl, .inl (by simp only [packA] <;> omega)⟩

theorem fmaxD : ∀ x0 x1 x2, Statement (.fmaxD x0 x1 x2) := by
  intro x0 x1 x2 n w h; cases h; exact .inr ⟨rfl, .inl (by simp only [packA] <;> omega)⟩

theorem fcmpeqD : ∀ x0 x1 x2, Statement (.fcmpeqD x0 x1 x2) := by
  intro x0 x1 x2 n w h; cases h; exact .inr ⟨rfl, .inl (by simp only [packA] <;> omega)⟩

theorem fcmpltD : ∀ x0 x1 x2, Statement (.fcmpltD x0 x1 x2) := by
  intro x0 x1 x2 n w h; cases h; exact .inr ⟨rfl, .inl (by simp only [packA] <;> omega)⟩

theorem fcmpleD : ∀ x0 x1 x2, Statement (.fcmpleD x0 x1 x2) := by
  intro x0 x1 x2 n w h; cases h; exact .inr ⟨rfl, .inl (by simp only [packA] <;> omega)⟩

theorem fsgnjD : ∀ x0 x1 x2, Statement (.fsgnjD x0 x1 x2) := by
  intro x0 x1 x2 n w h; cases h; exact .inr ⟨rfl, .inl (by simp only [packA] <;> omega)⟩

theorem fsgnjnD : ∀ x0 x1 x2, Statement (.fsgnjnD x0 x1 x2) := by
  intro x0 x1 x2 n w h; cases h; exact .inr ⟨rfl, .inl (by simp only [packA] <;> omega)⟩

theorem fsgnjxD : ∀ x0 x1 x2, Statement (.fsgnjxD x0 x1 x2) := by
  intro x0 x1 x2 n w h; cases h; exact .inr ⟨rfl, .inl (by simp only [packA] <;> omega)⟩

theorem fclassD : ∀ x0 x1, Statement (.fclassD x0 x1) := by
  intro x0 x1 n w h; cases h; exact .inr ⟨rfl, .inl (by simp only [packA] <;> omega)⟩

theorem frcpD : ∀ x0 x1 x2, Statement (.frcpD x0 x1 x2) := by
  intro x0 x1 x2 n w h; cases h; exact .inr ⟨rfl, .inl (by simp only [packA] <;> omega)⟩

theorem frsqD : ∀ x0 x1 x2, Statement (.frsqD x0 x1 x2) := by
  intro x0 x1 x2 n w h; cases h; exact .inr ⟨rfl, .inl (by simp only [packA] <;> omega)⟩

theorem faddS : ∀ x0 x1 x2 x3, Statement (.faddS x0 x1 x2 x3) := by
  intro x0 x1 x2 x3 n w h; cases h; exact .inr ⟨rfl, .inl (by simp only [packA] <;> omega)⟩

theorem fsubS : ∀ x0 x1 x2 x3, Statement (.fsubS x0 x1 x2 x3) := by
  intro x0 x1 x2 x3 n w h; cases h; exact .inr ⟨rfl, .inl (by simp only [packA] <;> omega)⟩

theorem fmulS : ∀ x0 x1 x2 x3, Statement (.fmulS x0 x1 x2 x3) := by
  intro x0 x1 x2 x3 n w h; cases h; exact .inr ⟨rfl, .inl (by simp only [packA] <;> omega)⟩

theorem fminS : ∀ x0 x1 x2, Statement (.fminS x0 x1 x2) := by
  intro x0 x1 x2 n w h; cases h; exact .inr ⟨rfl, .inl (by simp only [packA] <;> omega)⟩

theorem fmaxS : ∀ x0 x1 x2, Statement (.fmaxS x0 x1 x2) := by
  intro x0 x1 x2 n w h; cases h; exact .inr ⟨rfl, .inl (by simp only [packA] <;> omega)⟩

theorem fcmpeqS : ∀ x0 x1 x2, Statement (.fcmpeqS x0 x1 x2) := by
  intro x0 x1 x2 n w h; cases h; exact .inr ⟨rfl, .inl (by simp only [packA] <;> omega)⟩

theorem fcmpltS : ∀ x0 x1 x2, Statement (.fcmpltS x0 x1 x2) := by
  intro x0 x1 x2 n w h; cases h; exact .inr ⟨rfl, .inl (by simp only [packA] <;> omega)⟩

theorem fcmpleS : ∀ x0 x1 x2, Statement (.fcmpleS x0 x1 x2) := by
  intro x0 x1 x2 n w h; cases h; exact .inr ⟨rfl, .inl (by simp only [packA] <;> omega)⟩

theorem fsgnjS : ∀ x0 x1 x2, Statement (.fsgnjS x0 x1 x2) := by
  intro x0 x1 x2 n w h; cases h; exact .inr ⟨rfl, .inl (by simp only [packA] <;> omega)⟩

theorem fsgnjnS : ∀ x0 x1 x2, Statement (.fsgnjnS x0 x1 x2) := by
  intro x0 x1 x2 n w h; cases h; exact .inr ⟨rfl, .inl (by simp only [packA] <;> omega)⟩

theorem fsgnjxS : ∀ x0 x1 x2, Statement (.fsgnjxS x0 x1 x2) := by
  intro x0 x1 x2 n w h; cases h; exact .inr ⟨rfl, .inl (by simp only [packA] <;> omega)⟩

theorem fclassS : ∀ x0 x1, Statement (.fclassS x0 x1) := by
  intro x0 x1 n w h; cases h; exact .inr ⟨rfl, .inl (by simp only [packA] <;> omega)⟩

theorem frcpS : ∀ x0 x1 x2, Statement (.frcpS x0 x1 x2) := by
  intro x0 x1 x2 n w h; cases h; exact .inr ⟨rfl, .inl (by simp only [packA] <;> omega)⟩

theorem frsqS : ∀ x0 x1 x2, Statement (.frsqS x0 x1 x2) := by
  intro x0 x1 x2 n w h; cases h; exact .inr ⟨rfl, .inl (by simp only [packA] <;> omega)⟩

theorem fmaD : ∀ x0 x1 x2 x3, Statement (.fmaD x0 x1 x2 x3) := by
  intro x0 x1 x2 x3 n w h; cases h; exact .inr ⟨rfl, .inl (by simp only [packA] <;> omega)⟩

theorem fmsD : ∀ x0 x1 x2 x3, Statement (.fmsD x0 x1 x2 x3) := by
  intro x0 x1 x2 x3 n w h; cases h; exact .inr ⟨rfl, .inl (by simp only [packA] <;> omega)⟩

theorem fnmaD : ∀ x0 x1 x2 x3, Statement (.fnmaD x0 x1 x2 x3) := by
  intro x0 x1 x2 x3 n w h; cases h; exact .inr ⟨rfl, .inl (by simp only [packA] <;> omega)⟩

theorem fnmsD : ∀ x0 x1 x2 x3, Statement (.fnmsD x0 x1 x2 x3) := by
  intro x0 x1 x2 x3 n w h; cases h; exact .inr ⟨rfl, .inl (by simp only [packA] <;> omega)⟩

theorem fmaS : ∀ x0 x1 x2 x3, Statement (.fmaS x0 x1 x2 x3) := by
  intro x0 x1 x2 x3 n w h; cases h; exact .inr ⟨rfl, .inl (by simp only [packA] <;> omega)⟩

theorem fmsS : ∀ x0 x1 x2 x3, Statement (.fmsS x0 x1 x2 x3) := by
  intro x0 x1 x2 x3 n w h; cases h; exact .inr ⟨rfl, .inl (by simp only [packA] <;> omega)⟩

theorem fnmaS : ∀ x0 x1 x2 x3, Statement (.fnmaS x0 x1 x2 x3) := by
  intro x0 x1 x2 x3 n w h; cases h; exact .inr ⟨rfl, .inl (by simp only [packA] <;> omega)⟩

theorem fnmsS : ∀ x0 x1 x2 x3, Statement (.fnmsS x0 x1 x2 x3) := by
  intro x0 x1 x2 x3 n w h; cases h; exact .inr ⟨rfl, .inl (by simp only [packA] <;> omega)⟩

theorem fcvt : ∀ x0 x1 x2 x3 x4, Statement (.fcvt x0 x1 x2 x3 x4) := by
  intro x0 x1 x2 x3 x4 n w h; cases h; exact .inr ⟨rfl, .inl (by simp only [packA] <;> omega)⟩

theorem fmt : ∀ x0 x1 x2 x3 x4 x5 x6, Statement (.fmt x0 x1 x2 x3 x4 x5 x6) := by
  intro x0 x1 x2 x3 x4 x5 x6 n w h; cases h; exact .inr ⟨rfl, .inl (by simp only [packF] <;> omega)⟩

theorem cbld : ∀ x0 x1 x2, Statement (.cbld x0 x1 x2) := by
  intro x0 x1 x2 n w h; cases h; exact .inr ⟨rfl, .inl (by simp only [packI] <;> omega)⟩

theorem scset : ∀ x0 x1, Statement (.scset x0 x1) := by
  intro x0 x1 n w h; cases h; exact .inr ⟨rfl, .inl (by simp only [packA] <;> omega)⟩

theorem scget : ∀ x0 x1, Statement (.scget x0 x1) := by
  intro x0 x1 n w h; cases h; exact .inr ⟨rfl, .inl (by simp only [packA] <;> omega)⟩

theorem vadd : ∀ x0 x1 x2 x3 x4, Statement (.vadd x0 x1 x2 x3 x4) := by
  intro x0 x1 x2 x3 x4 n w h; cases h; exact .inr ⟨rfl, .inl (by simp only [packV] <;> omega)⟩

theorem vsub : ∀ x0 x1 x2 x3 x4, Statement (.vsub x0 x1 x2 x3 x4) := by
  intro x0 x1 x2 x3 x4 n w h; cases h; exact .inr ⟨rfl, .inl (by simp only [packV] <;> omega)⟩

theorem vmul : ∀ x0 x1 x2 x3 x4, Statement (.vmul x0 x1 x2 x3 x4) := by
  intro x0 x1 x2 x3 x4 n w h; cases h; exact .inr ⟨rfl, .inl (by simp only [packV] <;> omega)⟩

theorem vmin : ∀ x0 x1 x2 x3 x4, Statement (.vmin x0 x1 x2 x3 x4) := by
  intro x0 x1 x2 x3 x4 n w h; cases h; exact .inr ⟨rfl, .inl (by simp only [packV] <;> omega)⟩

theorem vmax : ∀ x0 x1 x2 x3 x4, Statement (.vmax x0 x1 x2 x3 x4) := by
  intro x0 x1 x2 x3 x4 n w h; cases h; exact .inr ⟨rfl, .inl (by simp only [packV] <;> omega)⟩

theorem vand : ∀ x0 x1 x2 x3 x4, Statement (.vand x0 x1 x2 x3 x4) := by
  intro x0 x1 x2 x3 x4 n w h; cases h; exact .inr ⟨rfl, .inl (by simp only [packV] <;> omega)⟩

theorem vor : ∀ x0 x1 x2 x3 x4, Statement (.vor x0 x1 x2 x3 x4) := by
  intro x0 x1 x2 x3 x4 n w h; cases h; exact .inr ⟨rfl, .inl (by simp only [packV] <;> omega)⟩

theorem vxor : ∀ x0 x1 x2 x3 x4, Statement (.vxor x0 x1 x2 x3 x4) := by
  intro x0 x1 x2 x3 x4 n w h; cases h; exact .inr ⟨rfl, .inl (by simp only [packV] <;> omega)⟩

theorem vandn : ∀ x0 x1 x2 x3 x4, Statement (.vandn x0 x1 x2 x3 x4) := by
  intro x0 x1 x2 x3 x4 n w h; cases h; exact .inr ⟨rfl, .inl (by simp only [packV] <;> omega)⟩

theorem vshl : ∀ x0 x1 x2 x3 x4, Statement (.vshl x0 x1 x2 x3 x4) := by
  intro x0 x1 x2 x3 x4 n w h; cases h; exact .inr ⟨rfl, .inl (by simp only [packV] <;> omega)⟩

theorem vshr : ∀ x0 x1 x2 x3 x4, Statement (.vshr x0 x1 x2 x3 x4) := by
  intro x0 x1 x2 x3 x4 n w h; cases h; exact .inr ⟨rfl, .inl (by simp only [packV] <;> omega)⟩

theorem vsra : ∀ x0 x1 x2 x3 x4, Statement (.vsra x0 x1 x2 x3 x4) := by
  intro x0 x1 x2 x3 x4 n w h; cases h; exact .inr ⟨rfl, .inl (by simp only [packV] <;> omega)⟩

theorem vabs : ∀ x0 x1 x2 x3, Statement (.vabs x0 x1 x2 x3) := by
  intro x0 x1 x2 x3 n w h; cases h; exact .inr ⟨rfl, .inl (by simp only [packV] <;> omega)⟩

theorem vneg : ∀ x0 x1 x2 x3, Statement (.vneg x0 x1 x2 x3) := by
  intro x0 x1 x2 x3 n w h; cases h; exact .inr ⟨rfl, .inl (by simp only [packV] <;> omega)⟩

theorem vsel : ∀ x0 x1 x2 x3 x4, Statement (.vsel x0 x1 x2 x3 x4) := by
  intro x0 x1 x2 x3 x4 n w h; cases h; exact .inr ⟨rfl, .inl (by simp only [packV] <;> omega)⟩

theorem vmov : ∀ x0 x1 x2 x3, Statement (.vmov x0 x1 x2 x3) := by
  intro x0 x1 x2 x3 n w h; cases h; exact .inr ⟨rfl, .inl (by simp only [packV] <;> omega)⟩

theorem vmulh : ∀ x0 x1 x2 x3 x4, Statement (.vmulh x0 x1 x2 x3 x4) := by
  intro x0 x1 x2 x3 x4 n w h; cases h; exact .inr ⟨rfl, .inl (by simp only [packV] <;> omega)⟩

theorem vadds : ∀ x0 x1 x2 x3 x4, Statement (.vadds x0 x1 x2 x3 x4) := by
  intro x0 x1 x2 x3 x4 n w h; cases h; exact .inr ⟨rfl, .inl (by simp only [packV] <;> omega)⟩

theorem vsubs : ∀ x0 x1 x2 x3 x4, Statement (.vsubs x0 x1 x2 x3 x4) := by
  intro x0 x1 x2 x3 x4 n w h; cases h; exact .inr ⟨rfl, .inl (by simp only [packV] <;> omega)⟩

theorem vfma : ∀ x0 x1 x2 x3 x4 x5, Statement (.vfma x0 x1 x2 x3 x4 x5) := by
  intro x0 x1 x2 x3 x4 x5 n w h; cases h; exact .inr ⟨rfl, .inl (by simp only [packV] <;> omega)⟩

theorem vfms : ∀ x0 x1 x2 x3 x4 x5, Statement (.vfms x0 x1 x2 x3 x4 x5) := by
  intro x0 x1 x2 x3 x4 x5 n w h; cases h; exact .inr ⟨rfl, .inl (by simp only [packV] <;> omega)⟩

theorem vfnma : ∀ x0 x1 x2 x3 x4 x5, Statement (.vfnma x0 x1 x2 x3 x4 x5) := by
  intro x0 x1 x2 x3 x4 x5 n w h; cases h; exact .inr ⟨rfl, .inl (by simp only [packV] <;> omega)⟩

theorem vfnms : ∀ x0 x1 x2 x3 x4 x5, Statement (.vfnms x0 x1 x2 x3 x4 x5) := by
  intro x0 x1 x2 x3 x4 x5 n w h; cases h; exact .inr ⟨rfl, .inl (by simp only [packV] <;> omega)⟩

theorem vcmp : ∀ x0 x1 x2 x3 x4 x5, Statement (.vcmp x0 x1 x2 x3 x4 x5) := by
  intro x0 x1 x2 x3 x4 x5 n w h; cases h; exact .inr ⟨rfl, .inl (by simp only [packV] <;> omega)⟩

theorem vredadd : ∀ x0 x1 x2 x3, Statement (.vredadd x0 x1 x2 x3) := by
  intro x0 x1 x2 x3 n w h; cases h; exact .inr ⟨rfl, .inl (by simp only [packV] <;> omega)⟩

theorem vredmin : ∀ x0 x1 x2 x3, Statement (.vredmin x0 x1 x2 x3) := by
  intro x0 x1 x2 x3 n w h; cases h; exact .inr ⟨rfl, .inl (by simp only [packV] <;> omega)⟩

theorem vredmax : ∀ x0 x1 x2 x3, Statement (.vredmax x0 x1 x2 x3) := by
  intro x0 x1 x2 x3 n w h; cases h; exact .inr ⟨rfl, .inl (by simp only [packV] <;> omega)⟩

theorem vredamax : ∀ x0 x1 x2 x3, Statement (.vredamax x0 x1 x2 x3) := by
  intro x0 x1 x2 x3 n w h; cases h; exact .inr ⟨rfl, .inl (by simp only [packV] <;> omega)⟩

theorem vredor : ∀ x0 x1 x2 x3, Statement (.vredor x0 x1 x2 x3) := by
  intro x0 x1 x2 x3 n w h; cases h; exact .inr ⟨rfl, .inl (by simp only [packV] <;> omega)⟩

theorem vredand : ∀ x0 x1 x2 x3, Statement (.vredand x0 x1 x2 x3) := by
  intro x0 x1 x2 x3 n w h; cases h; exact .inr ⟨rfl, .inl (by simp only [packV] <;> omega)⟩

theorem vbcast : ∀ x0 x1 x2, Statement (.vbcast x0 x1 x2) := by
  intro x0 x1 x2 n w h; cases h; exact .inr ⟨rfl, .inl (by simp only [packVX] <;> omega)⟩

theorem vins : ∀ x0 x1 x2 x3, Statement (.vins x0 x1 x2 x3) := by
  intro x0 x1 x2 x3 n w h; cases h; exact .inr ⟨rfl, .inl (by simp only [packVX] <;> omega)⟩

theorem vextr : ∀ x0 x1 x2 x3, Statement (.vextr x0 x1 x2 x3) := by
  intro x0 x1 x2 x3 n w h; cases h; exact .inr ⟨rfl, .inl (by simp only [packVX] <;> omega)⟩

theorem vperm : ∀ x0 x1 x2 x3, Statement (.vperm x0 x1 x2 x3) := by
  intro x0 x1 x2 x3 n w h; cases h; exact .inr ⟨rfl, .inl (by simp only [packV] <;> omega)⟩

theorem vslideup : ∀ x0 x1 x2 x3, Statement (.vslideup x0 x1 x2 x3) := by
  intro x0 x1 x2 x3 n w h; cases h; exact .inr ⟨rfl, .inl (by simp only [packV] <;> omega)⟩

theorem vslidedn : ∀ x0 x1 x2 x3, Statement (.vslidedn x0 x1 x2 x3) := by
  intro x0 x1 x2 x3 n w h; cases h; exact .inr ⟨rfl, .inl (by simp only [packV] <;> omega)⟩

theorem vzip : ∀ x0 x1 x2 x3, Statement (.vzip x0 x1 x2 x3) := by
  intro x0 x1 x2 x3 n w h; cases h; exact .inr ⟨rfl, .inl (by simp only [packV] <;> omega)⟩

theorem vunzip : ∀ x0 x1 x2 x3, Statement (.vunzip x0 x1 x2 x3) := by
  intro x0 x1 x2 x3 n w h; cases h; exact .inr ⟨rfl, .inl (by simp only [packV] <;> omega)⟩

theorem viota : ∀ x0 x1, Statement (.viota x0 x1) := by
  intro x0 x1 n w h; cases h; exact .inr ⟨rfl, .inl (by simp only [packV] <;> omega)⟩

theorem vcvt : ∀ x0 x1 x2 x3, Statement (.vcvt x0 x1 x2 x3) := by
  intro x0 x1 x2 x3 n w h; cases h; exact .inr ⟨rfl, .inl (by simp only [packV] <;> omega)⟩

theorem vcvtLo : ∀ x0 x1 x2 x3, Statement (.vcvtLo x0 x1 x2 x3) := by
  intro x0 x1 x2 x3 n w h; cases h; exact .inr ⟨rfl, .inl (by simp only [packV] <;> omega)⟩

theorem vcvtHi : ∀ x0 x1 x2 x3, Statement (.vcvtHi x0 x1 x2 x3) := by
  intro x0 x1 x2 x3 n w h; cases h; exact .inr ⟨rfl, .inl (by simp only [packV] <;> omega)⟩

theorem vcvtNarrow : ∀ x0 x1 x2 x3 x4, Statement (.vcvtNarrow x0 x1 x2 x3 x4) := by
  intro x0 x1 x2 x3 x4 n w h; cases h; exact .inr ⟨rfl, .inl (by simp only [packV] <;> omega)⟩

theorem vpack : ∀ x0 x1 x2, Statement (.vpack x0 x1 x2) := by
  intro x0 x1 x2 n w h; cases h; exact .inr ⟨rfl, .inl (by simp only [packV] <;> omega)⟩

theorem vunpkLo : ∀ x0 x1, Statement (.vunpkLo x0 x1) := by
  intro x0 x1 n w h; cases h; exact .inr ⟨rfl, .inl (by simp only [packV] <;> omega)⟩

theorem vunpkHi : ∀ x0 x1, Statement (.vunpkHi x0 x1) := by
  intro x0 x1 n w h; cases h; exact .inr ⟨rfl, .inl (by simp only [packV] <;> omega)⟩

theorem vdeq : ∀ x0 x1 x2, Statement (.vdeq x0 x1 x2) := by
  intro x0 x1 x2 n w h; cases h; exact .inr ⟨rfl, .inl (by simp only [packV] <;> omega)⟩

theorem vscale : ∀ x0 x1, Statement (.vscale x0 x1) := by
  intro x0 x1 n w h; cases h; exact .inr ⟨rfl, .inl (by simp only [packV] <;> omega)⟩

theorem vqnt : ∀ x0 x1 x2 x3, Statement (.vqnt x0 x1 x2 x3) := by
  intro x0 x1 x2 x3 n w h; cases h; exact .inr ⟨rfl, .inl (by simp only [packV] <;> omega)⟩

theorem vrcp : ∀ x0 x1 x2 x3, Statement (.vrcp x0 x1 x2 x3) := by
  intro x0 x1 x2 x3 n w h; cases h; exact .inr ⟨rfl, .inl (by simp only [packV] <;> omega)⟩

theorem vrsq : ∀ x0 x1 x2 x3, Statement (.vrsq x0 x1 x2 x3) := by
  intro x0 x1 x2 x3 n w h; cases h; exact .inr ⟨rfl, .inl (by simp only [packV] <;> omega)⟩

theorem vexp2 : ∀ x0 x1 x2 x3, Statement (.vexp2 x0 x1 x2 x3) := by
  intro x0 x1 x2 x3 n w h; cases h; exact .inr ⟨rfl, .inl (by simp only [packV] <;> omega)⟩

theorem vlog2 : ∀ x0 x1 x2 x3, Statement (.vlog2 x0 x1 x2 x3) := by
  intro x0 x1 x2 x3 n w h; cases h; exact .inr ⟨rfl, .inl (by simp only [packV] <;> omega)⟩

theorem vld : ∀ x0 x1 x2 x3, Statement (.vld x0 x1 x2 x3) := by
  intro x0 x1 x2 x3 n w h; cases h; exact .inr ⟨rfl, .inl (by simp only [packVM] <;> omega)⟩

theorem vst : ∀ x0 x1 x2 x3, Statement (.vst x0 x1 x2 x3) := by
  intro x0 x1 x2 x3 n w h; cases h; exact .inr ⟨rfl, .inl (by simp only [packVM] <;> omega)⟩

theorem vlds : ∀ x0 x1 x2 x3 x4, Statement (.vlds x0 x1 x2 x3 x4) := by
  intro x0 x1 x2 x3 x4 n w h; cases h; exact .inr ⟨rfl, .inl (by simp only [packVX] <;> omega)⟩

theorem vsts : ∀ x0 x1 x2 x3 x4, Statement (.vsts x0 x1 x2 x3 x4) := by
  intro x0 x1 x2 x3 x4 n w h; cases h; exact .inr ⟨rfl, .inl (by simp only [packVX] <;> omega)⟩

theorem vgath : ∀ x0 x1 x2 x3 x4, Statement (.vgath x0 x1 x2 x3 x4) := by
  intro x0 x1 x2 x3 x4 n w h; cases h; exact .inr ⟨rfl, .inl (by simp only [packVX] <;> omega)⟩

theorem vscat : ∀ x0 x1 x2 x3 x4, Statement (.vscat x0 x1 x2 x3 x4) := by
  intro x0 x1 x2 x3 x4 n w h; cases h; exact .inr ⟨rfl, .inl (by simp only [packVX] <;> omega)⟩

theorem vldt : ∀ x0 x1 x2 x3, Statement (.vldt x0 x1 x2 x3) := by
  intro x0 x1 x2 x3 n w h; cases h; exact .inr ⟨rfl, .inl (by simp only [packVT] <;> omega)⟩

theorem vstt : ∀ x0 x1 x2 x3, Statement (.vstt x0 x1 x2 x3) := by
  intro x0 x1 x2 x3 n w h; cases h; exact .inr ⟨rfl, .inl (by simp only [packVT] <;> omega)⟩

theorem rep : ∀ x0 x1 x2 x3, Statement (.rep x0 x1 x2 x3) := by
  intro x0 x1 x2 x3 n w h; cases h; exact .inr ⟨rfl, .inl (by simp only [packA] <;> omega)⟩

theorem tset : ∀ x0 x1 x2, Statement (.tset x0 x1 x2) := by
  intro x0 x1 x2 n w h; cases h; exact .inr ⟨rfl, .inl (by simp only [packA] <;> omega)⟩

theorem tstate : ∀ x0 x1 x2, Statement (.tstate x0 x1 x2) := by
  intro x0 x1 x2 n w h; cases h; exact .inr ⟨rfl, .inl (by simp only [packA] <;> omega)⟩

theorem tdrain : ∀ x0 x1, Statement (.tdrain x0 x1) := by
  intro x0 x1 n w h; cases h; exact .inr ⟨rfl, .inl (by simp only [packA] <;> omega)⟩

theorem tfree : ∀ x0, Statement (.tfree x0) := by
  intro x0 n w h; cases h; exact .inr ⟨rfl, .inl (by simp only [packA] <;> omega)⟩

theorem twait : ∀ x0, Statement (.twait x0) := by
  intro x0 n w h; cases h; exact .inr ⟨rfl, .inl (by simp only [packA] <;> omega)⟩

theorem rget : ∀ x0 x1 x2, Statement (.rget x0 x1 x2) := by
  intro x0 x1 x2 n w h; cases h; exact .inr ⟨rfl, .inl (by simp only [packA] <;> omega)⟩

theorem rput : ∀ x0 x1 x2, Statement (.rput x0 x1 x2) := by
  intro x0 x1 x2 n w h; cases h; exact .inr ⟨rfl, .inl (by simp only [packA] <;> omega)⟩

theorem rcopy : ∀ x0 x1, Statement (.rcopy x0 x1) := by
  intro x0 x1 n w h; cases h; exact .inr ⟨rfl, .inl (by simp only [packA] <;> omega)⟩

theorem rred : ∀ x0 x1, Statement (.rred x0 x1) := by
  intro x0 x1 n w h; cases h; exact .inr ⟨rfl, .inl (by simp only [packA] <;> omega)⟩

theorem rgath : ∀ x0 x1 x2, Statement (.rgath x0 x1 x2) := by
  intro x0 x1 x2 n w h; cases h; exact .inr ⟨rfl, .inl (by simp only [packA] <;> omega)⟩

theorem rscat : ∀ x0 x1 x2, Statement (.rscat x0 x1 x2) := by
  intro x0 x1 x2 n w h; cases h; exact .inr ⟨rfl, .inl (by simp only [packA] <;> omega)⟩

theorem rmcast : ∀ x0 x1, Statement (.rmcast x0 x1) := by
  intro x0 x1 n w h; cases h; exact .inr ⟨rfl, .inl (by simp only [packA] <;> omega)⟩

theorem rstat : ∀ x0, Statement (.rstat x0) := by
  intro x0 n w h; cases h; exact .inr ⟨rfl, .inl (by simp only [packA] <;> omega)⟩

theorem rctx : ∀ x0 x1 x2, Statement (.rctx x0 x1 x2) := by
  intro x0 x1 x2 n w h; cases h; exact .inr ⟨rfl, .inl (by simp only [packA] <;> omega)⟩

theorem lbld : ∀ x0 x1, Statement (.lbld x0 x1) := by
  intro x0 x1 n w h; cases h; exact .inr ⟨rfl, .inl (by simp only [packA] <;> omega)⟩

theorem lswap : Statement (.lswap) := by
  intro n w h; cases h; exact .inr ⟨rfl, .inl (by simp only [packA] <;> omega)⟩

theorem lmm : ∀ x0 x1 x2 x3, Statement (.lmm x0 x1 x2 x3) := by
  intro x0 x1 x2 x3 n w h; cases h; exact .inr ⟨rfl, .inl (by simp only [packA] <;> omega)⟩

theorem lzero : ∀ x0 x1, Statement (.lzero x0 x1) := by
  intro x0 x1 n w h; cases h; exact .inr ⟨rfl, .inl (by simp only [packA] <;> omega)⟩

theorem ldrn : ∀ x0 x1, Statement (.ldrn x0 x1) := by
  intro x0 x1 n w h; cases h; exact .inr ⟨rfl, .inl (by simp only [packA] <;> omega)⟩

theorem lpri : ∀ x0 x1, Statement (.lpri x0 x1) := by
  intro x0 x1 n w h; cases h; exact .inr ⟨rfl, .inl (by simp only [packA] <;> omega)⟩

theorem lstat : ∀ x0, Statement (.lstat x0) := by
  intro x0 n w h; cases h; exact .inr ⟨rfl, .inl (by simp only [packA] <;> omega)⟩

theorem lfence : Statement (.lfence) := by
  intro n w h; cases h; exact .inr ⟨rfl, .inl (by simp only [packA] <;> omega)⟩

theorem start : ∀ x0 x1, Statement (.start x0 x1) := by
  intro x0 x1 n w h; cases h; exact .inr ⟨rfl, .inl (by simp only [packM] <;> omega)⟩

theorem hwait : ∀ x0, Statement (.hwait x0) := by
  intro x0 n w h; cases h; exact .inr ⟨rfl, .inl (by simp only [packM] <;> omega)⟩

theorem endTask : Statement (.endTask) := by
  intro n w h; cases h; exact .inr ⟨rfl, .inl (by simp only [packM] <;> omega)⟩

theorem sleep : ∀ x0 x1, Statement (.sleep x0 x1) := by
  intro x0 x1 n w h; cases h; exact .inr ⟨rfl, .inl (by simp only [packM] <;> omega)⟩

theorem selfId : ∀ x0, Statement (.selfId x0) := by
  intro x0 n w h; cases h; exact .inr ⟨rfl, .inl (by simp only [packM] <;> omega)⟩

theorem sendMsg : ∀ x0 x1 x2, Statement (.sendMsg x0 x1 x2) := by
  intro x0 x1 x2 n w h; cases h; exact .inr ⟨rfl, .inl (by simp only [packM] <;> omega)⟩

theorem senda : ∀ x0 x1, Statement (.senda x0 x1) := by
  intro x0 x1 n w h; cases h; exact .inr ⟨rfl, .inl (by simp only [packM] <;> omega)⟩

theorem forkT : ∀ x0 x1, Statement (.forkT x0 x1) := by
  intro x0 x1 n w h; cases h; exact .inr ⟨rfl, .inl (by simp only [packM] <;> omega)⟩

theorem joinT : ∀ x0 x1, Statement (.joinT x0 x1) := by
  intro x0 x1 n w h; cases h; exact .inr ⟨rfl, .inl (by simp only [packM] <;> omega)⟩

theorem doneB : ∀ x0, Statement (.doneB x0) := by
  intro x0 n w h; cases h; exact .inr ⟨rfl, .inl (by simp only [packM] <;> omega)⟩

theorem launchI : ∀ x0 x1, Statement (.launchI x0 x1) := by
  intro x0 x1 n w h; cases h; exact .inr ⟨rfl, .inl (by simp only [packM] <;> omega)⟩

theorem tlwait : ∀ x0 x1 x2 x3, Statement (.tlwait x0 x1 x2 x3) := by
  intro x0 x1 x2 x3 n w h; cases h; exact .inr ⟨rfl, .inl (by simp only [packM] <;> omega)⟩

theorem tlsig : ∀ x0 x1 x2, Statement (.tlsig x0 x1 x2) := by
  intro x0 x1 x2 n w h; cases h; exact .inr ⟨rfl, .inl (by simp only [packM] <;> omega)⟩

theorem migrate : ∀ x0, Statement (.migrate x0) := by
  intro x0 n w h; cases h; exact .inr ⟨rfl, .inl (by simp only [packM] <;> omega)⟩

theorem gcall : ∀ x0 x1 x2, Statement (.gcall x0 x1 x2) := by
  intro x0 x1 x2 n w h; cases h; exact .inr ⟨rfl, .inl (by simp only [packM] <;> omega)⟩

theorem gret : ∀ x0, Statement (.gret x0) := by
  intro x0 n w h; cases h; exact .inr ⟨rfl, .inl (by simp only [packM] <;> omega)⟩

theorem gpub : ∀ x0 x1, Statement (.gpub x0 x1) := by
  intro x0 x1 n w h; cases h; exact .inr ⟨rfl, .inl (by simp only [packM] <;> omega)⟩

theorem grevoke : ∀ x0 x1, Statement (.grevoke x0 x1) := by
  intro x0 x1 n w h; cases h; exact .inr ⟨rfl, .inl (by simp only [packM] <;> omega)⟩

theorem grevokeKill : ∀ x0 x1 x2, Statement (.grevokeKill x0 x1 x2) := by
  intro x0 x1 x2 n w h; cases h; exact .inr ⟨rfl, .inl (by simp only [packM] <;> omega)⟩

theorem ginfo : ∀ x0 x1 x2, Statement (.ginfo x0 x1 x2) := by
  intro x0 x1 x2 n w h; cases h; exact .inr ⟨rfl, .inl (by simp only [packM] <;> omega)⟩

theorem domid : ∀ x0 x1, Statement (.domid x0 x1) := by
  intro x0 x1 n w h; cases h; exact .inr ⟨rfl, .inl (by simp only [packM] <;> omega)⟩

theorem kact : ∀ x0 x1, Statement (.kact x0 x1) := by
  intro x0 x1 n w h; cases h; exact .inr ⟨rfl, .inl (by simp only [packM] <;> omega)⟩

theorem kdeact : ∀ x0 x1, Statement (.kdeact x0 x1) := by
  intro x0 x1 n w h; cases h; exact .inr ⟨rfl, .inl (by simp only [packM] <;> omega)⟩

theorem scrub : ∀ x0 x1 x2, Statement (.scrub x0 x1 x2) := by
  intro x0 x1 x2 n w h; cases h; exact .inr ⟨rfl, .inl (by simp only [packM] <;> omega)⟩

theorem egset : ∀ x0 x1 x2, Statement (.egset x0 x1 x2) := by
  intro x0 x1 x2 n w h; cases h; exact .inr ⟨rfl, .inl (by simp only [packM] <;> omega)⟩

theorem compose : ∀ x0 x1, Statement (.compose x0 x1) := by
  intro x0 x1 n w h; cases h; exact .inr ⟨rfl, .inl (by simp only [packM] <;> omega)⟩

theorem decomp : ∀ x0, Statement (.decomp x0) := by
  intro x0 n w h; cases h; exact .inr ⟨rfl, .inl (by simp only [packM] <;> omega)⟩

theorem timeI : ∀ x0 x1, Statement (.timeI x0 x1) := by
  intro x0 x1 n w h; cases h; exact .inr ⟨rfl, .inl (by simp only [packM] <;> omega)⟩

theorem dlread : ∀ x0 x1, Statement (.dlread x0 x1) := by
  intro x0 x1 n w h; cases h; exact .inr ⟨rfl, .inl (by simp only [packM] <;> omega)⟩

theorem pvalid : ∀ x0 x1, Statement (.pvalid x0 x1) := by
  intro x0 x1 n w h; cases h; exact .inr ⟨rfl, .inl (by simp only [packM] <;> omega)⟩

theorem wrapdone : Statement (.wrapdone) := by
  intro n w h; cases h; exact .inr ⟨rfl, .inl (by simp only [packM] <;> omega)⟩

theorem trapI : ∀ x0, Statement (.trapI x0) := by
  intro x0 n w h; cases h; exact .inr ⟨rfl, .inl (by simp only [packA] <;> omega)⟩

theorem breakI : ∀ x0, Statement (.breakI x0) := by
  intro x0 n w h; cases h; exact .inr ⟨rfl, .inl (by simp only [packA] <;> omega)⟩

theorem eret : ∀ x0, Statement (.eret x0) := by
  intro x0 n w h; cases h; exact .inr ⟨rfl, .inl (by simp only [packA] <;> omega)⟩

theorem csrr : ∀ x0 x1, Statement (.csrr x0 x1) := by
  intro x0 x1 n w h; cases h; exact .inr ⟨rfl, .inl (by simp only [packA] <;> omega)⟩

theorem csrw : ∀ x0 x1, Statement (.csrw x0 x1) := by
  intro x0 x1 n w h; cases h; exact .inr ⟨rfl, .inl (by simp only [packA] <;> omega)⟩

theorem csrs : ∀ x0 x1, Statement (.csrs x0 x1) := by
  intro x0 x1 n w h; cases h; exact .inr ⟨rfl, .inl (by simp only [packA] <;> omega)⟩

theorem csrc : ∀ x0 x1, Statement (.csrc x0 x1) := by
  intro x0 x1 n w h; cases h; exact .inr ⟨rfl, .inl (by simp only [packA] <;> omega)⟩

theorem tlbinv : ∀ x0 x1, Statement (.tlbinv x0 x1) := by
  intro x0 x1 n w h; cases h; exact .inr ⟨rfl, .inl (by simp only [packA] <;> omega)⟩

theorem tlbsync : Statement (.tlbsync) := by
  intro n w h; cases h; exact .inr ⟨rfl, .inl (by simp only [packA] <;> omega)⟩

theorem wfi : Statement (.wfi) := by
  intro n w h; cases h; exact .inr ⟨rfl, .inl (by simp only [packA] <;> omega)⟩

theorem potw : ∀ x0 x1 x2, Statement (.potw x0 x1 x2) := by
  intro x0 x1 x2 n w h; cases h; exact .inr ⟨rfl, .inl (by simp only [packA] <;> omega)⟩

theorem ctxsave : ∀ x0 x1 x2, Statement (.ctxsave x0 x1 x2) := by
  intro x0 x1 x2 n w h; cases h; exact .inr ⟨rfl, .inl (by simp only [packA] <;> omega)⟩

theorem ctxload : ∀ x0 x1 x2, Statement (.ctxload x0 x1 x2) := by
  intro x0 x1 x2 n w h; cases h; exact .inr ⟨rfl, .inl (by simp only [packA] <;> omega)⟩

theorem fdivD : ∀ x0 x1 x2, Statement (.fdivD x0 x1 x2) := by
  intro x0 x1 x2 n w h; cases h; exact .inr ⟨rfl, .inl (by simp only [packA] <;> omega)⟩

theorem fsqrtD : ∀ x0 x1, Statement (.fsqrtD x0 x1) := by
  intro x0 x1 n w h; cases h; exact .inr ⟨rfl, .inl (by simp only [packA] <;> omega)⟩

theorem fdivS : ∀ x0 x1 x2, Statement (.fdivS x0 x1 x2) := by
  intro x0 x1 x2 n w h; cases h; exact .inr ⟨rfl, .inl (by simp only [packA] <;> omega)⟩

theorem fsqrtS : ∀ x0 x1, Statement (.fsqrtS x0 x1) := by
  intro x0 x1 n w h; cases h; exact .inr ⟨rfl, .inl (by simp only [packA] <;> omega)⟩

theorem mul128 : ∀ x0 x1 x2, Statement (.mul128 x0 x1 x2) := by
  intro x0 x1 x2 n w h; cases h; exact .inr ⟨rfl, .inl (by simp only [packA] <;> omega)⟩

theorem clmul : ∀ x0 x1 x2, Statement (.clmul x0 x1 x2) := by
  intro x0 x1 x2 n w h; cases h; exact .inr ⟨rfl, .inl (by simp only [packA] <;> omega)⟩

theorem submissionDoorbell : ∀ x0 x1 x2, Statement (.submissionDoorbell x0 x1 x2) := by
  intro x0 x1 x2 n w h; cases h

theorem launchAdmission : ∀ x0, Statement (.launchAdmission x0) := by
  intro x0 n w h; cases h

theorem leafStart : ∀ x0 x1, Statement (.leafStart x0 x1) := by
  intro x0 x1 n w h; cases h

theorem taskDispatch : ∀ x0, Statement (.taskDispatch x0) := by
  intro x0 n w h; cases h

theorem messageArrival : ∀ x0, Statement (.messageArrival x0) := by
  intro x0 n w h; cases h

theorem barrierPhaseRelease : ∀ x0 x1, Statement (.barrierPhaseRelease x0 x1) := by
  intro x0 x1 n w h; cases h

theorem launchEnd : ∀ x0, Statement (.launchEnd x0) := by
  intro x0 n w h; cases h

theorem engineBeat : ∀ x0 x1, Statement (.engineBeat x0 x1) := by
  intro x0 x1 n w h; cases h

theorem engineCommandCompletion : ∀ x0, Statement (.engineCommandCompletion x0) := by
  intro x0 n w h; cases h

theorem kStepBoundary : ∀ x0, Statement (.kStepBoundary x0) := by
  intro x0 n w h; cases h

theorem lbldStart : ∀ x0, Statement (.lbldStart x0) := by
  intro x0 n w h; cases h

theorem lbldCompletion : ∀ x0, Statement (.lbldCompletion x0) := by
  intro x0 n w h; cases h

theorem ldrnCompletion : ∀ x0, Statement (.ldrnCompletion x0) := by
  intro x0 n w h; cases h

theorem ldrnStart : ∀ x0, Statement (.ldrnStart x0) := by
  intro x0 n w h; cases h

theorem lzeroStart : ∀ x0, Statement (.lzeroStart x0) := by
  intro x0 n w h; cases h

theorem lswapExchange : ∀ x0, Statement (.lswapExchange x0) := by
  intro x0 n w h; cases h

theorem lstatStart : ∀ x0, Statement (.lstatStart x0) := by
  intro x0 n w h; cases h

theorem deadlineExpiry : ∀ x0, Statement (.deadlineExpiry x0) := by
  intro x0 n w h; cases h

theorem wrapUpBudgetOverrun : ∀ x0, Statement (.wrapUpBudgetOverrun x0) := by
  intro x0 n w h; cases h

theorem gateBudgetOverrun : ∀ x0 x1, Statement (.gateBudgetOverrun x0 x1) := by
  intro x0 x1 n w h; cases h

theorem cleanupBudgetOverrun : ∀ x0, Statement (.cleanupBudgetOverrun x0) := by
  intro x0 n w h; cases h

theorem gateWrapUpOverrun : ∀ x0, Statement (.gateWrapUpOverrun x0) := by
  intro x0 n w h; cases h

theorem watchdogExpiry : ∀ x0, Statement (.watchdogExpiry x0) := by
  intro x0 n w h; cases h

theorem allasleepTrap : ∀ x0, Statement (.allasleepTrap x0) := by
  intro x0 n w h; cases h

theorem sleepTimeLimit : ∀ x0, Statement (.sleepTimeLimit x0) := by
  intro x0 n w h; cases h

theorem pauseExpiry : ∀ x0, Statement (.pauseExpiry x0) := by
  intro x0 n w h; cases h

theorem handlerStart : ∀ x0, Statement (.handlerStart x0) := by
  intro x0 n w h; cases h

theorem impreciseFaultStop : ∀ x0, Statement (.impreciseFaultStop x0) := by
  intro x0 n w h; cases h

theorem taskSuspension : ∀ x0, Statement (.taskSuspension x0) := by
  intro x0 n w h; cases h

theorem colourCutClose : ∀ x0, Statement (.colourCutClose x0) := by
  intro x0 n w h; cases h

theorem flightSaveComplete : ∀ x0, Statement (.flightSaveComplete x0) := by
  intro x0 n w h; cases h

theorem flightRestoreComplete : ∀ x0, Statement (.flightRestoreComplete x0) := by
  intro x0 n w h; cases h

theorem timeSliceStart : ∀ x0, Statement (.timeSliceStart x0) := by
  intro x0 n w h; cases h

theorem timeSliceEnd : ∀ x0, Statement (.timeSliceEnd x0) := by
  intro x0 n w h; cases h

theorem awaitLoadTimeout : ∀ x0, Statement (.awaitLoadTimeout x0) := by
  intro x0 n w h; cases h

theorem sendForwardingExpiry : ∀ x0, Statement (.sendForwardingExpiry x0) := by
  intro x0 n w h; cases h

theorem invalidationAcknowledge : ∀ x0, Statement (.invalidationAcknowledge x0) := by
  intro x0 n w h; cases h

theorem atsInvalidationCompletion : Statement (.atsInvalidationCompletion) := by
  intro n w h; cases h

theorem timelineWake : ∀ x0 x1 x2, Statement (.timelineWake x0 x1 x2) := by
  intro x0 x1 x2 n w h; cases h

theorem remoteAtomic : ∀ x0 x1 x2 x3, Statement (.remoteAtomic x0 x1 x2 x3) := by
  intro x0 x1 x2 x3 n w h; cases h

theorem apertureAccess : ∀ x0 x1 x2, Statement (.apertureAccess x0 x1 x2) := by
  intro x0 x1 x2 n w h; cases h

theorem apertureAtomicop : ∀ x0 x1 x2, Statement (.apertureAtomicop x0 x1 x2) := by
  intro x0 x1 x2 n w h; cases h

theorem apertureDomainWrite : ∀ x0 x1, Statement (.apertureDomainWrite x0 x1) := by
  intro x0 x1 n w h; cases h

theorem partitionEnable : ∀ x0, Statement (.partitionEnable x0) := by
  intro x0 n w h; cases h

theorem partitionDisable : ∀ x0, Statement (.partitionDisable x0) := by
  intro x0 n w h; cases h

theorem moveOffer : ∀ x0 x1, Statement (.moveOffer x0 x1) := by
  intro x0 x1 n w h; cases h

theorem moveCancel : Statement (.moveCancel) := by
  intro n w h; cases h

theorem removalAcknowledge : ∀ x0, Statement (.removalAcknowledge x0) := by
  intro x0 n w h; cases h

theorem scrubbingComplete : Statement (.scrubbingComplete) := by
  intro n w h; cases h

theorem registerWrite : ∀ x0 x1 x2, Statement (.registerWrite x0 x1 x2) := by
  intro x0 x1 x2 n w h; cases h

theorem hotReset : Statement (.hotReset) := by
  intro n w h; cases h

theorem packageReset : Statement (.packageReset) := by
  intro n w h; cases h

theorem powerOnBoot : ∀ x0, Statement (.powerOnBoot x0) := by
  intro x0 n w h; cases h

theorem firmwareUpdate : ∀ x0 x1, Statement (.firmwareUpdate x0 x1) := by
  intro x0 x1 n w h; cases h

theorem thermalTrip : Statement (.thermalTrip) := by
  intro n w h; cases h

theorem throttleStep : ∀ x0, Statement (.throttleStep x0) := by
  intro x0 n w h; cases h

theorem ptpSynchronisation : ∀ x0 x1 x2, Statement (.ptpSynchronisation x0 x1 x2) := by
  intro x0 x1 x2 n w h; cases h

theorem holdover : ∀ x0, Statement (.holdover x0) := by
  intro x0 n w h; cases h

theorem flitReceive : ∀ x0 x1 x2, Statement (.flitReceive x0 x1 x2) := by
  intro x0 x1 x2 n w h; cases h

theorem negativeAcknowledge : ∀ x0 x1, Statement (.negativeAcknowledge x0 x1) := by
  intro x0 x1 n w h; cases h

theorem portRetrain : ∀ x0 x1, Statement (.portRetrain x0 x1) := by
  intro x0 x1 n w h; cases h

theorem attestationRequest : ∀ x0 x1, Statement (.attestationRequest x0 x1) := by
  intro x0 x1 n w h; cases h

theorem ill : ∀ x0, Statement (.ill x0) := by
  intro x0 n w h; cases h; exact .inr ⟨rfl, .inr ⟨_, rfl⟩⟩

theorem egressBucketRefill : ∀ x0 x1 x2, Statement (.egressBucketRefill x0 x1 x2) := by
  intro x0 x1 x2 n w h; cases h

theorem queueEnable : ∀ x0 x1, Statement (.queueEnable x0 x1) := by
  intro x0 x1 n w h; cases h

theorem debugAttach : ∀ x0 x1, Statement (.debugAttach x0 x1) := by
  intro x0 x1 n w h; cases h

theorem logCheckpointRequest : ∀ x0, Statement (.logCheckpointRequest x0) := by
  intro x0 n w h; cases h

theorem remoteAccess : ∀ x0 x1 x2, Statement (.remoteAccess x0 x1 x2) := by
  intro x0 x1 x2 n w h; cases h

end Sys2Proof.Laws.Encoding
end
end

