-- ==== Sys2Proof/Tests/Slice0.lean ====
section
/-!
SUPPORT. The model's own tests: ill-formed terms that the check refuses, words of the spec's encoding tables, a few steps
worked out by hand, and for each statement with hypotheses a state and operands that meet them.
-/
set_option Elab.async false
noncomputable section
namespace Sys2Proof.Tests
open Sys2Proof.Machine Sys2Proof.Safety

/-! ### Ill-formed instructions (R76 ENC) -/

/-- One term for each check that names specifiers: destinations, sources, bases, and fields that are read and written. -/
theorem test_illformed_specifiers :
    [Instr.add (.q 2) (.w 1) (.w 2), .add (.imm 1) (.w 1) (.w 2), .add (.l 1) (.w 1) (.w 2), .add (.w 1) (.q 0) (.w 2),
     .add (.w 1) (.w 2) (.q 1), .clz (.q 3) (.w 1), .li (.imm 0) 0, .lis (.q 2) 0, .sel (.l 0) (.w 1) (.w 2),
     .bins (.q 0) (.w 1) 0 0, .fmaD (.l 0) (.w 4) (.w 5) .dyn, .bEq (.q 0) (.w 1) 0, .ldD (.w 4) (.o 1) 0,
     .ldD (.q 2) (.w 8) 0, .stD (.q 0) (.w 8) 0, .stx (.q 0) (.w 8) (.w 9) 3 0, .cbld 0 (.o 0) 0, .eret (.q 0),
     .csrr (.imm 0) 0, .csrw (.q 1) 0, .scset 1 (.q 0), .scget (.l 2) 1, .tset 0 (.q 0) (.w 1), .rstat (.q 3)].all
      (fun i => !i.wf) = true := by decide

/-- The vector stream's specifiers (R42, R161): no l source, results into q2 and q3 alone, w bases. -/
theorem test_illformed_vector_specifiers :
    [Instr.vbcast 1 (.l 0) .fp32, .vins 1 (.q 2) (.imm 0) .fp32, .vins 1 (.w 2) (.w 4) .fp32, .vextr 1 (.w 5) (.imm 0) .fp32,
     .vextr 1 (.q 2) (.q 3) .fp32, .vld 1 (.o 1) 0 0, .vlds 1 (.w 8) (.w 10) .fp32 0, .vgath 1 (.imm 0) 2 .int32 0,
     .rep 0 (.imm 8) 1 0, .rep 0 (.l 0) 1 0, .lstat (.w 5)].all (fun i => !i.wf) = true := by decide

/-- The bank rule (R43, R44), in each form that it binds. -/
theorem test_illformed_banks :
    [Instr.add (.w 4) (.w 6) (.w 8), .add16 4 6, .bEq (.w 1) (.w 3) 0, .stD (.w 6) (.w 8) 0, .stx (.w 6) (.w 8) (.w 10) 3 0,
     .st16 3 0, .sts16 2 0, .amoAdd 4 6 8 0 0, .sendMsg 4 8 12, .fmaD (.w 10) (.w 4) (.w 6) .dyn, .waitm 4 8 10 0 0 0,
     .grevokeKill 9 8 12, .ldxu (.w 4) (.w 8) (.w 10) 2 0].all (fun i => !i.wf) = true := by decide

/-- Reserved codes: scopes, element types, formats, conditions, registers. -/
theorem test_illformed_codes :
    [Instr.amoAdd 4 6 7 0 5, .ldaq 4 8 3 5, .fence 1 3 0, .fence 1 0 5, .waitm 4 8 9 4 0 0, .waitm 4 8 9 0 2 0, .vshl 1 2 3 0 .fp32,
     .vexp2 1 2 0 .int8, .vfma 1 2 3 0 .int32 .rne, .vcmp 1 2 3 0 .fp32 11, .vcvt 1 2 .fp32 .fp32, .vcvtLo 1 2 .fp32 .fp32,
     .vcvtNarrow 1 2 3 .fp32 .int8, .fcvt (.w 1) (.w 2) .dyn .i64 .u64, .fcvt (.w 1) (.w 2) .dyn .f32 .f32,
     .ldxu (.w 4) (.w 8) (.w 11) 3 0, .fmt 0 0 0 6 false 0 0, .fmt 15 0 0 7 false 0 0, .scset 0 (.w 1), .scget (.w 1) 0,
     .lpri 1 0, .vpack 1 2 2, .grevokeKill 9 8 0, .csrr (.w 1) 0x13, .csrs (.w 1) 0x13, .illh 0, .ill 0xFFFF].all
      (fun i => !i.wf) = true := by decide

/-! ### Words written out in the spec's encoding tables -/

/-- 16-bit forms (R64, R80, R411, R465): op5, then the fields from bit 10 down, bit 0 clear. -/
theorem test_decode_16 :
    decode (0b00011 * 2 ^ 11 + 0b00001 * 2 ^ 6 + 0b00001 * 2) = .ok (.addi16 1 1) ∧ decode 0x0952 = .ok (.mov16 5 9) ∧
    decode 0x4110 = .ok (.shli16 4 8) ∧ decode 0x3106 = .ok (.or16 4 3) ∧ decode 0x9022 = .ok (.j 17) ∧
    decode 0x9FC0 = .ok (.jr16 31) ∧ decode 0xA000 = .ok .end16 ∧ decode 0xB806 = .ok (.break16 3) ∧
    decode 0x0000 = .ok (.illh 0) ∧ decode 0x1100 = .ok (.add16 4 0) := by decide

/-- Integer and memory forms (R16, R44, R80, R152, R411): OR w17, w12, w13 field by field. -/
theorem test_decode_integer :
    decode (0b010001 * 2 ^ 26 + 0b001100 * 2 ^ 20 + 0b001101 * 2 ^ 14 + 0b000011 * 2 ^ 8 + 0x01 * 2 + 1) =
      .ok (.orI (.w 17) (.w 12) (.w 13)) ∧
    decode 0x1461D403 = .ok (.divI (.w 5) (.w 6) (.w 7)) ∧ decode 0x1061D803 = .ok (.sel (.w 4) (.w 6) (.w 7)) ∧
    decode 0x10684003 = .ok (.add (.w 4) (.w 6) (.o 1)) ∧ decode 0x14F3D007 = .ok (.bext (.w 5) (.w 15) 15 16) ∧
    decode 0x2457C009 = .ok (.bins (.w 9) (.w 5) 31 0) ∧ decode 0x34B40517 = .ok (.shri (.w 13) (.w 11) 5) ∧
    decode 0x104FCE0B = .ok (.addi (.w 4) (.w 4) (-50)) ∧ decode 0x34200021 = .ok (.li (.w 13) 0x2000) ∧
    decode 0x6C002025 = .ok (.lpc (.w 27) 0x20) := by decide

/-- Control flow and scalar memory (R152, R411). -/
theorem test_decode_control_memory :
    decode 0x042FE045 = .ok (.bLt (.w 1) (.w 2) 0xFE0) ∧ decode 0x5030044F = .ok (.bBc (.w 20) (.w 3) 4) ∧
    decode 0x1C40224B = .ok (.bGeu (.w 7) (.w 4) 0x22) ∧ decode 0x00008033 = .ok (.call 0x80) ∧
    decode 0x7C800035 = .ok (.jr (.w 31) (.w 8) 0) ∧ decode 0x8890285D = .ok (.ldWu (.o 2) (.w 9) 0x28) ∧
    decode 0x14800065 = .ok (.stD (.w 5) (.w 8) 0) ∧ decode 0x1082CF67 = .ok (.ldx (.w 4) (.w 8) (.w 11) 3 3) ∧
    decode 0x1100CA67 = .ok (.ldx (.w 4) (.w 16) (.w 3) 2 2) := by decide

/-- Atomic and ordering forms (R262, R335). -/
theorem test_decode_atomic :
    decode 0x53406969 = .ok (.ldaq 10 13 3 1) ∧ decode 0x22004A69 = .ok (.ldaq 4 8 2 2) ∧
    decode 0x3A40716B = .ok (.strl 7 9 3 1) ∧ decode 0xAD22186D = .ok (.amoAdd 21 20 17 3 0) ∧
    decode 0x520B806D = .ok (.amoFamax 10 8 5 0 0) ∧ decode 0x52011B6D = .ok (.amoSwap 10 8 0 3 3) ∧
    decode 0x220E1971 = .ok (.cas 4 8 7 3 1) ∧ decode 0x0000C175 = .ok (.fence 0b0110 0 1) ∧
    decode 0x0001EB75 = .ok (.fence 0b1111 1 3) ∧ decode 0x52400977 = .ok (.waitm 10 9 0 0 1 1) ∧
    decode 0x00004079 = .ok (.pause 0x40) := by decide

/-- Scalar floating point and prefixes (R80, R182, R224, R254). -/
theorem test_decode_float :
    decode 0xA2E10883 = .ok (.fmulS (.l 0) (.q 2) (.w 4) .dyn) ∧ decode 0xB280C083 = .ok (.faddS (.q 0) (.l 0) (.w 3) .dyn) ∧
    decode 0x8E803083 = .ok (.frcpS (.o 3) (.l 0) .dyn) ∧ decode 0x28414485 = .ok (.fmaD (.w 10) (.w 4) (.w 5) .rne) ∧
    decode 0xA0B00D89 = .ok (.fcvt (.l 0) (.w 11) .dyn .u64 .f32) ∧ decode 0x1461C0F9 = .ok (.fdivD (.w 5) (.w 6) (.w 7)) ∧
    decode 0x2A2E008B = .ok (.fmt 2 10 2 7 false 0 0) ∧ decode 0x1141208B = .ok (.fmt 1 1 4 0 true 1 0) ∧
    decode 0xA20E088B = .ok (.fmt 10 2 0 7 false 0 1) ∧ decode 0x00D0008D = .ok (.cbld 0 (.w 13) 0) ∧
    decode 0x0680008F = .ok (.scset 1 (.l 0)) ∧ decode 0x1410018F = .ok (.scget (.w 5) 1) := by decide

/-- Vector forms (R80, R182, R224, R254, R262, R443). -/
theorem test_decode_vector :
    decode 0xAAA0C7A1 = .ok (.vxor 10 10 10 0 .int64) ∧ decode 0xA22180A3 = .ok (.vfma 10 2 2 0 .fp32 .dyn) ∧
    decode 0xAA0180A7 = .ok (.vredadd 10 10 0 .fp32) ∧ decode 0x800183A7 = .ok (.vredamax 8 0 0 .fp32) ∧
    decode 0xABB0C2A9 = .ok (.vextr 10 (.q 2) (.imm 0) .fp32) ∧ decode 0xBB00C0A9 = .ok (.vbcast 11 (.q 0) .fp32) ∧
    decode 0xC00981AF = .ok (.vcvtLo 12 0 .bf16 .fp32) ∧ decode 0x067D03AF = .ok (.vcvtNarrow 0 6 7 .fp32 .bf16) ∧
    decode 0xBB0181B1 = .ok (.vrsq 11 11 0 .fp32) ∧ decode 0x320010B3 = .ok (.vld 3 (.w 8) 2 0) ∧
    decode 0x040200B5 = .ok (.vst 0 (.w 16) 64 0) ∧ decode 0x004200BF = .ok (.vldt 0 0 33 0) ∧
    decode 0x00C201BF = .ok (.vstt 0 1 33 0) := by decide

/-- Narrow conversions and REP (R80, R182, R224, R254). -/
theorem test_decode_narrow_rep :
    decode 0x360009AF = .ok (.vpack 3 6 1) ∧ decode 0x730011AF = .ok (.vunpkHi 7 3) ∧ decode 0x49001AAF = .ok (.vdeq 4 9 2) ∧
    decode 0x220020AF = .ok (.vscale 2 2) ∧ decode 0x823029AF = .ok (.vqnt 8 2 3 1) ∧
    decode 0x03405AC1 = .ok (.rep 0 (.imm 4) 1 0b11010) ∧ decode 0x01B04EC1 = .ok (.rep 0 (.w 27) 1 0b01110) := by decide

/-- Tile slots, reel engines and the loft (R211, R224, R254). -/
theorem test_decode_units :
    decode 0x0123C0C3 = .ok (.tset 0 (.w 18) (.w 15)) ∧ decode 0x143041C3 = .ok (.tstate (.w 5) 3 true) ∧
    decode 0x101002C3 = .ok (.tdrain (.w 4) 1) ∧ decode 0x080003C3 = .ok (.tfree 2) ∧ decode 0x040004C3 = .ok (.twait 1) ∧
    decode 0x015000C5 = .ok (.rget 0 (.w 21) (.w 0)) ∧ decode 0x059001C5 = .ok (.rput 1 (.w 25) (.w 0)) ∧
    decode 0x148002C5 = .ok (.rcopy (.w 5) (.w 8)) ∧ decode 0x1082C4C5 = .ok (.rgath 4 (.w 8) (.w 11)) ∧
    decode 0x1C0007C5 = .ok (.rstat (.w 7)) ∧ decode 0x005040C7 = .ok (.lbld 5 true) ∧
    decode 0x441042C7 = .ok (.lmm 4 1 1 true) ∧ decode 0x807003C7 = .ok (.lzero 8 7) ∧ decode 0xB80006C7 = .ok (.lstat (.q 2)) ∧
    decode 0x000001C7 = .ok .lswap ∧ decode 0x002004C7 = .ok (.ldrn 0 2) ∧ decode 0x088005C7 = .ok (.lpri 2 8) ∧
    decode 0x000007C7 = .ok .lfence := by decide

/-- Tasks, gates and boxes (R152, R262, R335, R345, R401, R411, R436). -/
theorem test_decode_tasks :
    decode 0xD6C000D1 = .ok (.start 26 27) ∧ decode 0x034020D1 = .ok (.hwait 13) ∧ decode 0x000040D1 = .ok .endTask ∧
    decode 0x02AAE0D1 = .ok (.forkT 10 21) ∧ decode 0x032B00D1 = .ok (.joinT 12 21) ∧ decode 0x02C120D1 = .ok (.doneB 11) ∧
    decode 0x0216C0D1 = .ok (.senda 8 11) ∧ decode 0x2216A0D1 = .ok (.sendMsg 4 8 11) ∧ decode 0x2A0140D1 = .ok (.launchI 5 8) ∧
    decode 0x021783D1 = .ok (.tlsig 8 11 3) ∧ decode 0x221764D1 = .ok (.tlwait 4 8 11 4) ∧ decode 0x2801A0D1 = .ok (.migrate 5) ∧
    decode 0x0B9600E1 = .ok (.gcall 1 14 11) ∧ decode 0x00C020E1 = .ok (.gret 3) ∧ decode 0x2A4040E1 = .ok (.gpub 5 9) ∧
    decode 0x4A0060E1 = .ok (.grevoke 9 8) ∧ decode 0x4A1660E1 = .ok (.grevokeKill 9 8 11) ∧
    decode 0x221680E1 = .ok (.ginfo 4 8 11) ∧ decode 0x2A00A0E1 = .ok (.domid 5 8) ∧ decode 0x2A00C0E1 = .ok (.kact 5 8) ∧
    decode 0x2A00E0E1 = .ok (.kdeact 5 8) ∧ decode 0x2A1700E1 = .ok (.scrub 5 8 11) ∧ decode 0x2A1720E1 = .ok (.egset 5 8 11) ∧
    decode 0x5A8000E9 = .ok (.compose 11 10) ∧ decode 0x600020E9 = .ok (.decomp 12) ∧ decode 0x2A0040E9 = .ok (.timeI 5 8) ∧
    decode 0x634060E9 = .ok (.dlread 12 13) ∧ decode 0x063680E9 = .ok (.pvalid 24 27) ∧ decode 0x0000A0E9 = .ok .wrapdone := by
  decide

/-- The system group (R80, R345, R443, R465), and fates of words that stand for nothing (R73, R152, R211, R443). -/
theorem test_decode_system :
    decode 0x000040F1 = .ok (.trapI 1) ∧ decode 0x001040F1 = .ok (.trapI 0x41) ∧ decode 0x01F401F1 = .ok (.breakI 2000) ∧
    decode 0x300303F1 = .ok (.csrr (.w 12) 0x0C) ∧ decode 0x140384F1 = .ok (.csrw (.w 5) 0x0E) ∧
    decode 0x1C0005F1 = .ok (.csrs (.w 7) 0) ∧ decode 0x840006F1 = .ok (.csrc (.o 1) 0) ∧
    decode 0x031002F1 = .ok (.eret (.imm 1)) ∧ decode 0x009287F1 = .ok (.tlbinv (.w 9) (.w 10)) ∧
    decode 0x000008F1 = .ok .tlbsync ∧ decode 0x000009F1 = .ok .wfi ∧ decode 0x14834AF1 = .ok (.potw (.w 5) (.w 8) (.w 13)) ∧
    decode 0x1482CBF1 = .ok (.ctxsave (.w 5) (.w 8) (.w 11)) ∧ decode 0x1482CCF1 = .ok (.ctxload (.w 5) (.w 8) (.w 11)) := by decide

/-! ### Small states -/

/-- A user task of domain 5 in context 0 of core 0, with its workspace and granule 0 of the scratchpad its own; the micro-kernel
has been started. -/
def task : State :=
  { State.reset with
    sec := { Sec.idle with kernel := true },
    me := { Ctx.idle with
      st := .ready, c := { Csr.zero with psw := startPsw false false false, dom := 5, wp := localWindow 0x3A000 } },
    cores := [(0, { Core.idle with
      tags := [(0, { valid := true, dom := 5 })], pool := [(0, { valid := true, dom := 5 })], used := [0] })],
    host := { HostIf.idle with enableWord := Config.enableWord } }

/-- The task with the key of 0x000 active, which owns the lines that its page tables stand in, so that they can be read (R371). -/
def keyed : State :=
  { task with keys := [(0, { dom := 0, key := 0, measurement := 0, measured := false, images := [] })] }

/-- The task in supervisor state, of domain 0x000; granule 0 is the supervisor's. -/
def sup : State :=
  { task with
    me := { task.me with c := { task.me.c with psw := startPsw false false true, dom := 0 } },
    cores := [(0, { Core.idle with tags := [(0, { valid := true, dom := 0 })], used := [0] })] }

/-- The task on thread 0 of gondola core 0, from context 0 of core 0. -/
def gond : State := { task with cur := gkey 0 0, me := { task.me with t := { Task.none with home := some 0 } } }

/-- w(n) of the issuing context is x. -/
def with' (n : WReg) (x : Word) (s : State) : State := s.onRegs (·.setW n x)

/-- The task of launch 1. -/
def launch1 : Launch :=
  { record := 0, dom := 5, entry := 0x100, wrapEntry := 0x200, mode := 0, deadline := 0, est := 0, slackClass := 0, prio := 0,
    timeline := 0, increment := 0, wrapBudget := 1, depth := 0, levels := [], quota := 4, parent := 0, process := 0, result := 0,
    home := 0, part := 0, admitted := 0, pending := [], away := 0, members := [(0, 0)], counter := 0, expired := false,
    diverted := 0, discarded := 0, anyDiverted := false, children := 0, ending := none, source := none, vector := none,
    asid := 0, ttb := 0, slackSeen := 0, cut := none, moved := [], woke := [], seq := 0 }

def launched : State := { task with me := { task.me with t := { Task.none with launch := 1, kind := .leaf } }, launches := [(1, launch1)] }

theorem issues_of {s : State} {i : Instr} (h : (s.precheck i == none && !s.me.tooFar && !s.heldBack i) = true) :
    issues s i := by
  simp only [issues]; simp only [Bool.and_eq_true, beq_iff_eq, Bool.not_eq_true'] at h; exact ⟨h.1.1, h.1.2, h.2⟩

/-- Whether an access completes. -/
def isOk {α : Type} : Mem α → Bool
  | .ok _ _ => true
  | _ => false

theorem ok_of {α : Type} {m : Mem α} (h : isOk m = true) : ∃ a u, m = .ok a u := by
  cases m <;> simp [isOk] at h ⊢

theorem unit_of {m : Mem Unit} (h : isOk m = true) : ∃ u, m = .ok () u := by
  cases m <;> simp [isOk] at h ⊢

/-! ### The statements' hypotheses can be met: the machine -/

/-- A word placed for the fetch: the first step of a task runs ADD w4, w6, w7 (R44). -/
theorem test_StepRunsDecodedInstruction :
    let s := State.reset.withFetchWord 32 0x1061C003
    s.stopped = none ∧ s.agenda = [] ∧ s.nextCtx = some (0, 0) ∧ (s.focus 0).before.isNone = true ∧
      (s.focus 0).fetch = .bits 0x1061C003 ∧ ((s.focus 0).fetchSent (fetchLen 0x1061C003)).isSome = true ∧ decodeFetched 0x1061C003 = .ok (.add (.w 4) (.w 6) (.w 7)) := by
  decide +kernel

/-- Each clause of fetching: ADD w4, w6, w7 (R44) where nothing has been stored, then with its first byte stored by the task from
END_16's, a page without a translation, and the 16-bit END_16 (R152). -/
theorem test_FetchReturnsOldOrNewHalfwords :
    (let s := (State.reset.withFetchWord 32 0x1061C003).focus 0
     (s.check s.who .fetch 0 2).toOption.isSome = true ∧ s.past = [] ∧ s.halfword 0 = .bits 0xC003 ∧
       s.halfword 2 = .bits 0x1061) ∧
    (let s := (State.reset.withFetchWord 32 0x1061C003).focus 0
     let t := { s with past := [(0, 1, 0), (0, 0, 7)], me := { s.me with t := { s.me.t with seen := 1 } } }
     t.olderHalves t.me.t.seen 0 0xC003 = [0xC000]) ∧
    (let s := (State.reset.withFetchWord 32 0x1061C003).focus 0
     s.halfword 0x80000 = .trap .xltFetch 0x80000 ∧ Cause.xltFetch.precise = true) ∧
    (let s := (State.reset.withFetchWord 16 0xA000).focus 0
     s.halfword 0 = .bits 0xA000) := by
  decide +kernel

theorem test_StepWithoutAnInstruction :
    (let s := { State.reset with agenda := [.hotReset] }
     s.stopped = none ∧ s.agenda = .hotReset :: [] ∧ encode .hotReset = none) ∧
    State.reset.stopped = none ∧ State.reset.agenda = [] ∧ State.reset.nextCtx = none := by
  decide +kernel

theorem test_StepKeepsCanonicalForm : canonical State.reset ∧ ∃ t, step State.reset = .next t :=
  ⟨⟨rfl, List.Pairwise.nil, by simp [State.reset]⟩, _, rfl⟩

theorem test_DecodingUndoesEncoding :
    (Instr.add (.w 4) (.w 6) (.w 7)).wf = true ∧ encode (.add (.w 4) (.w 6) (.w 7)) = some (32, 0x1061C003) ∧
    (Instr.mov16 5 9).wf = true ∧ encode (.mov16 5 9) = some (16, 0x0952) := by decide

/-- UND: MIGRATE in a box; ENC: a bank clash; PRIV: POTW in user state. A GMATH opcode on a gondola core. -/
theorem test_CausesComeInOrder :
    encode (.migrate 5) ≠ none ∧
    (let s := { task with me := { task.me with c := { task.me.c with psw := startPsw false true false } } }
     s.unavailable (Instr.migrate 5).grp = true) ∧
    encode (.add (.w 4) (.w 6) (.w 8)) ≠ none ∧ task.unavailable (Instr.add (.w 4) (.w 6) (.w 8)).grp = false ∧
    (Instr.add (.w 4) (.w 6) (.w 8)).wf = false ∧
    (let s := { task with me := { task.me with rep := some { body := 0, n := 1, count := 2, stride := 0, flags := 0, pass := 1, index := 0 } } }
     encode (.fmt 0 0 0 0 false 0 0) ≠ none ∧ (Instr.fmt 0 0 0 0 false 0 0).isControl = true ∧ s.me.rep.isSome = true) ∧
    encode (.potw (.w 5) (.w 8) (.w 13)) ≠ none ∧ task.unavailable (Instr.potw (.w 5) (.w 8) (.w 13)).grp = false ∧
    (Instr.potw (.w 5) (.w 8) (.w 13)).wf = true ∧ (Instr.potw (.w 5) (.w 8) (.w 13)).needsS = true ∧ task.me.c.s = false ∧
    isGmath (.fdivD (.q 3) (.w 1) (.w 2)) = true ∧ isG gond.cur = true ∧
    gond.unavailable (Instr.fdivD (.q 3) (.w 1) (.w 2)).grp = false ∧ (Instr.fdivD (.q 3) (.w 1) (.w 2)).wf = false := by
  decide +kernel

/-- A trap with no prefix pending, and one with a prefix pending, whose save area stands below the trap record. -/
theorem test_TrapTakesTheException :
    (Memory.wf task.mem = true ∧ task.behind = none ∧ task.me.c.s = false) ∧
    (let s := { task with me := { task.me with c := { task.me.c with psw := setBit task.me.c.psw 1 true } } }
     s.behind = none ∧ s.me.c.pp = true ∧ wsKey s.cur s.me = some (spadKey 0 0x3A000) ∧
       (spadKey 0 0x3A000 + 0x554 ≤ s.recordKey s.cur ∨ s.recordKey s.cur + 64 ≤ spadKey 0 0x3A000 + 0x550)) := by decide +kernel

/-- A handler in context 10 for the trap of context 0, and for the store that context 0 has parked in entry 3. -/
def handler (r : TrapRef) : State :=
  { sup with cur := 10, me := { sup.me with t := { Task.none with kind := .supervisor, trap := some r } } }
def trapped : State := { handler (.ctx 0 0 7) with ctxs := [(0, { task.me with st := .held, trapNo := 7 })] }
def parked1 : Parked :=
  { id := 3, no := 7, ord := 7, ctx := 0, serial := 0, fail := 0x1000, parts := [(0x1000, [(0, 1)])], vec := false, dom := 5, s := false,
    asid := 0, ttb := 0, xpc := 0, psw := 0, bits := 0, cause := .xltStore, go := false, stalled := false, payer := none }
def storing : State := { handler (.replay 0 3 7) with ctxs := [(0, task.me)] }.onCore 0 fun k => { k with replay := [parked1] }

theorem test_SupervisorFaultEndsTheTask :
    (sup.behind = none ∧ sup.me.c.s = true ∧ sup.me.t.trap = none ∧ sup.myLogFull = false) ∧
    (trapped.behind = none ∧ trapped.me.c.s = true ∧ trapped.myLogFull = false ∧ trapped.me.t.trap = some (.ctx 0 0 7) ∧ 0 ≠ trapped.cur ∧
      (trapped.ctx 0).st = .held ∧ (trapped.ctx 0).c.serial = 0 ∧ (trapped.ctx 0).trapNo = 7 ∧ (trapped.ctx 0).frames = [] ∧
      (trapped.ctx 0).t.join = none) ∧
    (storing.behind = none ∧ storing.me.c.s = true ∧ storing.myLogFull = false ∧ storing.me.t.trap = some (.replay 0 3 7) ∧
      (storing.core 0).replay.find? (fun q => q.id == 3 && q.no == 7) = some parked1 ∧ parked1.ctx ≠ storing.cur ∧
      (storing.ctx 0).live = true ∧ (storing.ctx 0).c.serial = parked1.serial ∧ homeOf 0 (storing.ctx 0) = 0 ∧
      (storing.ctx 0).frames = [] ∧ (storing.ctx 0).t.join = none) := by decide +kernel

theorem sources_of {l : List Opnd} {s : State}
    (h : (match l with
      | a :: b :: _ => (s.me.r.val2 a b).isSome
      | _ => true) = true) : sourcesReady l s := by
  unfold sourcesReady; split <;> simp_all

/-- Whether a check refuses with a cause and address. -/
def refuses {α β : Type} [DecidableEq β] (r : Except β α) (e : β) : Bool :=
  match r with
  | .error x => decide (x = e)
  | .ok _ => false

/-- Accesses at address 0, which nothing maps, and at addresses that are not aligned: a load, a store and a vector load and
store at a stride, AMO, CAS, LDAQ and STRL; and a scalar store to a granule of another domain. -/
theorem test_TrapsRaiseTheirCauses :
    (issues task (.trapI 1) ∧ issues sup (.breakI 2000) ∧ issues task (.break16 3)) ∧
    (issues keyed (.ldD (.w 9) (.w 8) 0) ∧ keyed.me.room (.w 9) = true ∧ keyed.unitParked 0 8 = false ∧
      refuses (keyed.check keyed.who .load 0 8) (.xltLoad, 0) = true) ∧
    (let s := with' 8 (localWindow 0x1000) keyed
     issues s (.stD (.w 5) (.w 8) 0) ∧ s.me.r.val (.w 5) = some 0 ∧ s.unitParked (localWindow 0x1000) 8 = false ∧
       refuses (s.check s.who .store (localWindow 0x1000) 8) (.pot, localWindow 0x1000) = true) ∧
    (issues keyed (.vlds 3 (.w 8) (.imm 4) .fp32 0) ∧ keyed.me.r.val (.imm 4) = some 4 ∧
      keyed.piecesParked (elementsAt 0 4 (strideAt (.w 8) (.imm 4)) keyed) = false ∧
      refuses (keyed.checkPieces .load 4 (elementsAt 0 4 (strideAt (.w 8) (.imm 4)) keyed)) (.xltLoad, 0, true) = true) ∧
    (issues keyed (.vsts 3 (.w 8) (.imm 2) .fp32 0) ∧ keyed.me.r.val (.imm 2) = some 2 ∧
      refuses (keyed.checkPieces .store 4 (elementsAt 0 4 (strideAt (.w 8) (.imm 2)) keyed)) (.align, 2, false) = true) ∧
    (issues keyed (.amoAdd 21 15 2 0 0) ∧ atomicForm (.amoAdd 21 15 2 0 0) = some (15, 0, 8) ∧ (keyed.w 15).toNat % 8 = 0 ∧
      refuses (rmwChecked (keyed.check keyed.who .store (keyed.w 15) 8) (keyed.check keyed.who .load (keyed.w 15) 8)) (.xltStore, 0) = true ∧
      (with' 15 4 keyed).w 15 = 4) ∧
    (issues keyed (.casW 4 15 8 3 1) ∧ atomicForm (.casW 4 15 8 3 1) = some (15, 3, 4) ∧ keyed.hasParked = false) ∧
    (issues keyed (.ldaq 10 15 3 1) ∧ refuses (keyed.check keyed.who .load (keyed.w 15) 8) (.xltLoad, 0) = true) ∧
    (issues keyed (.strl 10 15 3 1) ∧ refuses (keyed.check keyed.who .store (keyed.w 15) 8) (.xltStore, 0) = true) :=
  ⟨⟨issues_of (by decide +kernel), issues_of (by decide +kernel), issues_of (by decide +kernel)⟩,
   ⟨issues_of (by decide +kernel), by decide +kernel⟩, ⟨issues_of (by decide +kernel), by decide +kernel⟩,
   ⟨issues_of (by decide +kernel), by decide +kernel⟩, ⟨issues_of (by decide +kernel), by decide +kernel⟩,
   ⟨issues_of (by decide +kernel), by decide +kernel⟩, ⟨issues_of (by decide +kernel), by decide +kernel⟩,
   ⟨issues_of (by decide +kernel), by decide +kernel⟩, issues_of (by decide +kernel), by decide +kernel⟩

theorem test_NopRetiresAndTraceBreaks :
    (issues task .nop ∧ quiet task ∧ task.me.rep = none) ∧
    (let s := { task with me := { task.me with c := { task.me.c with psw := setBit task.me.c.psw 18 true } } }
     issues s .nop ∧ s.me.c.tr = true ∧ s.me.c.s = false ∧ s.me.rep = none) :=
  ⟨⟨issues_of (by decide +kernel), rfl, rfl⟩, issues_of (by decide +kernel), by decide +kernel, by decide +kernel, rfl⟩

/-! ### Integer instructions and control flow -/

theorem test_IntegerBinaryResults :
    issues task (.sel (.w 4) (.w 6) (.w 7)) ∧ task.me.r.val2 (.w 6) (.w 7) = some (0, 0) ∧ task.me.room (.w 4) = true ∧
    (intBinary (.sel (.w 4) (.w 6) (.w 7))).isSome = true :=
  ⟨issues_of (by decide +kernel), rfl, rfl, rfl⟩

theorem test_IntegerUnaryResults :
    issues task (.bins (.w 9) (.w 5) 31 0) ∧ task.me.r.val (.w 5) = some 0 ∧ task.me.room (.w 9) = true ∧
    (intUnary (.bins (.w 9) (.w 5) 31 0)).isSome = true :=
  ⟨issues_of (by decide +kernel), rfl, rfl, rfl⟩

theorem test_ImmediateResults :
    issues task (.li (.q 0) 0x2000) ∧ task.me.room (.q 0) = true ∧ (intNullary (.li (.q 0) 0x2000)).isSome = true :=
  ⟨issues_of (by decide +kernel), rfl, rfl⟩

theorem test_IntegerFormsChangeOnlyTheirDestination :
    issues task (.add (.w 0) (.w 6) (.w 7)) ∧ quiet task ∧ task.me.live = true ∧ task.me.r.val2 (.w 6) (.w 7) = some (0, 0) ∧
    task.me.room (.w 0) = true ∧ (intBinary (.add (.w 0) (.w 6) (.w 7))).isSome = true ∧
    (intUnary (.clz (.w 4) (.w 6))).isSome = true ∧ (intNullary (.li (.w 4) 0)).isSome = true :=
  ⟨issues_of (by decide +kernel), rfl, rfl, rfl, rfl, rfl, rfl, rfl⟩

/-- An empty q2 as a source, and a full q0 as the destination, of each shape. -/
theorem test_QueuesMakeTheInstructionWait :
    (issues task (.add (.w 4) (.q 2) (.w 7)) ∧ issues task (.faddD (.w 4) (.q 2) (.w 7) .rne) ∧ issues task (.fminS (.w 4) (.q 2) (.w 7)) ∧
      issues gond (.fdivD (.w 4) (.q 2) (.w 7)) ∧ runsHere gond (.fdivD (.w 4) (.q 2) (.w 7)) ∧ task.me.r.val2 (.q 2) (.w 7) = none) ∧
    (let s := task.onRegs fun r => r.setQ 0 (List.replicate 8 0)
     issues s (.add (.q 0) (.w 6) (.w 7)) ∧ issues s (.li (.q 0) 0) ∧ issues s (.ldD (.q 0) (.w 8) 0) ∧ s.me.room (.q 0) = false) ∧
    (issues task (.clz (.w 4) (.q 2)) ∧ issues task (.frcpD (.w 4) (.q 2) .rne) ∧ issues task (.fcvt (.w 4) (.q 2) .rne .f32 .f64) ∧
      issues task (.vbcast 1 (.q 0) .fp32) ∧ issues task (.vextr 1 (.q 2) (.q 0) .fp32) ∧ task.me.r.val (.q 2) = none ∧
      task.me.r.val (.q 0) = none) ∧
    (issues task (.ldx (.w 9) (.w 8) (.q 2) 3 3) ∧ ¬ sourcesReady [.w 8, .q 2] task) ∧
    (issues task (.stD (.q 2) (.w 8) 0) ∧ (storeForm (.stD (.q 2) (.w 8) 0)).isSome = true) ∧
    (issues task (.vins 1 (.q 0) (.imm 1) .fp32) ∧ task.me.r.val2 (.q 0) (.imm 1) = none ∧ quiet task) :=
  ⟨⟨issues_of (by decide +kernel), issues_of (by decide +kernel), issues_of (by decide +kernel), issues_of (by decide +kernel),
    fun _ => by decide +kernel, by decide +kernel⟩,
   ⟨issues_of (by decide +kernel), issues_of (by decide +kernel), issues_of (by decide +kernel), by decide +kernel⟩,
   ⟨issues_of (by decide +kernel), issues_of (by decide +kernel), issues_of (by decide +kernel), issues_of (by decide +kernel),
    issues_of (by decide +kernel), by decide +kernel⟩,
   ⟨issues_of (by decide +kernel), by unfold sourcesReady; decide +kernel⟩, ⟨issues_of (by decide +kernel), rfl⟩,
   issues_of (by decide +kernel), by decide +kernel, rfl⟩

theorem test_JumpsGoToTheirTargets :
    issues task (.jmp (-1)) ∧ issues task (.j (-1)) ∧ issues task (.call 0x80) ∧ issues task (.jr (.w 0) (.w 8) 1) ∧
    task.me.r.val (.w 8) = some 0 ∧ task.me.room (.w 0) = true ∧ issues task (.jr16 31) :=
  ⟨issues_of (by decide +kernel), issues_of (by decide +kernel), issues_of (by decide +kernel), issues_of (by decide +kernel),
   rfl, rfl, issues_of (by decide +kernel)⟩

/-- B.EQ is taken on equal sources, B.NE is not; BEQZ is taken on a register of zero, BNEZ is not. -/
theorem test_BranchesFollowTheirConditions :
    (issues task (.bEq (.w 1) (.w 2) (-2)) ∧ task.me.r.val2 (.w 1) (.w 2) = some (0, 0) ∧
      (branches (.bEq (.w 1) (.w 2) (-2))).isSome = true ∧ (0 : Word) = 0) ∧
    (issues task (.bNe (.w 1) (.w 2) 4) ∧ (branches (.bNe (.w 1) (.w 2) 4)).isSome = true ∧ ¬ (0 : Word) ≠ 0) ∧
    (issues task (.beqz 1 4) ∧ (branches16 (.beqz 1 4)).isSome = true ∧ task.me.r.getW 1 = 0) ∧
    (issues task (.bnez 1 4) ∧ (branches16 (.bnez 1 4)).isSome = true ∧ ¬ task.me.r.getW 1 ≠ 0) :=
  ⟨⟨issues_of (by decide +kernel), rfl, rfl, rfl⟩, ⟨issues_of (by decide +kernel), rfl, by decide⟩,
   ⟨issues_of (by decide +kernel), rfl, by decide +kernel⟩, issues_of (by decide +kernel), rfl, by decide +kernel⟩

/-! ### Memory -/

/-- The local-window address of a byte of granule 0 of the task's scratchpad. -/
def here (off : Nat) : Word := localWindow off

theorem test_LoadResults :
    let s := with' 8 (here 0x20) task
    issues s (.ldB (.w 9) (.w 8) 0xFFF) ∧ s.me.room (.w 9) = true ∧ (loadForm (.ldB (.w 9) (.w 8) 0xFFF)).isSome = true ∧
    (∃ b u, s.load (baseOff (.w 8) (-1) s) 1 = .ok b u) ∧
    issues s (.ldxu (.w 9) (.w 8) (.w 11) 2 3) ∧ sourcesReady [.w 8, .w 11] s ∧
    (∃ b u, s.load (baseIndex (.w 8) (.w 11) 3 s) 4 = .ok b u) :=
  ⟨issues_of (by decide +kernel), by decide +kernel, rfl, ok_of (by decide +kernel), issues_of (by decide +kernel),
   by unfold sourcesReady; decide +kernel, ok_of (by decide +kernel)⟩

/-- The task with eight stores parked, and on a gondola thread with no home core. -/
def fullQueue : State := keyed.onCore 0 fun k => { k with replay := (List.range 8).map fun i => { parked1 with id := i, fail := 0x100000, parts := [(0x100000, [(0, 1)])] } }
def homeless : State := { gond with me := { gond.me with t := Task.none }, keys := keyed.keys }

/-- A store that completes; one at address 0, which nothing maps: it parks, it waits behind a full queue, and it has none to
park in. -/
theorem test_StoresComplete :
    (let s := with' 8 (here 0x20) task
     issues s (.stD (.w 5) (.w 8) 8) ∧ sourcesReady [.w 5] s ∧ (storeForm (.stD (.w 5) (.w 8) 8)).isSome = true ∧
       s.me.r.val (.w 5) = some 0 ∧ (∃ u, s.store (baseOff (.w 8) 8 s) (natLe 8 0) = .ok () u)) ∧
    (issues keyed (.stD (.w 5) (.w 8) 0) ∧ keyed.unitParked 0 8 = false ∧ refuses (keyed.check keyed.who .store 0 8) (.xltStore, 0) = true ∧
      stepOf 0 .xltStore = 2 ∧ homeOf keyed.cur keyed.me < 8192 ∧
      (keyed.parkIn keyed.cur keyed.who 0 false [(0, numbered (natLe 8 0))] 0 0 none).isSome = true) ∧
    (issues fullQueue (.stD (.w 5) (.w 8) 0) ∧ fullQueue.unitParked 0 8 = false ∧ (∀ e, e < 8 → ∃ q ∈ (fullQueue.core 0).replay, q.id = e) ∧
      Memory.wf fullQueue.mem = true ∧
      (fullQueue.parkIn fullQueue.cur fullQueue.who 0 false [(0, numbered (natLe 8 0))] 0 0 none).isNone = true) ∧
    (issues homeless (.stD (.w 5) (.w 8) 0) ∧ 8192 ≤ homeOf homeless.cur homeless.me ∧ homeless.unitParked 0 8 = false ∧
      refuses (homeless.check homeless.who .store 0 8) (.xltStore, 0) = true) :=
  ⟨⟨issues_of (by decide +kernel), trivial, rfl, by decide +kernel, unit_of (by decide +kernel)⟩,
   ⟨issues_of (by decide +kernel), by decide +kernel⟩, ⟨issues_of (by decide +kernel), by decide +kernel⟩,
   issues_of (by decide +kernel), by decide +kernel⟩

theorem test_LoadsChangeOnlyTheirDestination :
    let s := with' 8 (here 0x20) task
    issues s (.ldD (.w 9) (.w 8) 0) ∧ quiet s ∧ s.me.live = true ∧ s.me.room (.w 9) = true ∧
    (∃ b u, s.load (baseOff (.w 8) 0 s) 8 = .ok b u) :=
  ⟨issues_of (by decide +kernel), by unfold quiet; decide +kernel, by decide +kernel, by decide +kernel, ok_of (by decide +kernel)⟩

theorem canonical_of {s : State} (hm : Memory.wf s.mem = true) (h : s.ctxs = []) : canonical s := by
  refine ⟨hm, ?_, ?_⟩ <;> simp [h]

/-- The check of a store gives its places, which differ. -/
theorem test_StoresChangeOnlyTheirBytes :
    let s := with' 8 (here 0x20) task
    issues s (.stD (.w 5) (.w 8) 8) ∧ quiet s ∧ s.me.live = true ∧ canonical s ∧ s.me.r.val (.w 5) = some 0 ∧
    s.check s.who .store (baseOff (.w 8) 8 s) 8 =
      .ok ((List.range 8).map fun i => { key := spadKey 0 (0x28 + i), owner := 5, metered := false }) ∧
    (∃ u, s.store (baseOff (.w 8) 8 s) (natLe 8 0) = .ok () u) ∧ notOwn s (spadKey 0 0x28) :=
  ⟨issues_of (by decide +kernel), by unfold quiet; decide +kernel, by decide +kernel,
   canonical_of (by decide +kernel) (by decide +kernel), by decide +kernel, by rfl, unit_of (by decide +kernel),
   by
    intro b hb
    have : b = 0x3A000 := by
      have h : wsBase (spadCore (spadKey 0 0x28)) (with' 8 (here 0x20) task).cur (with' 8 (here 0x20) task).me = some 0x3A000 := by
        decide +kernel
      rw [h] at hb; exact (Option.some.inj hb).symm
    subst this; decide +kernel⟩

theorem test_StoredBytesReadBack :
    (with' 8 (here 0x20) task).images = [] ∧
    (let l := (List.range 8).map fun i => (Where.mk (spadKey 0 (0x28 + i)) 5 false)
     (l.map Where.key).Nodup ∧ ∀ p ∈ l, (task.core (spadCore p.key)).overflowByte (spadOff p.key) = none) := by decide +kernel

/-- Bytes stand in granule 0 of the task's scratchpad. -/
def bytesAt (off : Nat) (b : List Byte) (s : State) : State := { s with mem := Memory.setBytes s.mem (spadKey 0 off) b }

/-! ### Atomic and ordering instructions -/

/-- AMO.ADD.ar and CAS.ar of an aligned word: CAS finds what d expects, and does not find it. -/
theorem test_AtomicOperationsStoreTheirResult :
    let s := with' 15 (here 0x40) task
    (issues s (.amoAdd 21 15 2 3 0) ∧ (amoForm (.amoAdd 21 15 2 3 0)).isSome = true ∧ (s.w 15).toNat % 8 = 0 ∧
      s.hasParked = false ∧ ∃ old u, s.rmw (s.w 15) 8 (fun old => some (natLe 8 ((leNat old + 0) % 2 ^ 64))) = .ok old u) ∧
    (issues s (.cas 4 15 8 3 1) ∧ ∃ old u, s.rmw (s.w 15) 8 (fun old => if leNat old = 0 then some (natLe 8 (s.w 8).toNat) else none) = .ok old u) ∧
    (let s := bytesAt 0x40 (natLe 4 7) s
     issues s (.casW 4 15 8 3 1) ∧ (s.w 15).toNat % 4 = 0 ∧
      ∃ old u, s.rmw (s.w 15) 4 (fun old => if leNat old = 0 then some (natLe 4 (s.w 8).toNat) else none) = .ok old u) :=
  ⟨⟨issues_of (by decide +kernel), rfl, by decide +kernel, by decide +kernel, ok_of (by decide +kernel)⟩,
   ⟨issues_of (by decide +kernel), ok_of (by decide +kernel)⟩,
   issues_of (by decide +kernel), by decide +kernel, ok_of (by decide +kernel)⟩

/-- Each ordering instruction; WAITM.NE finds 7 where B holds 0, WAITM of the other conditions finds 0. -/
theorem test_OrderedAccessesComplete :
    let s := with' 15 (here 0x40) task
    (issues s (.ldaq 10 15 3 1) ∧ (s.w 15).toNat % 2 ^ 3 = 0 ∧ ∃ b u, s.load (s.w 15) 8 = .ok b u) ∧
    (issues s (.strl 7 15 2 1) ∧ s.hasParked = false ∧ ∃ u, s.store (s.w 15) (natLe 4 0) = .ok () u) ∧
    (let t := bytesAt 0x40 (natLe 8 7) s
     issues t (.waitm 10 15 0 0 1 1) ∧ (∃ y u, t.load (t.w 15) 8 = .ok y u) ∧ (7 : Word) ≠ t.w 0) ∧
    (issues s (.waitm 10 15 0 1 1 1) ∧ (∃ y u, s.load (s.w 15) 8 = .ok y u) ∧ (0 : Word) = s.w 0 ∧ ((0 : Word) - s.w 0).toNat < 2 ^ 63) ∧
    (issues s (.fence 0b1111 1 3) ∧ s.hasParked = false ∧ s.engBusy = false ∧ s.loftBusy = false) ∧
    (issues s (.fence 0b0100 2 3) ∧ issues s (.fence 0b0010 2 3)) ∧ issues s (.pause 0) ∧
    (issues s (.pause 64) ∧ quiet s ∧ s.me.rep = none ∧ issues s .pause16) :=
  ⟨⟨issues_of (by decide +kernel), by decide +kernel, ok_of (by decide +kernel)⟩,
   ⟨issues_of (by decide +kernel), by decide +kernel, unit_of (by decide +kernel)⟩,
   ⟨issues_of (by decide +kernel), ok_of (by decide +kernel), by decide +kernel⟩,
   ⟨issues_of (by decide +kernel), ok_of (by decide +kernel), by decide +kernel⟩,
   ⟨issues_of (by decide +kernel), by decide +kernel⟩,
   ⟨issues_of (by decide +kernel), issues_of (by decide +kernel)⟩, issues_of (by decide +kernel),
   issues_of (by decide +kernel), by unfold quiet; decide +kernel, by decide +kernel, issues_of (by decide +kernel)⟩

/-! ### Floating point and moves between cores -/

theorem test_FloatResults :
    (issues task (.fmaD (.w 10) (.w 4) (.w 5) .rne) ∧ runsHere task (.fmaD (.w 10) (.w 4) (.w 5) .rne) ∧
      (fopTwo (.fmaD (.w 10) (.w 4) (.w 5) .rne)).isSome = true ∧ task.me.r.val2 (.w 4) (.w 5) = some (0, 0) ∧
      task.me.room (.w 10) = true) ∧
    (issues gond (.fsqrtS (.w 5) (.w 6)) ∧ runsHere gond (.fsqrtS (.w 5) (.w 6)) ∧ (fopOne (.fsqrtS (.w 5) (.w 6))).isSome = true ∧
      gond.me.r.val (.w 6) = some 0 ∧ gond.me.room (.w 5) = true) ∧
    (issues task (.fcmpltS (.w 5) (.w 6) (.w 7)) ∧ (fopBits (.fcmpltS (.w 5) (.w 6) (.w 7))).isSome = true) ∧
    issues task (.fclassD (.w 5) (.w 6)) ∧ issues task (.fclassS (.w 5) (.w 6)) ∧ issues task (.fcvt (.l 0) (.w 11) .dyn .u64 .f32) ∧
    task.me.room (.l 0) = true :=
  ⟨⟨issues_of (by decide +kernel), fun h => by simp [isGmath] at h, rfl, rfl, rfl⟩,
   ⟨issues_of (by decide +kernel), fun _ => by decide +kernel, rfl, rfl, rfl⟩, ⟨issues_of (by decide +kernel), rfl⟩,
   issues_of (by decide +kernel), issues_of (by decide +kernel), issues_of (by decide +kernel), rfl⟩

theorem test_WideProducts :
    issues gond (.clmul (.w 5) (.w 6) (.w 7)) ∧ isG gond.cur = true ∧ (wideForm (.clmul (.w 5) (.w 6) (.w 7))).isSome = true ∧
    gond.me.r.val2 (.w 6) (.w 7) = some (0, 0) ∧ gond.me.room (.w 5) = true :=
  ⟨issues_of (by decide +kernel), by decide +kernel, rfl, rfl, rfl⟩

/-- A GMATH instruction and MIGRATE on a small core with a free thread; MIGRATE back with a free home context, and of a task
that has no home. -/
theorem test_TasksMoveBetweenCores :
    (isGmath (.fdivD (.w 5) (.w 6) (.w 7)) = true ∧ isG task.cur = false ∧ issues task (.fdivD (.w 5) (.w 6) (.w 7)) ∧
      task.me.c.gd = 0 ∧ task.behind = none ∧ task.hasParked = false ∧ task.freeThread (ctxDie task.cur) = some (gkey 0 0)) ∧
    issues task (.migrate 5) ∧
    (issues gond (.migrate 5) ∧ gond.hasParked = false ∧ isG gond.cur = true ∧ gond.me.c.gd = 0 ∧ gond.behind = none ∧
      gond.me.t.home = some 0 ∧ (gond.core (coreOf 0)).box = none ∧ (gond.core (coreOf 0)).mode = .serving ∧
      gond.freeCtx (coreOf 0) 0 = some 0) ∧
    (let s := { gond with me := { gond.me with t := Task.none } }
     issues s (.migrate 5) ∧ isG s.cur = true ∧ s.me.c.gd = 0 ∧ s.me.t.home = none) :=
  ⟨⟨rfl, by decide +kernel, issues_of (by decide +kernel), by decide +kernel⟩, issues_of (by decide +kernel),
   ⟨issues_of (by decide +kernel), by decide +kernel⟩, issues_of (by decide +kernel), by decide +kernel⟩

/-! ### Vector instructions -/

theorem test_VectorResults :
    (issues task (.vmin 1 2 3 0 .fp32) ∧ (laneForm (.vmin 1 2 3 0 .fp32)).isSome = true) ∧ issues task (.vsel 1 2 3 1 .int8) ∧
    (issues task (.vfma 10 2 2 0 .fp32 .dyn) ∧ (fusedForm (.vfma 10 2 2 0 .fp32 .dyn)).isSome = true) ∧
    issues task (.vcmp 1 2 3 0 .fp32 1) ∧
    (issues task (.vredamax 8 0 0 .fp32) ∧ (reduceForm (.vredamax 8 0 0 .fp32)).isSome = true) ∧
    (issues task (.vbcast 11 (.w 4) .fp32) ∧ task.me.r.val (.w 4) = some 0) ∧
    (issues task (.vins 1 (.w 4) (.imm 7) .fp32) ∧ task.me.r.val2 (.w 4) (.imm 7) = some (0, 7)) ∧
    (issues task (.vextr 10 (.q 2) (.imm 0) .fp32) ∧ task.lstatPending task.cur false = false) ∧
    (issues task (.vzip 1 2 3 .int16) ∧ (permForm (.vzip 1 2 3 .int16)).isSome = true) ∧ issues task (.viota 1 .bf16) ∧
    (issues task (.vcvtNarrow 0 6 7 .fp32 .bf16) ∧ (convertForm (.vcvtNarrow 0 6 7 .fp32 .bf16)).isSome = true) :=
  ⟨⟨issues_of (by decide +kernel), rfl⟩, issues_of (by decide +kernel), ⟨issues_of (by decide +kernel), rfl⟩,
   issues_of (by decide +kernel), ⟨issues_of (by decide +kernel), rfl⟩, ⟨issues_of (by decide +kernel), rfl⟩,
   ⟨issues_of (by decide +kernel), rfl⟩, ⟨issues_of (by decide +kernel), by decide +kernel⟩, ⟨issues_of (by decide +kernel), rfl⟩,
   issues_of (by decide +kernel), issues_of (by decide +kernel), rfl⟩

theorem test_VectorIntegerElements :
    issues task (.vmulh 1 2 3 0 .int16) ∧ (vecInt (.vmulh 1 2 3 0 .int16)).isSome = true ∧ quiet task ∧
    (Fmt.ofSz .int16).isFloat = false :=
  ⟨issues_of (by decide +kernel), rfl, rfl, rfl⟩

theorem test_PrefixScaleAndCodebook :
    (issues task (.fmt 2 10 2 7 false 0 0) ∧ quiet task ∧ task.me.rep = none) ∧
    (let s := with' 13 (here 0x40) task
     issues s (.cbld 0 (.w 13) 0) ∧ s.me.r.val (.w 13) = some (here 0x40) ∧ (here 0x40).toNat % 32 = 0 ∧
       ∃ y u, s.load (here 0x40) 32 = .ok y u) ∧
    (issues task (.scset 1 (.w 4)) ∧ task.me.r.val (.w 4) = some 0) ∧ (issues task (.scget (.w 5) 1) ∧ task.me.room (.w 5) = true) :=
  ⟨⟨issues_of (by decide +kernel), rfl, rfl⟩,
   ⟨issues_of (by decide +kernel), by decide +kernel, by decide +kernel, ok_of (by decide +kernel)⟩,
   ⟨issues_of (by decide +kernel), rfl⟩, issues_of (by decide +kernel), rfl⟩

/-- The task under a prefix word. -/
def prefixed (fa fb fc : BitVec 4) (sc : BitVec 3) : State :=
  match exec (.fmt fa fb fc 7 false sc 0) task with
  | .next t => t
  | _ => task

/-- VPACK and VUNPK under INT4 codes, VDEQ from C4 to BF16, VSCALE of FP32 by sc1, VQNT from FP32 to E4M3. -/
theorem test_NarrowConversions :
    ((prefixed 9 9 9 0).me.prefix.packing = true ∧ issues (prefixed 9 9 9 0) (.vpack 3 6 1) ∧
      issues (prefixed 9 9 9 0) (.vunpkHi 7 3)) ∧
    (let s := prefixed 10 10 2 0
     let x := s.me.prefix
     issues s (.vdeq 4 9 0) ∧ x.fb = x.fa ∧ codeFmt x.fa = .c4 ∧ (codeFmt x.fc).isWide = true ∧
       0 * (512 / (codeFmt x.fc).bits) < 512 / (codeFmt x.fa).bits) ∧
    (let s := prefixed 1 1 1 1
     let x := s.me.prefix
     issues s (.vscale 2 2) ∧ x.fb = x.fa ∧ x.fc = x.fa ∧ (codeFmt x.fa).isWide = true ∧ x.sc ≠ 0) ∧
    (let s := prefixed 1 1 4 1
     let x := s.me.prefix
     issues s (.vqnt 8 2 3 1) ∧ x.fb = x.fa ∧ (codeFmt x.fa).isWide = true ∧ (codeFmt x.fc).isNarrow = true ∧
       2 * (512 / (codeFmt x.fa).bits) * 1 < 512 / (codeFmt x.fc).bits) :=
  ⟨⟨by decide +kernel, issues_of (by decide +kernel), issues_of (by decide +kernel)⟩,
   ⟨issues_of (by decide +kernel), by decide +kernel⟩, ⟨issues_of (by decide +kernel), by decide +kernel⟩,
   issues_of (by decide +kernel), by decide +kernel⟩

/-- VLD of a whole register, VGATH of nothing under a clear mask, VSTS at a stride. -/
theorem test_VectorLoadsFillActiveElements :
    let s := with' 8 (here 0x80) task
    (issues s (.vld 3 (.w 8) (-1) 0) ∧ quiet s ∧ (vecLoad (.vld 3 (.w 8) (-1) 0)).isSome = true ∧
      ∃ b u, s.loadPieces 64 (blockAt 0 (.w 8) (-1) s) = .ok b u) ∧
    (issues s (.vlds 3 (.w 8) (.imm 4) .fp32 0) ∧ s.me.r.val (.imm 4) = some 4 ∧
      ∃ b u, s.loadPieces 4 (elementsAt 0 4 (strideAt (.w 8) (.imm 4)) s) = .ok b u) ∧
    (issues s (.vgath 3 (.w 8) 5 .int32 1) ∧ ∃ b u, s.loadPieces 4 (elementsAt 1 4 (indexAt (.w 8) 5 4) s) = .ok b u) :=
  ⟨⟨issues_of (by decide +kernel), by unfold quiet; decide +kernel, rfl, ok_of (by decide +kernel)⟩,
   ⟨issues_of (by decide +kernel), by decide +kernel, ok_of (by decide +kernel)⟩,
   issues_of (by decide +kernel), ok_of (by decide +kernel)⟩

theorem test_VectorStores :
    let s := with' 8 (here 0x80) task
    issues s (.vst 3 (.w 8) 0 0) ∧ quiet s ∧ s.me.live = true ∧ canonical s ∧ (vecStore (.vst 3 (.w 8) 0 0)).isSome = true ∧
    (∃ u, s.storePieces 64 (blockAt 0 (.w 8) 0 s) (List.replicate 64 0) = .ok () u) ∧
    (s.checkPieces .store 64 (blockAt 0 (.w 8) 0 s)).toOption.isSome = true ∧
    issues s (.vsts 3 (.w 8) (.imm 4) .fp32 0) ∧ (vecStore (.vsts 3 (.w 8) (.imm 4) .fp32 0)).isSome = true ∧
    (∃ u, s.storePieces 4 (elementsAt 0 4 (strideAt (.w 8) (.imm 4)) s) (List.replicate 64 0) = .ok () u) ∧
    (let l := elementsAt 0 4 (strideAt (.w 8) (.imm 4)) keyed
     issues keyed (.vsts 3 (.w 8) (.imm 4) .fp32 0) ∧ keyed.piecesParked l = false ∧ fullQueue.piecesParked l = false ∧
       refuses (keyed.checkPieces .store 4 l) (.xltStore, 0, true) = true ∧ refuses (fullQueue.checkPieces .store 4 l) (.xltStore, 0, true) = true ∧
       homeOf keyed.cur keyed.me < 8192) :=
  ⟨issues_of (by decide +kernel), by unfold quiet; decide +kernel, by decide +kernel,
   canonical_of (by decide +kernel) (by decide +kernel), rfl, unit_of (by decide +kernel), by decide +kernel,
   issues_of (by decide +kernel), rfl, unit_of (by decide +kernel), issues_of (by decide +kernel), by decide +kernel⟩

/-- A slot of 16 rows of 64 bytes (BF16, 32 columns, a pitch of 64 bytes) at the start of granule 0. -/
def slot16 : TileSlot :=
  { shape := BitVec.ofNat 64 (2 ^ 36 + 2 * 2 ^ 32 + 32 * 2 ^ 16 + 16), st := .ready, dom := 5, base := 0, launch := 0 }

def slotted : State := task.setSlot 0 1 slot16

/-- VLDT and VSTT of row 1 of the slot, by an immediate row and by w1. -/
theorem test_TileBlocksMove :
    let s := with' 1 1 slotted
    (s.slot s.myCore 1).st = .ready ∧ (s.slot s.myCore 1).dom = s.me.c.dom ∧ (s.w 1).toNat < shapeRows slot16.shape ∧
    0 * 64 < rowBytes slot16.shape ∧ issues s (.vldt 0 1 33 0) ∧ issues s (.vldt 0 1 1 0) ∧ issues s (.vstt 0 1 33 0) ∧ (s.core s.myCore).loftq = [] ∧
    (∃ b u, s.load (localWindow 64) 64 = .ok b u) ∧ (∃ u, s.store (localWindow 64) (natLe 64 0) = .ok () u) :=
  ⟨by decide +kernel, by decide +kernel, by decide +kernel, by decide +kernel, issues_of (by decide +kernel),
   issues_of (by decide +kernel), issues_of (by decide +kernel), by decide +kernel, ok_of (by decide +kernel),
   unit_of (by decide +kernel)⟩

/-- REP at address 0 of a mapped page, with ADD w4, w6, w7 after it; counts of 0, 4 and 4097; and the steps of its passes. -/
theorem test_RepRunsItsBody :
    let m := State.reset.withFetchWord 32 0x03405AC1
    let s := { m with mem := Memory.setBytes m.mem 4 (natLe 4 0x1061C003) }
    (issues s (.rep 0 (.imm 4) 1 26) ∧ s.me.entry (.imm 4) = some 4 ∧ s.me.entry (.imm 0) = some 0 ∧
      (with' 1 4097 s).me.entry (.w 1) = some 4097 ∧ quiet s ∧ s.me.rep = none ∧
      (match s.body (s.me.pc + 4) 1 with
       | .ok next => next == 8
       | _ => false) = true) ∧
    (let r : Rep := { body := 4, n := 2, count := 2, stride := 1, flags := 26, pass := 0, index := 0 }
     quiet s ∧ r.index + 1 < r.n ∧ ({ r with index := 1 } : Rep).index + 1 = r.n ∧ r.pass + 1 < r.count ∧
       ({ r with pass := 1 } : Rep).pass + 1 = r.count) :=
  ⟨⟨issues_of (by decide +kernel), by decide +kernel, by decide +kernel, by decide +kernel, by unfold quiet; decide +kernel,
    by decide +kernel⟩, by unfold quiet; decide +kernel⟩

/-! ### Tile slots, reel engines and the loft -/

/-- An engine command of the task on slot 1, which is FILLING; and an LDRN into it. -/
def filling : State :=
  let s := slotted.setSlot 0 1 { slot16 with st := .filling }
  s.onCore 0 fun k => { k with eng := { k.eng with queue := [kicked slotted .rget 1 0 0], lastSerial := 1 } }
def draining : State :=
  (slotted.setSlot 0 1 { slot16 with st := .filling }).onCore 0 fun k => { k with loftq := [slotted.loftBlank (.ldrn 0) 1] }

/-- TSET of 16 rows of 64 bytes at the start of granule 0 and of rows that end with it; TSTATE, TDRAIN, TFREE and TWAIT of a
READY, an EMPTY and a FILLING slot; and the slot of another domain. -/
theorem test_TileSlotInstructions :
    (issues task (.tset 0 (.w 18) (.w 15)) ∧ task.slotHeld 0 = false ∧ (task.slot task.myCore 0).st = .empty ∧
      (let s := with' 18 (localWindow 0xC00) (with' 15 slot16.shape task)
       s.me.r.val2 (.w 18) (.w 15) = some (localWindow 0xC00, slot16.shape)) ∧
      (localWindow 0xC00).toNat % 64 = 0 ∧ slot16.shape.toNat < 2 ^ 52 ∧ shapeCode slot16.shape ≠ 15 ∧
      shapeRows slot16.shape ≠ 0 ∧ shapeCols slot16.shape ≠ 0 ∧ rowBytes slot16.shape ≤ shapePitch slot16.shape * 64 ∧
      0xC00 + shapeRows slot16.shape * shapePitch slot16.shape * 64 = 4096 ∧ task.granuleFree 0 0 = true) ∧
    (issues slotted (.tstate (.w 5) 1 true) ∧ slotted.me.room (.w 5) = true ∧ (slotted.slot slotted.myCore 1).dom = slotted.me.c.dom) ∧
    (issues slotted (.tdrain (.w 4) 1) ∧ (slotted.core slotted.myCore).loftq = []) ∧
    (let c := kicked slotted .rget 1 0 0
     issues filling (.tdrain (.w 4) 1) ∧ (filling.slot filling.myCore 1).st.busy = true ∧
       (filling.core filling.myCore).eng.queue.find? (·.uses 1) = some c ∧ c.started = false) ∧
    (let c := slotted.loftBlank (.ldrn 0) 1
     issues draining (.tdrain (.w 4) 1) ∧ (draining.slot draining.myCore 1).st.busy = true ∧
       (draining.core draining.myCore).eng.queue = [] ∧ (draining.core draining.myCore).loftq.find? (·.drains 1) = some c ∧
       c.started = false ∧ c.reads 1 = false) ∧
    (issues slotted (.tfree 1) ∧ slotted.slotHeld 1 = false ∧ slotMine slotted 1 ∧ issues slotted (.twait 1)) ∧
    (let s := slotted.setSlot 0 1 { slot16 with dom := 6 }
     issues s (.twait 1) ∧ issues s (.tstate (.w 5) 1 false) ∧ issues s (.tfree 1) ∧ issues s (.tset 1 (.w 18) (.w 15)) ∧
       issues s (.tdrain (.w 4) 1) ∧ s.slotHeld 1 = false ∧ (s.core s.myCore).loftq = [] ∧ s.me.r.val2 (.w 18) (.w 15) = some (0, 0) ∧
       (s.slot s.myCore 1).st = .ready ∧ (s.slot s.myCore 1).dom ≠ s.me.c.dom) ∧
    (let s := slotted.setSlot 0 1 { slot16 with dom := 6, st := .draining }
     issues s (.tstate (.w 5) 1 false) ∧ issues s (.tdrain (.w 4) 1) ∧ (s.slot s.myCore 1).st.busy = true ∧
       (s.slot s.myCore 1).dom ≠ s.me.c.dom) ∧
    (issues filling (.twait 1) ∧ issues filling (.rget 1 (.w 21) (.w 0)) ∧ issues filling (.vldt 0 1 33 0) ∧
      issues filling (.lmm 0 0 1 false) ∧ namesTile (.vldt 0 1 33 0) = some 1 ∧ namesTile (.lmm 0 0 1 false) = some 1) ∧
    (issues task (.rput 1 (.w 21) (.w 0)) ∧ issues task (.vstt 0 1 33 0) ∧ issues task (.ldrn 0 1) ∧ (task.slot task.myCore 1).st = .empty ∧
      task.slotHeld 1 = false ∧ task.me.r.val2 (.w 21) (.w 0) = some (0, 0) ∧ (task.core task.myCore).loftq = []) :=
  ⟨⟨issues_of (by decide +kernel), by decide +kernel⟩,
   ⟨issues_of (by decide +kernel), by decide +kernel⟩,
   ⟨issues_of (by decide +kernel), by decide +kernel⟩,
   ⟨issues_of (by decide +kernel), by decide +kernel⟩,
   ⟨issues_of (by decide +kernel), by decide +kernel⟩,
   ⟨issues_of (by decide +kernel), by decide +kernel, by unfold slotMine; decide +kernel, issues_of (by decide +kernel)⟩,
   ⟨issues_of (by decide +kernel), issues_of (by decide +kernel), issues_of (by decide +kernel), issues_of (by decide +kernel),
    issues_of (by decide +kernel), by decide +kernel⟩,
   ⟨issues_of (by decide +kernel), issues_of (by decide +kernel), by decide +kernel⟩,
   ⟨issues_of (by decide +kernel), issues_of (by decide +kernel), issues_of (by decide +kernel), issues_of (by decide +kernel), rfl, rfl⟩,
   issues_of (by decide +kernel), issues_of (by decide +kernel), issues_of (by decide +kernel), by decide +kernel⟩

theorem test_EngineCommandsEnterTheQueue :
    (issues slotted (.rget 1 (.w 21) (.w 0)) ∧ quiet slotted ∧ slotMine slotted 1 ∧ (slotted.core slotted.myCore).loftq = [] ∧
      slotted.me.r.val2 (.w 21) (.w 0) = some (0, 0) ∧ slotted.hasParked = false ∧
      (slotted.core slotted.myCore).eng.queue.length < 8) ∧
    (issues slotted (.rscat 1 (.w 21) (.w 0)) ∧ (slotForm (.rscat 1 (.w 21) (.w 0))).isSome = true) ∧
    (issues task (.rcopy (.w 5) (.w 8)) ∧ (descForm (.rcopy (.w 5) (.w 8))).isSome = true ∧ task.me.room (.w 5) = true) ∧
    (issues task (.rstat (.w 7)) ∧ (task.core task.myCore).eng.queue.length ≤ 8 ∧ (task.core task.myCore).eng.weight < 256) ∧
    (issues sup (.rctx (.w 4) (.w 8) (.w 9)) ∧ sup.me.r.val2 (.w 8) (.w 9) = some (0, 0) ∧
      (31 < 32 ∧ sup.coreEnabled 31 = true ∧ 1 ≤ 255 ∧ 255 ≤ 255) ∧ ¬ 1 ≤ (0 : Word).toNat) :=
  ⟨⟨issues_of (by decide +kernel), by unfold quiet; decide +kernel, by unfold slotMine; decide +kernel, by decide +kernel⟩,
   ⟨issues_of (by decide +kernel), rfl⟩, ⟨issues_of (by decide +kernel), rfl, rfl⟩,
   ⟨issues_of (by decide +kernel), by decide +kernel⟩,
   issues_of (by decide +kernel), by decide +kernel⟩

/-- A slot of the shape that a command takes, and a filled bank of BF16 of the task's domain. -/
def lofty (rows cols : Nat) : State :=
  let s := task.setSlot 0 1
    { slot16 with shape := BitVec.ofNat 64 (2 * 2 ^ 32 + (cols / 32) * 2 ^ 36 + cols * 2 ^ 16 + rows) }
  s.setLoft 0 { Loft.idle with bank0 := { Bank.empty with filled := true, fmt := 2, dom := 5 } }

/-- Each loft command unprefixed, and LDRN and LMM at the last rows of the region. -/
theorem test_LoftCommandsEnterTheQueue :
    (let s := lofty 64 128
     slotMine s 1 ∧ (s.core s.myCore).loftq.length < 4 ∧ issues s (.lbld 1 false) ∧ s.me.c.pp = false ∧
       shapeRows (s.slot 0 1).shape = 64 ∧ shapeCols (s.slot 0 1).shape = 128 ∧ (codeFmt 2).isLoft = true) ∧
    (let s := lofty 128 64
     slotMine s 1 ∧ issues s (.lbld 1 true) ∧ shapeRows (s.slot 0 1).shape = 128 ∧ shapeCols (s.slot 0 1).shape = 64) ∧
    (let s := lofty 1 64
     let bank := (s.loft (octetOf s.myCore)).bank0
     slotMine s 1 ∧ issues s (.lmm 15 0 1 true) ∧ shapeCols (s.slot 0 1).shape = 64 ∧ 15 + shapeRows (s.slot 0 1).shape ≤ 16 ∧
       (s.loft (octetOf s.myCore)).active = false ∧ bank.filled = true ∧ bank.dom = s.me.c.dom ∧
       accType (codeFmt 2) (codeFmt bank.fmt) = some .fp64 ∧ (codeFmt 2).isLoft = true ∧ codeFmt 2 ≠ .bool1 ∧
       (s.row 0 15).mine s.me.c.dom = true ∧ (s.row 0 15).fits .fp64 = true) ∧
    (let s := lofty 1 128
     slotMine s 1 ∧ issues s (.ldrn 15 1) ∧ shapeCols (s.slot 0 1).shape ≤ 128 ∧ 15 + shapeRows (s.slot 0 1).shape ≤ 16 ∧
       (s.row 0 15).mine s.me.c.dom = true) ∧
    (issues task .lswap ∧ task.me.vs = [] ∧ (task.core task.myCore).loftq = [] ∧
      (let s := task.onCore 0 fun k => { k with loftq := List.replicate 4 (task.loftBlank .lswap 0) }
       s.precheck .lswap = none ∧ 4 ≤ (s.core s.myCore).loftq.length)) ∧
    (issues task (.lzero 8 7) ∧ 8 + 7 < 16) ∧ issues task (.lstat (.q 3)) ∧
    (issues task (.lpri 2 8) ∧ quiet task ∧ task.me.rep = none) ∧
    (issues task .lfence ∧ (task.core task.homeCore).loftq = [] ∧ task.me.vs = []) ∧
    (task.core task.myCore).loftq = [] ∧ (task.loftBlank (.lzero 0 1) 0).op ≠ .lswap :=
  ⟨⟨by unfold slotMine; decide +kernel, by decide +kernel, issues_of (by decide +kernel), by decide +kernel⟩,
   ⟨by unfold slotMine; decide +kernel, issues_of (by decide +kernel), by decide +kernel⟩,
   ⟨by unfold slotMine; decide +kernel, issues_of (by decide +kernel), by decide +kernel⟩,
   ⟨by unfold slotMine; decide +kernel, issues_of (by decide +kernel), by decide +kernel⟩,
   ⟨issues_of (by decide +kernel), by decide +kernel⟩, ⟨issues_of (by decide +kernel), by decide⟩, issues_of (by decide +kernel),
   ⟨issues_of (by decide +kernel), rfl, rfl⟩, ⟨issues_of (by decide +kernel), by decide +kernel⟩, by decide +kernel⟩

/-! ### Helpers, messages, forks, barriers, launches and timelines -/

/-- START with no free context left in a core of one context, and with a free helper context; SLEEP with its latch set and at
its limit. -/
theorem test_HelperInstructions :
    (issues task (.start 26 27) ∧ quiet task ∧ task.me.live = true ∧ task.me.c.gd = 0 ∧ task.hasParked = false ∧
      task.launch? task.me.t.launch = none ∧ task.hasWs task.myCore = true ∧ task.freeCtx task.myCore 1 = some 1 ∧
      keyed.tableBad ((keyed.part (keyed.flightPart (flightOf keyed.myCore))).spaceBase + 16 * keyed.me.c.dom.toNat) = none) ∧
    (let s := task.onCore 0 fun k => { k with used := List.range 16 }
     issues s (.start 26 27) ∧ s.hasWs s.myCore = false) ∧
    (issues task (.hwait 13) ∧ task.helperLive (task.w 13) = false) ∧
    (let s := { task with me := { task.me with wake := true } }
     issues s (.sleep 4 5) ∧ quiet s ∧ s.me.rep = none ∧ s.me.wake = true) ∧
    (let s := { task with me := { task.me with wokeBy := some (0, 0) } }
     issues s (.sleep 4 5) ∧ s.me.wokeBy.isSome = true ∧ s.me.wake = false) ∧
    issues task (.selfId 5) :=
  ⟨⟨issues_of (by decide +kernel), rfl, by decide +kernel⟩,
   ⟨issues_of (by decide +kernel), by decide +kernel⟩, ⟨issues_of (by decide +kernel), by decide +kernel⟩,
   ⟨issues_of (by decide +kernel), by unfold quiet; decide +kernel, by decide +kernel⟩,
   ⟨issues_of (by decide +kernel), by decide +kernel⟩, issues_of (by decide +kernel)⟩

/-- SEND to the launch's core 0, to a core that is none of its members, and SENDA by the hash; SENDA of a task of no launch. -/
theorem test_MessagesLeave :
    (issues launched (.sendMsg 4 8 11) ∧ launched.me.c.gd = 0 ∧ launched.hasParked = false ∧
      launched.sendTarget (launched.w 11) = some (launched.chip.toNat, 0) ∧ launched.runqRoom (launched.leadOf 0) = true) ∧
    (with' 11 1 launched).sendTarget ((with' 11 1 launched).w 11) = none ∧
    (issues launched (.senda 8 11) ∧ launched.launch? launched.me.t.launch = some launch1 ∧
      launched.member launch1 (launched.w 11) = some (launched.chip.toNat, 0)) ∧
    (issues task (.senda 8 11) ∧ task.launch? task.me.t.launch = none) :=
  ⟨⟨issues_of (by decide +kernel), by decide +kernel⟩, by decide +kernel,
   ⟨issues_of (by decide +kernel), by decide +kernel⟩, issues_of (by decide +kernel), by decide +kernel⟩

theorem test_ForkAndJoin :
    let s := with' 21 (here 0x40) task
    let ra := toCoreWindow s.homeCore (s.w 21)
    (issues s (.forkT 10 21) ∧ s.me.c.gd = 0 ∧ (s.w 21).toNat % 32 = 0 ∧ s.hasParked = false ∧
      (s.core s.homeCore).deque.length < 32 ∧
      ∃ old u, s.rmw ra 24 (fun old => some (natLe 8 (leNat (old.take 8) + 1) ++ (old.drop 8).take 8 ++
        (if leNat (old.take 8) = 0 then natLe 8 0 else old.drop 16))) = .ok old u) ∧
    (issues s (.joinT 12 21) ∧ s.endWait = none ∧
      ∃ old u, s.rmw ra 24 (fun old => some (old.take 8 ++ natLe 8 (s.w 12).toNat ++ natLe 8 (2 ^ 63 + s.homeCore))) = .ok old u) :=
  ⟨⟨issues_of (by decide +kernel), by decide +kernel, by decide +kernel, by decide +kernel, by decide +kernel, ok_of (by decide +kernel)⟩,
   issues_of (by decide +kernel), by decide +kernel, ok_of (by decide +kernel)⟩

/-- A record of one arrival at core scope; its first DONE, and one at a counter that is bound to it. -/
theorem test_DoneCountsAtTheBarrier :
    let s := bytesAt 0x40 (natLe 8 1) (with' 11 (here 0x40) launched)
    let ra := toCoreWindow s.homeCore (s.w 11)
    let w := (1 : Word) :: List.replicate 7 0
    issues s (.doneB 11) ∧ (s.w 11).toNat % 64 = 0 ∧ s.hasParked = false ∧ (∃ y u, s.load ra 64 = .ok y u) ∧
    (match s.load ra 64 with
     | .ok y _ => wordsOf y == w
     | _ => false) = true ∧
    barrierRec w (((s.launch? s.me.t.launch).map (·.members.length)).getD 0) =
      some { scope := 0, arrivals := 1, handler := 0, target := 0 } ∧
    findBarrier s.flights ra s.me.t.launch = none ∧ s.savedBarrier ra s.me.t.launch = false ∧ freeCounter (s.flight (flightOf s.homeCore)).barriers = some 0 ∧
    (let b : Barrier := { record := ra, launch := 1, dom := 5, asid := 0, ttb := 0, scope := 0, arrivals := 1, count := 1,
                          handler := 0, target := 0, group := 0, marks := [] }
     findBarrier [(0, { Flight.idle with barriers := [(0, b)] })] ra 1 = some (0, 0, b) ∧ b.count ≠ 0) :=
  ⟨issues_of (by decide +kernel), by decide +kernel, by decide +kernel, ok_of (by decide +kernel), by decide +kernel⟩

/-- LAUNCH at each of its answers, with the boundaries of depth, quota and queue; TLSIG; TLWAIT at its threshold. -/
theorem test_LaunchesAndTimelines :
    (issues launched (.launchI 5 8) ∧ launched.me.c.gd = 0 ∧ (launched.w 8).toNat % 64 = 0 ∧ launched.hasParked = false ∧
      launched.launch? launched.me.t.launch = some launch1 ∧ launch1.depth < 8 ∧ launch1.children < launch1.quota ∧
      launched.launchQueue.length < 16) ∧
    (8 ≤ ({ launch1 with depth := 8 } : Launch).depth ∧ ({ launch1 with quota := 0 } : Launch).quota ≤ launch1.children ∧
      (let c : Child := { record := 0, dom := 5, asid := 0, ttb := 0, parent := 1, depth := 1, parentDom := 5, process := 0, part := 0, seq := 0 }
       16 ≤ (launched.onCore 0 fun k => { k with launchq := List.replicate 16 c }).launchQueue.length)) ∧
    (let s := with' 8 (here 0x40) task
     (issues s (.tlsig 8 11 3) ∧ (s.w 8).toNat % 16 = 0 ∧
       ∃ old u, s.rmw (s.w 8) 8 (fun old => some (natLe 8 (leNat old + (s.w 11).toNat))) = .ok old u) ∧
     (issues s (.tlwait 4 8 11 4) ∧ (∃ y u, s.load (s.w 8) 16 = .ok y u) ∧
       (match s.load (s.w 8) 16 with
        | .ok y u => !u.isRemote (s.w 8) && leNat y == 0
        | _ => false) = true ∧ ((0 : Word) - s.w 11).toNat < 2 ^ 63)) ∧
    (let s := { task with me := { task.me with st := .waiting .tlwaitRemote, wokeBy := some (5, 0) } }
     issues s (.tlwait 4 8 11 4) ∧ (s.w 8).toNat % 16 = 0 ∧ ((5 : Word) - s.w 11).toNat < 2 ^ 63) :=
  ⟨⟨issues_of (by decide +kernel), by decide +kernel⟩, by decide +kernel,
   ⟨⟨issues_of (by decide +kernel), by decide +kernel, ok_of (by decide +kernel)⟩,
    issues_of (by decide +kernel), ok_of (by decide +kernel), by decide +kernel⟩,
   issues_of (by decide +kernel), by decide +kernel⟩

/-- END of a task and of a handler, ERET 0, ERET 1 and ERET 2. -/
theorem test_TasksEnd :
    (issues task .endTask ∧ issues task .end16 ∧ issues task .wrapdone ∧ task.me.c.gd = 0 ∧ task.hasParked = false ∧
      task.behind = none ∧ task.me.t.trap = none ∧ task.me.t.join = none ∧ launched.me.t.kind = .leaf ∧ isG task.cur = false) ∧
    (issues sup (.eret (.imm 2)) ∧ sup.hasParked = false ∧ sup.behind = none ∧ sup.me.r.val (.imm 0) = some 0 ∧
      sup.me.r.val (.imm 1) = some 1 ∧ sup.me.r.val (.imm 2) = some 2) :=
  ⟨⟨issues_of (by decide +kernel), issues_of (by decide +kernel), issues_of (by decide +kernel), by decide +kernel⟩,
   issues_of (by decide +kernel), by decide +kernel⟩

def key (d : Dom) : KeySlot := { dom := d, key := 0, measurement := 0, measured := false, images := [] }

/-- The page of address 0 belongs to domain 5, and flight 0 holds its translation. -/
def mapped (s : State) : State :=
  let t : TlbEntry :=
    { asid := 0, dom := 5, page := 0, pageSize := 2 ^ 19, frame := 0, leaf := 7,
      units := [{ vbase := 0, pbase := 0, own := 7, owner := 5, metered := false }] }
  let u := s.onFlight 0 fun f => { f with tlb := [t] }
  { u with keys := [(0, key 5)], pageKey := [(0, sealNo 0 5)], dies := [(0, { Die.idle with potBase := 2 ^ 30 })] }

/-- A frame of a gate from domain 5 into domain 6. -/
def frame1 : Frame :=
  { retPc := 0, callerWp := localWindow 0x3A000, window := here 0x40, words := 1, callerDom := 5, callee := 6, gate := 0x10,
    discard := false, cleanup := false, wrapup := false, psw := startPsw false false false, sr := 1, sc := .replicate 8 0,
    cb := .replicate 4 0, budget := 0, per := 1000, endLeft := 0, status := 0, granule := 36, d := 1, wrapEntry := 0x200,
    cleanEntry := 0x300, back := 0, refused := none }

/-- A HELD task of no launch, of a launch that goes on, inside a gate, and of a launch that has expired; and a parked store
of context 0 for each way back, one of them to a byte of its own granule. -/
theorem test_ReturnFromException :
    (Memory.wf trapped.mem = true ∧ 0 ≠ trapped.cur ∧ (trapped.ctx 0).st = .held ∧ (trapped.ctx 0).c.serial = 0 ∧
      (trapped.ctx 0).trapNo = 7 ∧ (trapped.ctx 0).frames = [] ∧ trapped.launch? (trapped.ctx 0).t.launch = none ∧
      (trapped.ctx 0).t.join = none) ∧
    (let s := { trapped with ctxs := [(0, { launched.me with st := .held, trapNo := 7 })], launches := launched.launches }
     (s.ctx 0).st = .held ∧ s.launch? (s.ctx 0).t.launch = some launch1 ∧ launch1.expired = false) ∧
    (let s := { trapped with ctxs := [(0, { task.me with st := .held, trapNo := 7, frames := [frame1] })] }
     (s.ctx 0).st = .held ∧ (s.ctx 0).frames ≠ []) ∧
    (let l := { launch1 with expired := true }
     let s := { trapped with ctxs := [(0, { launched.me with st := .held, trapNo := 7 })], launches := [(1, l)] }
     (s.ctx 0).st = .held ∧ s.launch? (s.ctx 0).t.launch = some l ∧ l.expired = true ∧ l.ending = none ∧ (s.ctx 0).unwind = [] ∧
       (s.ctx 0).vs = [] ∧ (s.ctx 0).imp = none ∧ (s.ctx 0).t.diverted = false) ∧
    (let p := { parked1 with fail := here 0x40, parts := [(here 0x40, [(0, 1)])] }
     let s := { task with cur := 10, ctxs := [(0, task.me)] }.onCore 0 fun k => { k with replay := [p] }
     let u := s.clearRecord (replayKey 0 3)
     (s.core 0).replay.find? (fun q => q.id == 3 && q.no == 7) = some p ∧ p.go = false ∧ p.whole = false ∧
       (match u.parkedPlaces (u.parkedWho 0 p) p with
        | .ok l => (u.egFirst (u.parkedEgress p l)).isNone && (u.linesBad l).isNone && (u.linkOut l 0 0).isSome
        | .error _ => false) = true) ∧
    ((storing.core 0).replay.find? (fun q => q.id == 3 && q.no == 7) = some parked1 ∧ (storing.ctx parked1.ctx).live = true ∧
      (storing.ctx parked1.ctx).c.serial = parked1.serial ∧ homeOf parked1.ctx (storing.ctx parked1.ctx) = 0 ∧
      (storing.ctx parked1.ctx).frames = [] ∧ (storing.ctx parked1.ctx).t.join = none) := by decide +kernel

/-! ### Gates, domains and keys -/

/-- A gate of number 0x10 to domain 6 that admits domain 5, with a window of one word, and the key of domain 6. -/
def gate16 : Gate :=
  { part := 0, words := [0x100, 0x200, 0x300, BitVec.ofNat 64 (0x10 + 1000 * 2 ^ 32), BitVec.ofNat 64 (6 + 2 ^ 16 + 5 * 2 ^ 32), 0, 0, 0] }

/-- The partition of the task, which domains 5 and 6 belong to. -/
def part0 : Part := { Part.idle with enable := true, doms := BitVec.twoPow 4096 5 ||| BitVec.twoPow 4096 6 }

def gated : State :=
  { with' 14 0x10 (with' 11 (here 0x40) task) with
    gates := [(0x10, gate16)], parts := [(0, part0)], keys := [(0, key 6), (1, key 5)] }

theorem test_GateCallEntersTheCallee :
    issues gated (.gcall 1 14 11) ∧ (∃ b u, gated.load (gated.w 11) (8 * gate16.windowSize) = .ok b u) ∧ canonical gated ∧ quiet gated ∧ gated.me.c.s = false ∧ gated.hasParked = false ∧
    gated.me.vs = [] ∧ (gated.w 14).toNat < 4096 ∧ find? gated.gates (gated.w 14).toNat = some gate16 ∧
    gate16.admits gated.me.c.dom (gated.domPart gated.me.c.dom gated.myPart) = true ∧ gated.me.frames.length < 8 ∧ isG gated.cur = false ∧
    (gated.w 11).toNat % 64 = 0 ∧ (gated.check gated.who .load (gated.w 11) (8 * gate16.windowSize)).toOption.isSome = true ∧
    gated.freeFrame (homeOf gated.cur gated.me) = some 36 ∧
    gated.tableBad ((gated.part 0).spaceBase + 16 * gate16.callee.toNat) = none ∧ gated.flightPart (gated.servedBy gated.cur) = 0 ∧ gated.myLogFull = false :=
  ⟨issues_of (by decide +kernel), ok_of (by decide +kernel), canonical_of (by decide +kernel) (by decide +kernel),
   by unfold quiet; decide +kernel⟩

/-- The state in which the callee runs. -/
def inside : State :=
  match exec (.gcall 1 14 11) gated with
  | .next t => t
  | _ => gated

theorem test_GateReturnRestoresTheCaller :
    issues inside (.gret 3) ∧ quiet inside ∧ inside.hasParked = false ∧ inside.me.vs = [] ∧
    inside.frameBusy inside.cur = false ∧ inside.ctxs = [] ∧ inside.me.unwind = [] ∧ inside.me.t.divPending = false ∧
    (match inside.me.frames with
     | [f] =>
       let c := inside.copyBack (inside.callerWho inside.cur f) f (inside.me.bits (.gret 3)) 0 none f.words
       f.back == 0 && !f.cleanup && !f.wrapup && f.refused.isNone && (inside.tableBad ((inside.part 0).spaceBase + 16 * f.callerDom.toNat)).isNone &&
         inside.flightPart (inside.servedBy inside.cur) == 0 && c.fatal.isNone &&
         c.why.isNone && c.refused.isNone
     | _ => false) = true :=
  ⟨issues_of (by decide +kernel), by unfold quiet; decide +kernel, by decide +kernel⟩

/-- GCALL of a number out of range, of no gate, of one that does not admit domain 7, at depth 8; GRET outside a gate; GPUB of a
descriptor of domain 6 by its own domain; the queries. -/
theorem test_GateCausesPublicationAndQueries :
    (let s := with' 14 4096 gated
     issues s (.gcall 1 14 11) ∧ 4096 ≤ (s.w 14).toNat) ∧
    (let s := with' 14 0x11 gated
     issues s (.gcall 1 14 11) ∧ find? s.gates (s.w 14).toNat = none) ∧
    gate16.admits 7 (gated.domPart 7 0) = false ∧
    (let f : Frame :=
       { retPc := 0, callerWp := 0, window := 0, words := 1, callerDom := 5, callee := 6, gate := 0, discard := false,
         cleanup := false, wrapup := false, psw := 0, sr := 0, sc := .replicate 8 0, cb := .replicate 4 0, budget := 1, per := 1,
         endLeft := 0, status := 0, granule := 36, d := 1, wrapEntry := 0, cleanEntry := 0, back := 0, refused := none }
     let s := { gated with me := { gated.me with frames := List.replicate 8 f } }
     s.me.frames.length = 8 ∧ s.hasParked = false ∧ s.me.vs = []) ∧
    (issues task (.gret 3) ∧ task.me.frames = []) ∧
    (let s := bytesAt 0x40 (gate16.words.flatMap fun w => natLe 8 w.toNat) gated
     let s := with' 9 (here 0x40) { s with me := { s.me with c := { s.me.c with dom := 6 } }, gates := [] }
     let s := s.onCore 0 fun k => { k with tags := [(0, { valid := true, dom := 6 })] }
     issues s (.gpub 5 9) ∧ (s.w 9).toNat % 64 = 0 ∧ (∃ b u, s.load (s.w 9) 64 = .ok b u) ∧
       (match s.load (s.w 9) 64 with
        | .ok b _ => wordsOf b == gate16.words
        | _ => false) = true ∧
       gate16.bad = false ∧ gate16.callee = s.me.c.dom ∧ slotOf s.keys s.me.c.dom = some (0, key 6) ∧ (key 6).measured = false ∧
       s.metered s.me.c.dom = false ∧ find? s.gates gate16.number = none) ∧
    (issues gated (.ginfo 4 14 11) ∧ (gated.w 14).toNat < 4096 ∧ find? gated.gates (gated.w 14).toNat = some gate16 ∧
      gate16.admits gated.me.c.dom (gated.domPart gated.me.c.dom gated.myPart) = true) ∧
    issues gated (.domid 5 8) ∧
    (let s := { gated with me := { gated.me with c := gated.me.c.setGd 1, frames := [frame1] } }
     issues s (.start 26 27) ∧ issues s (.joinT 12 21) ∧ issues s (.compose 11 10) ∧ issues s (.fdivD (.w 5) (.w 6) (.w 7)) ∧
       outsideGates (.start 26 27) = true ∧ outsideGates (.joinT 12 21) = true ∧ outsideGates (.compose 11 10) = true ∧
       isGmath (.fdivD (.w 5) (.w 6) (.w 7)) = true ∧ isG s.cur = false ∧ s.me.c.gd ≠ 0) :=
  ⟨⟨issues_of (by decide +kernel), by decide +kernel⟩, ⟨issues_of (by decide +kernel), by decide +kernel⟩, by decide +kernel,
   by decide +kernel, ⟨issues_of (by decide +kernel), by decide +kernel⟩,
   ⟨issues_of (by decide +kernel), by decide +kernel, ok_of (by decide +kernel), by decide +kernel⟩,
   ⟨issues_of (by decide +kernel), by decide +kernel⟩, issues_of (by decide +kernel), issues_of (by decide +kernel),
   issues_of (by decide +kernel), issues_of (by decide +kernel), issues_of (by decide +kernel), by decide +kernel⟩

/-- The supervisor in the partition of domains 5 and 6, naming domain 5 in w8. -/
def super : State := with' 8 5 { sup with parts := [(0, part0)], keys := [(0, key 0), (1, key 5)] }

/-- A key request at 0x40 of granule 0, for domain 6, of the blob at 0x400 with no descriptors and no ranges. -/
def requested : State :=
  with' 8 (here 0x40) (bytesAt 0x40 (natLe 8 (here 0x400).toNat ++ natLe 8 6) super)

theorem test_RevocationKeysAndMeters :
    (issues super (.grevoke 9 8) ∧ issues super (.grevokeKill 9 8 11) ∧ super.me.kill = none ∧ super.w 11 = 0 ∧
      super.hasParked = false ∧ super.namesDomain (super.w 8).toNat = true ∧ super.myLogFull = false) ∧
    (let s := { super with me := { super.me with kill := some (5, 0, 0) } }
     issues s (.grevokeKill 9 8 11) ∧ s.me.kill = some (5, 0, 0) ∧ s.launches = [] ∧ (∀ p ∈ s.allCtxs, p.2.frames = []) ∧ s.gates = [] ∧
       s.logShort (ctxDie s.cur) 2 = false) ∧
    (issues requested (.kact 5 8) ∧ requested.hasParked = false ∧ (requested.w 8).toNat % 64 = 0 ∧
      (∃ y u, requested.load (requested.w 8) 64 = .ok y u) ∧
      (match requested.load (requested.w 8) 64 with
       | .ok y _ => requested.namesDomain ((wordsOf y).getD 1 0).toNat &&
           (match requested.keyRequest (requested.w 8) (wordsOf y) with
            | .ok r => r.blob == List.replicate 512 0 && r.descs == [] && r.ranges == [] &&
                (match requested.readAll r.reads with | .ok _ _ => true | _ => false)
            | .error _ => false) &&
           (slotOf requested.keys 6).isNone && freeSlot requested.keys 0 1024 == some 2 && !requested.myLogFull
       | _ => false) = true) ∧
    (issues super (.kdeact 5 8) ∧ (slotOf super.keys 5).isSome = true ∧ super.domLive 5 = false ∧ super.gates = []) ∧
    (let s := with' 11 127 super
     issues s (.scrub 5 8 11) ∧ s.namesDomain (s.w 8).toNat = true ∧ s.domLive 5 = false ∧ (s.w 11).toNat < 2 ^ 7) ∧
    (let s := with' 11 100 (with' 8 (5 + 0x20000) super)
     issues s (.egset 5 8 11) ∧ s.hasParked = false ∧ (s.w 8).toNat < 2 ^ 18 ∧ (s.w 8).getLsbD 14 = false ∧
       (s.w 8).getLsbD 15 = false ∧ s.namesDomain 5 = true ∧ (s.w 11).toNat % 2 ^ 32 ≠ 0 ∧ s.gates = []) :=
  ⟨⟨issues_of (by decide +kernel), issues_of (by decide +kernel), by decide +kernel⟩,
   ⟨issues_of (by decide +kernel), by decide +kernel⟩,
   ⟨issues_of (by decide +kernel), by decide +kernel, by decide +kernel, ok_of (by decide +kernel), by decide +kernel⟩,
   ⟨issues_of (by decide +kernel), by decide +kernel⟩, ⟨issues_of (by decide +kernel), by decide +kernel⟩,
   issues_of (by decide +kernel), by decide +kernel⟩

/-! ### Boxes and time -/

/-- COMPOSE of 2 by core 0, of a shape of 3, and with a member that holds an entry; DECOMP in and out of a box. -/
theorem test_BoxInstructions :
    (let s := with' 10 2 task
     issues s (.compose 11 10) ∧ s.me.c.gd = 0 ∧ s.hasParked = false ∧ s.shapeOk s.myCore (s.w 10).toNat = true ∧
       s.boxBusy s.myCore 2 (some s.cur) = false ∧ quiet s) ∧
    task.shapeOk 0 3 = false ∧ task.shapeOk 0 8 = true ∧
    (let s := { task with ctxs := [(16, task.me)] }
     issues s (.compose 11 10) ∧ s.boxBusy s.myCore 2 (some s.cur) = true) ∧
    (issues task (.decomp 12) ∧ task.me.c.bx = false) ∧
    (let b := { task with me := { task.me with c := { task.me.c with psw := startPsw false true false } } }
     let s := b.bindBox 0 2
     issues s (.decomp 12) ∧ s.me.c.bx = true ∧ s.behind = none ∧ quiet s ∧ (s.core s.myCore).box = some (s.myCore, 2)) ∧
    issues task (.timeI 5 8) ∧
    (let s := { task with me := { task.me with c := { task.me.c with psw := startPsw true false false } } }
     let t := with' 13 1 s
     issues task (.dlread 12 13) ∧ (task.w 13).toNat ≠ 1 ∧ issues t (.dlread 12 13) ∧ (t.w 13).toNat = 1 ∧ t.me.c.wu = true ∧
       t.me.t.wrapLeft = none) ∧
    (let s := with' 24 (here 0x40) task
     issues s (.pvalid 24 27) ∧ (s.w 24).toNat % 64 = 0 ∧
       ∃ old u, s.rmw (s.w 24) 8 (fun old => some (natLe 8 (leNat old ||| (s.w 27).toNat))) = .ok old u) :=
  ⟨⟨issues_of (by decide +kernel), by decide +kernel, by decide +kernel, by decide +kernel, by decide +kernel,
    by unfold quiet; decide +kernel⟩, by decide +kernel, by decide +kernel, ⟨issues_of (by decide +kernel), by decide +kernel⟩,
   ⟨issues_of (by decide +kernel), by decide +kernel⟩,
   ⟨issues_of (by decide +kernel), by decide +kernel, by decide +kernel, by unfold quiet; decide +kernel, by decide +kernel⟩,
   issues_of (by decide +kernel),
   ⟨issues_of (by decide +kernel), by decide +kernel, issues_of (by decide +kernel), by decide +kernel⟩,
   issues_of (by decide +kernel), by decide +kernel, ok_of (by decide +kernel)⟩

/-! ### Control registers and the system -/

/-- CSRR of a register of the supervisor's in user state, and the first and the last of the others; CSRW of c.psw with
RM = 5 and RM = 6, and of c.wdog in both states. -/
theorem test_ControlRegistersReadAndWrite :
    (issues task (.csrr (.w 12) 1) ∧ task.me.c.s = false ∧ (1 : Nat) ∉ [0, 6, 9, 10, 11, 12, 13, 15, 17]) ∧
    (issues task (.csrr (.w 12) 0) ∧ task.me.room (.w 12) = true ∧ task.behind = none ∧ issues sup (.csrr (.w 12) 18) ∧
      sup.me.c.s = true) ∧
    (issues task (.csrw (.w 5) 0) ∧ task.me.r.val (.w 5) = some 0 ∧ issues task (.csrs (.w 5) 14) ∧
      issues sup (.csrc (.w 5) 14)) ∧
    (let s := with' 5 (5 * 8) task
     s.me.r.val (.w 5) = some 40 ∧ (40 : Word).toNat / 8 % 8 < 6 ∧ 6 ≤ (48 : Word).toNat / 8 % 8) :=
  ⟨⟨issues_of (by decide +kernel), by decide +kernel⟩,
   ⟨issues_of (by decide +kernel), by decide +kernel, by decide +kernel, issues_of (by decide +kernel), by decide +kernel⟩,
   ⟨issues_of (by decide +kernel), by decide +kernel, issues_of (by decide +kernel), issues_of (by decide +kernel)⟩,
   by decide +kernel⟩

/-- The supervisor with the page of address 0 mapped. -/
def paged : State := State.reset.withFetchWord 32 0x1482CBF1

/-- POTW of page 1 to domain 0x000, CTXSAVE of core 1 to address 0, and CTXLOAD of what it saved. -/
theorem test_SystemInstructionsComplete :
    (issues sup (.tlbinv (.w 9) (.w 10)) ∧ sup.me.r.val2 (.w 9) (.w 10) = some (0, 0) ∧ sup.hasParked = false) ∧
    (issues sup .tlbsync ∧ sup.invals = []) ∧
    (let s := { sup with me := { sup.me with wake := true } }
     issues s .wfi ∧ s.me.wake = true) ∧
    (let e : Word := 0x8000
     issues paged (.potw (.w 5) (.w 8) (.w 13)) ∧ paged.me.room (.w 5) = true ∧ paged.hasParked = false ∧
       paged.potwStatus 0x80000 e = 0 ∧ paged.potBad 1 = none ∧ paged.myLogFull = false ∧ Memory.wf paged.mem = true ∧
       (0x80000 : Word).toNat < 2 ^ 46 ∧ keyOf paged.keys (potOwner e) = some 0) ∧
    (let s := with' 8 1 paged
     issues s (.ctxsave (.w 5) (.w 8) (.w 11)) ∧ s.me.r.val2 (.w 8) (.w 11) = some (1, 0) ∧ s.saveStatus 1 0 = 0 ∧ s.hasParked = false ∧
       (let u := (s.onCore 1 fun z => { z with mode := .saving 0 s.cur s.me.c.serial s.cycle (s.part s.myPart).wdog }).armWatch 1 (s.part s.myPart).wdog
        u.coreStopped 1 = true ∧ u.imageKeys 0 .store = some [(0, 0, 0x50000)])) ∧
    (let s := (with' 11 2 paged).saveCore 1 [(0, 0, 0x50000)]
     issues s (.ctxload (.w 5) (.w 8) (.w 11)) ∧ s.me.r.val2 (.w 8) (.w 11) = some (0, 2) ∧ s.badCore 2 = false ∧ s.hasParked = false ∧
       s.coreInUse 2 = false ∧
       (match s.loadImage 0 with
        | some i => s.placesOn 2 (i.ctxsOf i.source) [] == some []
        | none => false) = true) :=
  ⟨⟨issues_of (by decide +kernel), by decide +kernel⟩, ⟨issues_of (by decide +kernel), by decide +kernel⟩,
   ⟨issues_of (by decide +kernel), by decide +kernel⟩, ⟨issues_of (by decide +kernel), by decide +kernel⟩,
   ⟨issues_of (by decide +kernel), by decide +kernel⟩, issues_of (by decide +kernel), by decide +kernel⟩

/-! ### Events -/

/-- Core 0's engine command, started or not, on slot 1; the engine's grant has `left` beats left. -/
def reels (c : EngCmd) (left : Nat) : State :=
  let s := slotted.setSlot 0 1 { slot16 with st := .filling }
  let s := s.onCore 0 fun k => { k with eng := { k.eng with queue := [c], lastSerial := 1 } }
  s.onFlight 0 fun f => { f with left0 := left }
def rget1 : EngCmd := kicked slotted .rget 1 (coreWindow 0 0x800) 0

/-- The state of a beat that moved. -/
def beatOk : Beat EngCmd → Bool
  | .ok _ _ => true
  | _ => false

/-- A loft command of the task in core 0's queue. -/
def lofts (c : LoftCmd) : State := (lofty 1 64).onCore 0 fun k => { k with loftq := [c] }
def cmd (op : LoftOp) : LoftCmd := { (lofty 1 64).loftBlank op 1 with types := [.fp64], rows := 1 }

/-- Beats within a grant and at its start; completions; a k-step boundary with and without a pass in flight; the sum pass
over integers; each loft command's start and completion, and LSTAT of a task that lives and of one that has ended. -/
theorem test_EngineAndLoftEvents :
    (let s := reels rget1 1
     0 < 1 ∧ ((s.flight 0).turn0, (s.flight 0).left0) = (0, 1) ∧ s.engReady 0 = true ∧ (s.core 0).eng.queue = rget1 :: [] ∧
       beatOk (s.beat 0 rget1) = true) ∧
    (let s := reels rget1 0
     ((s.flight 0).turn0, (s.flight 0).left0) = (0, 0) ∧ s.engReady 0 = true ∧ beatOk (s.beat 0 rget1) = true) ∧
    (let c := { rget1 with started := true, pos := 15 }
     let s := reels c 1
     c.op.described = false ∧ c.pos < c.beats (s.slot 0 c.slot) ∧ beatOk (s.beat 0 c) = true) ∧
    (let c := { rget1 with started := true, pos := 16 }
     let s := reels c 1
     s.engOn 0 = true ∧ (s.core 0).eng.queue = c :: [] ∧ c.beats (s.slot 0 c.slot) ≤ c.pos) ∧
    (let c := { rget1 with op := .rcopy, started := true }
     let s := reels c 1
     s.engOn 0 = true ∧ (s.core 0).eng.queue = c :: [] ∧ c.op.described = true ∧ (c.len + 63) / 64 ≤ c.pos ∧ c.word 3 = 0) ∧
    (let s := task.setLoft 0 { Loft.idle with passEnd := some 0 }
     (s.loft 0).passEnd = some 0 ∧ 0 ≤ s.cycle) ∧
    (let s := lofts (cmd (.lmm 0 0 false))
     (s.loft 0).passEnd = none ∧ (s.headAt 0 0).isSome = true) ∧
    (let c := { cmd (.lmm 0 0 true) with types := [.int64] }
     c.op = .lmm 0 0 true ∧ c.types.head? = some .int64 ∧ shapeCols ((lofts c).slot 0 c.slot).shape = 64 ∧ 127 < 128) ∧
    (let c := cmd (.lbld true)
     (lofts c).startable 0 = some c ∧ c.op = .lbld true) ∧
    (let c := { cmd (.lbld true) with started := true }
     ((lofts c).core 0).loftq = [] ++ c :: [] ∧ c.doneAt ≤ (lofts c).cycle) ∧
    (let c := cmd (.ldrn 3)
     (lofts c).startable 0 = some c ∧ c.op = .ldrn 3) ∧
    (let c := { cmd (.ldrn 3) with started := true }
     ((lofts c).core 0).loftq = [] ++ c :: [] ∧ c.doneAt ≤ (lofts c).cycle) ∧
    (let c := cmd (.lzero 8 8)
     (lofts c).startable 0 = some c) ∧
    (let c := cmd .lswap
     (lofts c).startable 0 = some c) ∧
    (let c := cmd (.lstat true)
     (lofts c).startable 0 = some c ∧ ((lofts c).ctx c.ctx).live = true ∧ ((lofts c).ctx c.ctx).c.serial = c.task) ∧
    (let c := { cmd (.lstat true) with ctx := 1 }
     (lofts c).startable 0 = some c ∧ ((lofts c).ctx c.ctx).live = false) := by decide +kernel

/-- A launch record of one core for domain 5 (R264, R266), with its timeline at 0x400. -/
def record1 : List Byte :=
  natLe 8 0x100 ++ natLe 8 0x200 ++ natLe 8 0 ++ natLe 8 0 ++ natLe 8 0 ++ natLe 8 0x400 ++ natLe 8 1 ++ natLe 4 64 ++
  natLe 2 0 ++ natLe 2 1 ++ natLe 4 0x10001 ++ List.replicate 28 0 ++ natLe 4 5 ++ natLe 4 0 ++ natLe 8 0 ++ natLe 8 0 ++
  natLe 8 0

/-- A child record waits in core 0's launch queue, on a part of one flight of eight cores. -/
def queued (b : List Byte) : State :=
  let s := mapped launched
  let c : Child := { record := 0, dom := 5, asid := 0, ttb := 0, parent := 1, depth := 1, parentDom := 5, process := 0, part := 0, seq := 0 }
  let h := { s.host with enableWord := 1, coreCounts := [(0, 0)] }
  { s with mem := Memory.setBytes s.mem 0 b, host := h }.onCore 0 fun k => { k with launchq := [c] }

def leaf1 : Leaf := { num := 0, chip := 0, core := 0, ctx := none, p0 := 1, p1 := 2, p2 := 3, p3 := 4, box := 0 }
def message1 : Entry := launched.entryOf 0 0x100 1 2 3 4 .message

/-- Launch 1 with no task of it left. -/
def ended (e : Option (EndStatus × Nat)) : State :=
  { mapped task with launches := [(1, { launch1 with ending := e })] }

theorem test_FrontEndEvents :
    (let s := { task with host := { task.host with up := true } }
     s.host.up = true ∧ 64 ≤ 64 ∧ 15 < 16) ∧
    (match (queued record1).nextCand 0 with
     | some c =>
       ((((((queued record1).decided.take c).noteTable 0 0 c.dom (((queued record1).part c.part).spaceBase + 16 * c.dom.toNat)).recordRead
         c).admissible c 0).isSome && c.dom == 5)
     | none => false) = true ∧
    (match (queued []).nextCand 0 with
     | some c =>
       (((((queued []).decided.take c).noteTable 0 0 c.dom (((queued []).part c.part).spaceBase + 16 * c.dom.toNat)).recordRead
         c).admissible c 0).isNone
     | none => false) = true ∧
    (let l := { launch1 with pending := [leaf1] }
     let s := { task with launches := [(1, l)] }
     s.launch? 1 = some l ∧ l.pending.find? (·.num == 0) = some leaf1 ∧ s.leafReady l leaf1 = true) ∧
    (let s := launched.onCore 0 fun k => { k with runq := [message1] }
     s.dispatchCtx 0 = some 1 ∧ s.pick 0 = some (message1, false, 0)) ∧
    (let s := { launched with msgs := [message1] }
     s.msgs[0]? = some message1 ∧ s.msgs.take 0 = [] ∧ s.launch? message1.launch = some launch1 ∧
       message1.targetChip = s.chip ∧ launch1.ending = none ∧ launch1.expired = false ∧ s.markedDone 1 0 = false ∧
       (s.flight 0).st = .running ∧ (s.flight 0).part.getD 0 = launch1.part ∧ s.runqRoom (s.leadOf 0) = true) ∧
    (let b : Barrier := { record := 0x400, launch := 1, dom := 5, asid := 0, ttb := 0, scope := 1, arrivals := 1, count := 0,
                          handler := 0, target := 0, group := 0, marks := [0] }
     let s := (mapped launched).onFlight 0 fun f => { f with barriers := [(15, b)] }
     find? (s.flight 0).barriers 15 = some b ∧ b.count = 0 ∧
       (match s.check (s.barrierWho 0 b) .store (b.record + 0x20) 8 with
        | .ok l => (s.linesBad l).isNone
        | .error _ => false) = true) ∧
    (let l := launch1
     (ended none).launch? 1 = some l ∧ l.ending = none ∧ (ended none).launchOver 1 l = true) ∧
    (let e := some (EndStatus.fault, 9)
     launch1.cut = none ∧ ((ended e).stopLaunch 1).tasksOf 1 = [] ∧ (((ended e).stopLaunch 1).launch? 1).isSome = true) := by decide +kernel

/-- Context 0 in some state. -/
def inCtx (f : Ctx → Ctx) : State := { task with me := f task.me }

theorem test_ExpiryEvents :
    (let l := { launch1 with mode := 2, deadline := 10, counter := 10, away := 1 }
     let s := { task with launches := [(1, l)] }
     s.launch? 1 = some l ∧ s.expiryDue 1 l = true) ∧
    (let s := inCtx fun c => { c with t := { c.t with wrapLeft := some 0 } }
     (s.ctx 0).live = true ∧ (s.ctx 0).t.wrapLeft = some 0 ∧ (s.ctx 0).struck = false) ∧
    (let s := inCtx fun c => { c with frames := [frame1] }
     (s.ctx 0).struck = false ∧ (s.ctx 0).frames.reverse[1 - 1]? = some frame1 ∧ frame1.budget = 0 ∧ frame1.cleanup = false ∧
       frame1.wrapup = false ∧ frame1.discard = false ∧ (s.ctx 0).unwind = []) ∧
    (let f := { frame1 with cleanup := true }
     let g := { frame1 with wrapup := true }
     (f.cleanup && f.endLeft == 0 && !f.discard) = true ∧ (g.wrapup && !g.cleanup && g.endLeft == 0 && !g.discard) = true) ∧
    (let s := inCtx fun c => { c with t := { c.t with watch := some 0 } }
     (s.ctx 0).live = true ∧ (s.ctx 0).t.watch = some 0 ∧ (s.ctx 0).st ≠ .waiting .suspended) ∧
    (let s := inCtx fun c => { c with st := .waiting (.sleep (some 0)) }
     (s.ctx 0).st = .waiting (.sleep (some 0)) ∧ 0 ≤ s.cycle) ∧
    (let s := inCtx fun c => { c with st := .waiting (.pause (some 0)) }
     (s.ctx 0).st = .waiting (.pause (some 0)) ∧ 0 ≤ s.cycle) ∧
    (let s := { launched with me := { launched.me with st := .waiting .queue } }
     s.launch? 1 = some launch1 ∧ s.allAsleep 1 launch1 = true) ∧
    (let s := inCtx fun c => { c with st := .waiting .fatal, imp := some .macFail }
     (s.ctx 0).st = .waiting .fatal ∧ (s.ctx 0).imp = some .macFail ∧ (s.launch? (s.ctx 0).t.launch) = none ∧
       (launched.launch? launched.me.t.launch).isSome = true) := by decide +kernel

/-- A request for TRAP 1 of the task, which is HELD, and a handler table at 0x1000 with one entry for it. -/
def request1 : Request :=
  { trap := .ctx 0 0 7, core := 0, ctx := 0, cause := .trap, tval := 0, code := 1, dom := 5, die := 0, flight := 0, fin := 0, seq := 0 }
def asking : State :=
  let s := inCtx fun c => { c with st := .held, trapNo := 7 }
  let p := { part0 with handlerBase := 0x1000 }
  { s with parts := [(0, p)] }.onFlight 0 fun f => { f with supq := [request1] }
def handled : State :=
  { asking with mem := Memory.setBytes asking.mem 0x1000 (natLe 8 0x100 ++ natLe 8 (9 + 2 ^ 20 + 2 ^ 21) ++ natLe 8 (0xFFF * 2 ^ 16)) }

/-- A whole task on a flight that stops, with all its cores flipped; one that is saving into an area at 2 MiB; and one that
comes back from the image of a save. -/
def stopping : State :=
  let s := (inCtx fun c => { c with st := .waiting .queue }).onFlight 0 fun f => { f with st := .stopping, part := some 0, cutting := true }
  { s with cores := (List.range 32).map fun k => (k, { s.core k with flipped := true }) }
def saving : State :=
  let s := task.onFlight 0 fun f => { f with st := .saving, part := some 0 }
  { s with mem := Memory.setBytes s.mem 0 (natLe 8 (2 ^ 21)), parts := [(0, part0)] }
def image1 : Image :=
  { addr := 2 ^ 21, segs := [], nonce := 0, lost := [], flight := true, source := 0, cores := [], ctxs := [], lofts := [], rels := [],
    barriers := [], spad := [], bad := [], keys := [], part := 0, spent := false }
def restoring : State :=
  let s := task.onFlight 0 fun f => { f with st := .restoring, part := some 0 }
  { s with images := [image1] }

/-- A partition of flight 0 whose slice is the first microsecond of two, at a time in it and at one after it. -/
def sliced (time : Nat) (p : Option Nat) : State :=
  let x := { part0 with period := 2, slice := 1, flights := 1 }
  let s := task.onFlight 0 fun f => { f with part := p }
  { s with parts := [(0, x)], dies := [(0, { Die.idle with time := time })] }

def hosted : State := { task with host := { task.host with up := true } }

theorem test_ServiceAndPreemptionEvents :
    (handled.handlerFree 0 = true ∧ nextRequest (handled.flight 0) = some request1 ∧
      (handled.handlerOf 0 request1).isSome = true ∧ asking.handlerFree 0 = true ∧
      nextRequest (asking.flight 0) = some request1 ∧ (asking.handlerOf 0 request1).isNone = true) ∧
    16 * 31 + 10 ≠ task.cur ∧
    (stopping.stopAsked 0 = true ∧ stopping.atBoundary 0 = true) ∧ stopping.cutReady 0 = true ∧
    ((saving.flight 0).st = .saving ∧ saving.saveArea 0 = some (2 ^ 21)) ∧
    ((restoring.flight 0).st = .restoring ∧ restoring.flightImage 0 ((restoring.flight 0).part.getD 0) = some image1 ∧
      restoring.wsClash image1 = false ∧ restoring.flightPlaces image1 = some []) ∧
    (((sliced 999 none).part 0).enable = true ∧ (sliced 999 none).toTake 0 ≠ []) ∧ (sliced 1000 (some 0)).toStop 0 ≠ [] ∧
    (hosted.host.up = true ∧ (hosted.part 63).enable = false) ∧
    (let s := { hosted with parts := [(63, part0)] }
     s.host.up = true ∧ (s.part 63).enable = true) ∧
    (let i := { image1 with flight := false, source := 1 }
     let s := task.onCore 1 fun k => { k with mode := .awaiting (2 ^ 21) 0 }
     let s := { s with images := [i], cycle := 2 ^ 26 }
     (s.core 1).awaitsLoad = some (2 ^ 21, 0) ∧ 0 + 2 ^ 26 ≤ s.cycle ∧
       s.liveImages.find? (fun i => !i.flight && i.addr == 2 ^ 21 && i.source == 1) = some i) ∧
    (let s := task.onCore 1 fun k => { k with forward := some (2, 0) }
     (s.core 1).forward = some (2, 0) ∧ 0 ≤ s.cycle) ∧
    (let i : Inval := { id := 0, ctx := 0, serial := 0, asid := 0, lo := 0, hi := 2 ^ 19, agents := [.core 1, .flight 0], ats := true }
     let s := { task with invals := [i] }
     i ∈ s.invals ∧ s.mayAck (.core 1) i = true ∧ s.mayAck (.flight 0) i = true) := by decide +kernel

/-- The package booted, with its host, a port that is up, page 0 of domain 5 mapped through the aperture of function 1, and the
keys of 0x000 and domain 5. -/
def outside : State :=
  let s := mapped hosted
  { s with
    sec := { s.sec with booted := true }, ports := [(0, { Port.idle with up := true })], keys := [(0, key 0), (1, key 5)],
    pot := [(0, 0x8005)], parts := [(0, part0)], host := { s.host with apDom := [(1, 5)] }, dies := [(0, { Die.idle with potBase := 2 ^ 30 })] }

/-- The places of a whole aligned line, and of pieces of lines; a read and a write through the aperture, and addresses that it
refuses. -/
theorem test_HostAndRemoteEvents :
    (let s := inCtx fun c => { c with st := .waiting .tlwaitRemote }
     (s.ctx 0).st = .waiting .tlwaitRemote) ∧
    (outside.linked 1 = true ∧ outside.portRoom 1 = true ∧ 0x400 % 8 = 0 ∧
      (match outside.localPlaces 0x400 8 with
       | some l => (outside.linesBad l).isNone && (outside.egBlocked (ownerOf l) 2).isNone
       | none => false) = true) ∧
    (0x400 % 16 = 0 ∧
      (match outside.localPlaces 0x400 16 with
       | some l =>
         (outside.linesBad l).isNone && leNat (outside.peeks l) == 0 && (outside.egBlocked (ownerOf l) 2).isNone
       | none => false) = true ∧ ((0 : Word) - 0).toNat < 2 ^ 63 ∧ ¬ ((0 : Word) - 1).toNat < 2 ^ 63) ∧
    ((outside.localPlaces 0x400 64).isSome = true ∧ 0x400 % 64 = 0) ∧
    (match outside.localPlaces 0x410 64 with
     | some l => (outside.linesBad l).isNone
     | none => false) = true ∧
    (match outside.aperture 1 0x400 .load 5 with
     | some l => (outside.linesBad l).isNone && (outside.egFirst (outside.apertureEgress 1 true false l)).isNone &&
         (outside.linkOut l 0 0).isSome
     | none => false) = true ∧
    (outside.aperture 0 0x400 .load 5 = none ∧ outside.aperture 1 0x400 .store 0 = none ∧
      outside.apertureBad 0 0x400 .load 5 = none ∧ outside.apertureBad 1 0x400 .store 0 = none) ∧
    (match outside.aperture 1 0x3F8 .store 80 with
     | some l =>
       let whole := fun (p : Where) => covers l p && !outside.unreached p
       (outside.linesBad (l.filter fun p => !whole p)).isNone && (outside.egFirst (outside.apertureEgress 1 false true l)).isNone &&
         (outside.linkOut l 0 0).isSome &&
         (l.filter whole).length == 64
     | none => false) = true ∧
    ((0x400 : Word).toNat % 8 = 0 ∧ (0x404 : Word).toNat % 8 ≠ 0 ∧ (outside.aperture 1 0x400 .load 8).isSome = true ∧
      (match outside.aperture 1 0x400 .store 8 with
       | some l => (outside.linesBad l).isNone && (outside.egFirst (outside.apertureEgress 1 true true l)).isNone &&
           (l.all fun p => !isHost p.key) && (outside.linkOut l 2 0).isSome
       | none => false) = true) ∧
    (outside.host.up = true ∧ 64 ≤ 64 ∧ 15 < 16 ∧ outside.fnHolds 1 ((5 : Word).extractLsb' 0 12) = true) ∧
    (63 < 64 ∧ (outside.part 63).enable = false) := by decide +kernel

/-- A capacity move of block 0 from partition 0 to partition 1, whose pages 0x000 owns. -/
def move1 : Move := { block := 0, pair := 0x100, st := .idle, refusal := 0, ofBlock := 0, ofPair := 0x100 }

theorem test_HostAndRemoteEvents_moves :
    (outside.host.move.open = true ∧ outside.moveRefusal move1 = 0) ∧
    (let s := { outside with host := { outside.host with move := { move1 with st := .offered } } }
     s.host.up = true ∧ s.host.move.st = .offered) ∧
    (let s := { outside with host := { outside.host with move := { move1 with st := .scrubbing } } }
     s.host.move.st = .scrubbing ∧ (∀ p ∈ s.cores, p.2.eng.queue = []) ∧ s.liveImages = [] ∧ s.logShort (Config.dieOf s.host.move.base) 4096 = false ∧
       keyOf s.keys 0 = some 0) ∧
    (let b : Bucket := { rate := 1, capacity := 100, fault := false, enable := true, level := 0 }
     let s := { outside with egress := [(20, b)] }
     find? s.egress (4 * (5 : Dom).toNat + (0 : BitVec 2).toNat) = some b ∧ b.enable = true) ∧
    (let s := outside.setDie 3 { Die.idle with log := { Log.idle with seq := 1 } }
     s.sec.booted = true ∧ 3 < 4 ∧ (s.die 3).log.seq ≠ 0) ∧
    (outside.sec.booted = true ∧ outside.logFull 0 = false) ∧
    (Config.dramExists outside.sec.mailbox = true ∧ Config.dramExists (outside.sec.mailbox + 815) = true) := by decide +kernel

def boot1 : BootInput :=
  { signatureOk := true, version := 1, measured := true, started := true, trained := true, selfHosted := false, serviceMasks := [], ptpSource := some 23, logK := 12,
    enableWord := Config.enableWord, coreCounts := [], potBase := [0, 0, 0, 0], listBase := [0, 0, 0, 0], spaceBase := [], handlerBase := [], mailbox := 0 }
def flit1 : Flit := { crcOk := true, seq := 0, ack := 0, kind := 0, vc := 0, dest := 0, payload := [] }

/-- The inputs of a boot that passes and of one whose firmware is not signed; firmware of an old and of the present version; the
ends of the clock's range; the last die; both modes of reset; each fate of a flit. -/
theorem test_PowerTimeAndLinkEvents :
    (task.sec.booted = false ∧ boot1.signatureOk = true ∧ task.sec.fuse ≤ task.sec.flash.getD boot1.version ∧ boot1.measured = true ∧
      boot1.started = true ∧ boot1.trained = true ∧ 12 ≤ boot1.logK ∧
      boot1.logK ≤ 24 ∧ fusesOk boot1 = true ∧ (∀ p ∈ boot1.ptpSource, p.toNat < 24) ∧ ({ boot1 with signatureOk := false } : BootInput).signatureOk = false) ∧
    task.sec.fuse ≤ 0 ∧ (8 ≤ task.clock ∧ task.clock ≤ 16) ∧ (3 < 4 ∧ (task.die 3).everLocked = false ∧ (let d := { Die.idle with everLocked := true, inRange := 15 }
       (d.everLocked = true ∧ -100 ≤ (100 : Int) ∧ (100 : Int) ≤ 100 ∧ 16 ≤ d.inRange + 1) ∧ (task.die 3).inRange + 1 < 16)) ∧
    (let s := { outside with sec := { outside.sec with selfHosted := true } }
     s.sec.booted = true ∧ s.sec.selfHosted = true ∧ ∀ p ∈ s.cores, p.2.eng.queue = []) ∧
    (let s := { outside with ports := [(0, Port.idle)], host := { outside.host with enableWord := 2 ^ 28 } }
     0 < 24 ∧ s.host.enableWord.getLsbD (28 + 0) = true ∧ find? s.ports 0 = some Port.idle) ∧
    (outside.sec.booted = true ∧ outside.sec.selfHosted = false) ∧
    (let p := { Port.idle with up := true, refused := 15 }
     find? ({ outside with ports := [(23, p)] } : State).ports 23 = some p ∧ p.up = true ∧ p.refused < 16 ∧
       ({ flit1 with crcOk := false } : Flit).crcOk = false ∧ flit1.crcOk = true ∧ flit1.kind = 0 ∧ flit1.seq = p.rxSeq ∧
       ({ flit1 with seq := 1 } : Flit).seq ≠ p.rxSeq) := by decide +kernel
end Sys2Proof.Tests
end
end

section
/-!
PROOFS. Writes of several bytes; what a load leaves outside the issuing context;
what hardware's reads of the tables of 0x000 depend on; retirement, the log and the entry of a frame, each by what it leaves;
and from these GCALL, VLDT and VSTT, and the words that the spec writes out.
-/
noncomputable section
namespace Sys2Proof.Machine
open Sys2Proof.Safety

/-! ### Memory: writes of several bytes -/

/-- A write of bytes leaves every byte outside their range. -/
theorem Memory.get_setBytes_outside (b : List Byte) (m : List Host.Cell) (a k : Nat) (h : Memory.wf m = true)
    (hk : k < a ∨ a + b.length ≤ k) : Memory.get (Memory.setBytes m a b) k = Memory.get m k := by
  induction b generalizing m a with
  | nil => rfl
  | cons x r ih =>
    rw [List.length_cons] at hk
    rw [Memory.setBytes, ih _ _ (Memory.wf_set m a x h) (by omega), Memory.get_set m a k x h, if_neg (by omega)]

/-- Bytes read back are the bytes written. -/
theorem Memory.bytes_setBytes_same (b : List Byte) (m : List Host.Cell) (a : Nat) (h : Memory.wf m = true) :
    Memory.bytes (Memory.setBytes m a b) a b.length = b := by
  induction b generalizing m a with
  | nil => rfl
  | cons x r ih =>
    have hw := Memory.wf_set m a x h
    have hx : Memory.get (Memory.setBytes (Memory.set m a x) (a + 1) r) a = x := by
      rw [Memory.get_setBytes_outside r _ _ _ hw (by omega), Memory.get_set m a a x h, if_pos rfl]
    rw [List.length_cons, Memory.bytes, Memory.setBytes, hx, ih _ _ hw]

/-- What stands in a table after a change of one entry. -/
theorem find_put {α : Type} (l : List (Nat × α)) (k i : Nat) (x d : α) :
    find (put l k x) i d = if i = k then x else find l i d := by
  split
  · subst i; exact find_put_same l k x d
  · exact find_put_other l k i x d ‹_›

end Sys2Proof.Machine

namespace Sys2Proof.Safety
open Sys2Proof.Machine

/-! ### What a load leaves (R138, R378, R449, R492) -/

theorem launchesStand.of_eq {s t : State} (h : t.launches = s.launches) : launchesStand s t := by
  intro n
  unfold State.launch?
  rw [h]
  cases find? s.launches n with
  | none => exact ⟨0, [], rfl⟩
  | some l => exact ⟨l.counter, l.woke, rfl⟩

theorem launchesStand.trans {s t u : State} (h : launchesStand s t) (h' : launchesStand t u) : launchesStand s u := by
  intro n
  obtain ⟨_, _, ht⟩ := h n
  obtain ⟨count, woke, hu⟩ := h' n
  exact ⟨count, woke, by rw [hu, ht, Option.map_map]; rfl⟩

theorem unitsStand.of_eq {s t : State} (hc : t.cores = s.cores) (hg : t.gcores = s.gcores) (hf : t.flights = s.flights) :
    unitsStand s t := by
  unfold unitsStand State.core State.gcore State.flight
  rw [hc, hg, hf]
  exact ⟨fun _ => rfl, fun _ => rfl, fun _ => rfl⟩

theorem unitsStand.trans {s t u : State} (h : unitsStand s t) (h' : unitsStand t u) : unitsStand s u := by
  obtain ⟨hc, hg, hf⟩ := h
  obtain ⟨hc', hg', hf'⟩ := h'
  exact ⟨fun k => (hc' k).trans (congrArg (fun x : Core => { x with tlb := (u.core k).tlb }) (hc k)),
    fun k => (hg' k).trans (congrArg (fun x : GCore => { x with tlb := (u.gcore k).tlb }) (hg k)),
    fun k => (hf' k).trans (congrArg (fun x : Flight => { x with tlb := (u.flight k).tlb }) (hf k))⟩

theorem loadStands.trans {s t u : State} (h : loadStands s t) (h' : loadStands t u) : loadStands s u := by
  obtain ⟨hs, hl, hu⟩ := h
  obtain ⟨hs', hl', hu'⟩ := h'
  exact ⟨hs'.trans (congrArg (fun x : State => { x with
    me := u.me, launches := u.launches, cores := u.cores, gcores := u.gcores, flights := u.flights, egress := u.egress,
    egressBytes := u.egressBytes, ports := u.ports, freeCount := u.freeCount }) hs), hl.trans hl', hu.trans hu'⟩

theorem loadStands.refl (s : State) : loadStands s s := ⟨rfl, .of_eq rfl, .of_eq rfl rfl rfl⟩

/-- A core changes in the translations that it holds. -/
theorem onCore_tlb_stands (s : State) (c : Nat) (f : List TlbEntry → List TlbEntry) :
    loadStands s (s.onCore c fun x => { x with tlb := f x.tlb }) := by
  refine ⟨rfl, .of_eq rfl, fun k => ?_, fun _ => rfl, fun _ => rfl⟩
  unfold State.core
  rw [State.onCore_cores, find_put]
  split
  · subst k; rfl
  · rfl

theorem setGcore_tlb_stands (s : State) (g : Nat) (f : List TlbEntry → List TlbEntry) :
    loadStands s (s.setGcore g { s.gcore g with tlb := f (s.gcore g).tlb }) := by
  refine ⟨rfl, .of_eq rfl, fun _ => rfl, fun k => ?_, fun _ => rfl⟩
  unfold State.gcore
  rw [State.setGcore_gcores, find_put]
  split
  · subst k; rfl
  · rfl

theorem onFlight_tlb_stands (s : State) (f : Nat) (g : List TlbEntry → List TlbEntry) :
    loadStands s (s.onFlight f fun x => { x with tlb := g x.tlb }) := by
  refine ⟨rfl, .of_eq rfl, fun _ => rfl, fun _ => rfl, fun k => ?_⟩
  unfold State.flight
  rw [State.onFlight_flights, find_put]
  split
  · subst k; rfl
  · rfl

theorem keepL1_stands (s : State) (o : Option Nat) (t : TlbEntry) : loadStands s (s.keepL1 o t) := by
  cases o with
  | none => exact .refl s
  | some c =>
    by_cases h : c < 8192
    · simp only [State.keepL1, if_pos h]
      exact onCore_tlb_stands s c fun l => (t :: l).take 512
    · simp only [State.keepL1, if_neg h]
      exact setGcore_tlb_stands s (c - 8192) fun l => (t :: l).take 512

theorem keepL2_stands (s : State) (n : Nat) (t : TlbEntry) : loadStands s (s.keepL2 n t) :=
  onFlight_tlb_stands s n fun l => (t :: l).take 8192

theorem recordUnit_stands (s : State) (w : Who) (t : TlbEntry) (u : TlbUnit) : loadStands s (s.recordUnit w t u) := by
  have hf := onFlight_tlb_stands s w.flight (addUnit t u)
  unfold State.recordUnit
  cases w.l1 with
  | none => exact hf
  | some c =>
    by_cases h : c < 8192
    · simp only [if_pos h]
      exact hf.trans (onCore_tlb_stands _ c (addUnit t u))
    · simp only [if_neg h]
      exact hf.trans (setGcore_tlb_stands _ (c - 8192) (addUnit t u))

theorem keepTlb_stands (s : State) (who : Who) (k : Kind) (a : Nat) : loadStands s (s.keepTlb who k a) := by
  unfold State.keepTlb
  by_cases h : inWindows a = true
  · rw [if_pos h]; exact .refl s
  · rw [if_neg h]
    generalize s.tlbOwn who a = own, s.tlbShared who a = shared, s.fill who k a = filled
    cases own with
    | some t =>
      dsimp only
      generalize (if (t.unit? a).isSome then none else (s.checkUnit who k t a).toOption) = unit
      cases unit with
      | some u => exact recordUnit_stands ..
      | none => exact .refl s
    | none =>
      cases shared with
      | some t =>
        dsimp only
        generalize (if (t.unit? a).isSome then none else (s.checkUnit who k t a).toOption) = unit
        cases unit with
        | some u => exact (recordUnit_stands ..).trans (keepL1_stands ..)
        | none => exact keepL1_stands ..
      | none =>
        cases filled with
        | ok p => exact (keepL2_stands ..).trans (keepL1_stands ..)
        | error _ => exact .refl s

theorem keepTlbs_stands (s : State) (who : Who) (k : Kind) (ea : Word) (n : Nat) : loadStands s (s.keepTlbs who k ea n) :=
  (keepTlb_stands ..).trans (keepTlb_stands ..)

theorem charge_stands (s : State) (d : Dom) (c n : Nat) : loadStands s (s.charge d c n) := by
  unfold State.charge
  split
  · exact .refl s
  · dsimp only
    split
    · exact ⟨rfl, .of_eq rfl, .of_eq rfl rfl rfl⟩
    · split <;> exact ⟨rfl, .of_eq rfl, .of_eq rfl rfl rfl⟩

theorem chargeAll_stands (l : List (Dom × Nat × Nat)) (s : State) : loadStands s (s.chargeAll l) := by
  induction l generalizing s with
  | nil => exact .refl s
  | cons p r ih => exact (charge_stands ..).trans (ih _)

theorem linkOut_stands {s t : State} {l : List Where} {vc : BitVec 2} {n : Nat} (h : s.linkOut l vc n = some t) :
    loadStands s t := by
  unfold State.linkOut at h
  split at h
  · cases h; exact .refl s
  · split at h
    · cases h; exact .refl s
    · obtain ⟨q, -, rfl⟩ := Option.map_eq_some_iff.mp h
      exact ⟨rfl, .of_eq rfl, .of_eq rfl rfl rfl⟩

/-- The places that a check gives are one for each byte. -/
theorem places_length {s : State} {who : Who} {kind : Kind} (l : List Nat) (h : s.firstFail who kind l = none) :
    (s.places who kind l).length = l.length := by
  induction l with
  | nil => rfl
  | cons a r ih =>
    unfold State.firstFail at h
    unfold State.places
    cases hc : s.checkByte who kind a with
    | ok w =>
      rw [hc] at h
      simp [ih h]
    | error c =>
      rw [hc] at h
      dsimp only at h
      split at h
      · cases h
      · split at h <;> cases h

theorem check_length {s : State} {who : Who} {kind : Kind} {ea : Word} {n : Nat} {l : List Where}
    (h : s.check who kind ea n = .ok l) : l.length = n := by
  unfold State.check at h
  split at h
  · cases h
  · cases h
    rw [places_length _ ‹_›]
    simp [addrs]

/-- A load that completes gives as many bytes as it names, and leaves everything but what `loadStands` names. -/
theorem load_stands {s u : State} {ea : Word} {n : Nat} {b : List Byte} (h : s.load ea n = .ok b u) :
    loadStands s u ∧ b.length = n := by
  unfold State.load at h
  split at h
  · cases h
  · split at h
    · exact absurd h refused_not_ok
    · rename_i l hl
      split at h
      · cases h
      replace h := egressGate_ok h
      unfold State.overLink at h
      split at h
      · rename_i t ht
        dsimp only at h
        split at h
        · exact absurd h badMem_not_ok
        · cases h
          exact ⟨((chargeAll_stands ..).trans (linkOut_stands ht)).trans (keepTlbs_stands ..),
            by simp [State.peeks, check_length hl]⟩
      · cases h

/-! ### What the tables of 0x000 are read by (R371, R448) -/

/-- What the address of a domain's address-space entry and the check of its line depend on. -/
structure TablesStand (s t : State) : Prop where
  eccLines : t.eccLines = s.eccLines
  keys : t.keys = s.keys
  lineKey : t.lineKey = s.lineKey
  pageKey : t.pageKey = s.pageKey
  chip : t.chip = s.chip
  cycle : t.cycle = s.cycle
  parts : t.parts = s.parts
  host : t.host = s.host
  flightPart : ∀ f, (t.flight f).part = (s.flight f).part

theorem TablesStand.trans {s t u : State} (h : TablesStand s t) (h' : TablesStand t u) : TablesStand s u where
  eccLines := h'.eccLines.trans h.eccLines
  keys := h'.keys.trans h.keys
  lineKey := h'.lineKey.trans h.lineKey
  pageKey := h'.pageKey.trans h.pageKey
  chip := h'.chip.trans h.chip
  cycle := h'.cycle.trans h.cycle
  parts := h'.parts.trans h.parts
  host := h'.host.trans h.host
  flightPart f := (h'.flightPart f).trans (h.flightPart f)

theorem TablesStand.tableBad {s t : State} (h : TablesStand s t) (pa : Nat) : t.tableBad pa = s.tableBad pa := by
  unfold State.tableBad State.lineKeyOf
  rw [h.eccLines, h.keys, h.lineKey, h.pageKey, h.chip, h.cycle]

theorem TablesStand.servedPart {s t : State} (h : TablesStand s t) (k : Nat) :
    t.flightPart (t.servedBy k) = s.flightPart (s.servedBy k) := by
  simp only [State.flightPart, State.servedBy, State.flightsOn, h.host, h.flightPart]

theorem TablesStand.spaceGood {s t : State} (h : TablesStand s t) (p : Nat) (d : Dom) : spaceGood t p d ↔ spaceGood s p d := by
  simp only [Safety.spaceGood, State.part, h.parts, h.tableBad]

theorem loadStands.tables {s t : State} (h : loadStands s t) : TablesStand s t := by
  obtain ⟨hs, -, -, -, hf⟩ := h
  exact ⟨(congrArg State.eccLines hs :), (congrArg State.keys hs :), (congrArg State.lineKey hs :),
    (congrArg State.pageKey hs :), (congrArg State.chip hs :), (congrArg State.cycle hs :), (congrArg State.parts hs :),
    (congrArg State.host hs :), fun k => (congrArg Flight.part (hf k) :)⟩

end Sys2Proof.Safety

namespace Sys2Proof.Machine
open Sys2Proof.Safety

/-- A good line of an address-space entry is no fault. -/
theorem spaceFault_good {s : State} {k p : Nat} {d : Dom} (h : spaceGood s p d) : s.spaceFault k p d = s := by
  unfold spaceGood at h
  simp only [State.spaceFault, h]

theorem respaced_good {s before : State} {k : Nat} (h : spaceGood s (s.flightPart (s.servedBy k)) (s.ctx k).c.dom) :
    s.respaced before k = s := by
  unfold State.respaced
  dsimp only
  split
  · exact spaceFault_good h
  · rfl

/-! ### Retirement and trace -/

theorem traced_quiet {s : State} (h : quiet s) : s.traced = s := by
  unfold quiet at h
  simp [State.traced, h]

theorem onLaunch_stands (s : State) (n : Nat) (f : Launch → Launch) :
    s.onLaunch n f = { s with launches := (s.onLaunch n f).launches } := by
  unfold State.onLaunch
  split <;> rfl

theorem countRetired_stands (s : State) : s.countRetired = { s with launches := s.countRetired.launches } := by
  unfold State.countRetired
  split
  · rfl
  · exact onLaunch_stands ..

/-- Retirement changes the issuing context and the launches. -/
theorem retired_stands (s : State) (k : Bool) :
    s.retired k = { s with me := (s.retired k).me, launches := (s.retired k).launches } := by
  unfold State.retired
  dsimp only
  split
  · rw [countRetired_stands, State.noteWoke, onLaunch_stands]
  · rw [countRetired_stands]

theorem retired_me (s : State) (k : Bool) :
    (s.retired k).me = { s.me with
      st := .ready, c := { s.me.c with ret := s.me.c.ret + 1, psw := if k then s.me.c.psw else setBit s.me.c.psw 1 false },
      vs := s.me.vs.map fun v => { v with age := v.age + 1 } } := by
  simp [State.retired]

theorem retired_tables (s : State) (k : Bool) : TablesStand s (s.retired k) := by
  rw [retired_stands]
  exact ⟨rfl, rfl, rfl, rfl, rfl, rfl, rfl, rfl, fun _ => rfl⟩

/-! ### The access log (R382 to R385) -/

/-- What the log writer leaves: everything but memory, what is kept of releases, and the dies. -/
def logStands (s t : State) : Prop := t = { s with mem := t.mem, rels := t.rels, dies := t.dies }

theorem logStands.trans {s t u : State} (h : logStands s t) (h' : logStands t u) : logStands s u :=
  Eq.trans h' (congrArg (fun x : State => { x with mem := u.mem, rels := u.rels, dies := u.dies }) h)

theorem logStands.me {s t : State} (h : logStands s t) : t.me = s.me := (congrArg State.me h :)
theorem logStands.cur {s t : State} (h : logStands s t) : t.cur = s.cur := (congrArg State.cur h :)

theorem logStands.tables {s t : State} (h : logStands s t) : TablesStand s t :=
  ⟨(congrArg State.eccLines h :), (congrArg State.keys h :), (congrArg State.lineKey h :), (congrArg State.pageKey h :),
    (congrArg State.chip h :), (congrArg State.cycle h :), (congrArg State.parts h :), (congrArg State.host h :),
    fun f => congrArg (fun l => (find l f Flight.idle).part) (congrArg State.flights h :)⟩

theorem hwBytes_stands (s : State) (k : Nat) (b : List Byte) : logStands s (s.hwBytes k b) := rfl

theorem setDie_stands (s : State) (d : Nat) (x : Die) : logStands s (s.setDie d x) := rfl

theorem logAt_stands (s : State) (die who : Nat) (gond : Bool) (code : Nat) (acting other : Dom) (a0 a1 a2 : Word) :
    logStands s (s.logAt die who gond code acting other a0 a1 a2) := by
  have hrec (b : List Byte) (k : Nat) (x : Die) : logStands s ((s.hwBytes k b).setDie die x) :=
    (hwBytes_stands ..).trans (setDie_stands ..)
  unfold State.logAt
  dsimp only
  split
  · unfold State.addCheckpoint
    exact (hrec ..).trans ((hwBytes_stands ..).trans (setDie_stands ..))
  · exact hrec ..

theorem hwBytes_wf {s : State} (k : Nat) (b : List Byte) (h : Memory.wf s.mem = true) :
    Memory.wf (s.hwBytes k b).mem = true := Memory.wf_setBytes b s.mem k h

theorem addCheckpoint_wf {s : State} (die : Nat) (h : Memory.wf s.mem = true) :
    Memory.wf (s.addCheckpoint die).mem = true := by
  unfold State.addCheckpoint
  rw [State.setDie_mem]
  exact hwBytes_wf _ _ h

theorem logAt_wf {s : State} (die who : Nat) (gond : Bool) (code : Nat) (acting other : Dom) (a0 a1 a2 : Word)
    (h : Memory.wf s.mem = true) : Memory.wf (s.logAt die who gond code acting other a0 a1 a2).mem = true := by
  unfold State.logAt
  dsimp only
  split
  · apply addCheckpoint_wf
    rw [State.setDie_mem]
    exact hwBytes_wf _ _ h
  · rw [State.setDie_mem]
    exact hwBytes_wf _ _ h

theorem setDie_die (s : State) (d : Nat) (x : Die) : (s.setDie d x).die d = x := find_put_same ..

theorem addCheckpoint_seq (s : State) (die : Nat) : ((s.addCheckpoint die).die die).log.seq = (s.die die).log.seq := by
  unfold State.addCheckpoint
  simp only [setDie_die]

/-- A record takes the next number of its die's log. -/
theorem logAt_seq (s : State) (die who : Nat) (gond : Bool) (code : Nat) (acting other : Dom) (a0 a1 a2 : Word) :
    ((s.logAt die who gond code acting other a0 a1 a2).die die).log.seq = (s.die die).log.seq + 1 := by
  unfold State.logAt
  dsimp only
  split
  · simp only [addCheckpoint_seq, setDie_die]
  · simp only [setDie_die]

/-! ### Entering a frame (R337, R390) -/

/-- The bits of the psw that stand as psw.GD is written, and those that stand as GCALL restarts its fields. -/
theorem gd_mask (i : Nat) (h : i < 19) : (~~~(0xF#19 <<< 13)).getLsbD i = decide (i < 13 ∨ 17 ≤ i) := by
  have hall : ∀ j : Fin 19, (~~~(0xF#19 <<< 13)).getLsbD j = decide (j.val < 13 ∨ 17 ≤ j.val) := by decide
  exact hall ⟨i, h⟩

theorem fresh_mask (i : Nat) (h : i < 19) : (~~~freshPsw).getLsbD i = decide (i < 3 ∨ 12 ≤ i) := by
  have hall : ∀ j : Fin 19, (~~~freshPsw).getLsbD j = decide (j.val < 3 ∨ 12 ≤ j.val) := by decide
  exact hall ⟨i, h⟩

/-- psw.GD reads as it is written (R56). -/
theorem Csr.gd_setGd (c : Csr) (n : Nat) (h : n < 16) : (c.setGd n).gd = n := by
  have hfield : (c.setGd n).psw.extractLsb' 13 4 = BitVec.ofNat 4 n := by
    apply BitVec.eq_of_getLsbD_eq
    intro i hi
    have hold := gd_mask (13 + i) (by omega)
    rw [decide_eq_false (by omega)] at hold
    have hin : 13 + i < 19 := by omega
    have hpast : ¬ 13 + i < 13 := by omega
    have hwide : i < 19 := by omega
    rw [BitVec.getLsbD_extractLsb', Csr.setGd, BitVec.getLsbD_or, BitVec.getLsbD_and, hold, BitVec.getLsbD_shiftLeft,
      Nat.mod_eq_of_lt h, BitVec.getLsbD_ofNat, BitVec.getLsbD_ofNat, Nat.add_sub_cancel_left, decide_eq_true hin,
      decide_eq_false hpast, decide_eq_true hwide, Bool.and_false, Bool.false_or, Bool.not_false, Bool.true_and,
      Bool.true_and, Bool.true_and]
  rw [Csr.gd, hfield, BitVec.toNat_ofNat, Nat.mod_eq_of_lt h]

/-- The other bits of the psw stand as psw.GD is written. -/
theorem Csr.setGd_other (c : Csr) (n i : Nat) (h : i < 19) (hgd : i < 13 ∨ 17 ≤ i) :
    (c.setGd n).psw.getLsbD i = c.psw.getLsbD i := by
  have hfield : ((BitVec.ofNat 19 (n % 16)) <<< 13).getLsbD i = false := by
    rw [BitVec.getLsbD_shiftLeft, BitVec.getLsbD_ofNat]
    obtain hlow | hhigh := hgd
    · simp [hlow]
    · have hbit : (n % 16).testBit (i - 13) = false :=
        Nat.testBit_lt_two_pow (by
          calc n % 16 < 2 ^ 4 := Nat.mod_lt _ (by decide)
            _ ≤ 2 ^ (i - 13) := Nat.pow_le_pow_right (by decide) (by omega))
      simp [hbit]
  rw [Csr.setGd, BitVec.getLsbD_or, BitVec.getLsbD_and, gd_mask i h, hfield, decide_eq_true hgd]
  simp

theorem pushFrame_frames (s : State) (f : Frame) (entry : Word) (window : List Byte) :
    (s.pushFrame f entry window).me.frames = f :: s.me.frames := rfl

theorem pushFrame_cur (s : State) (f : Frame) (entry : Word) (window : List Byte) :
    (s.pushFrame f entry window).cur = s.cur := rfl

theorem pushFrame_die (s : State) (f : Frame) (entry : Word) (window : List Byte) (d : Nat) :
    (s.pushFrame f entry window).die d = s.die d := rfl

theorem pushFrame_ret (s : State) (f : Frame) (entry : Word) (window : List Byte) :
    (s.pushFrame f entry window).me.c.ret = s.me.c.ret := rfl

/-- A bit of the callee's psw outside GD: the caller's, but for the fields that GCALL restarts (R25, R337, R390). -/
theorem pushFrame_psw (s : State) (f : Frame) (entry : Word) (window : List Byte) (i : Nat) (h : i < 19)
    (hgd : i < 13 ∨ 17 ≤ i) :
    (s.pushFrame f entry window).me.c.psw.getLsbD i = (s.me.c.psw.getLsbD i && decide (i < 3 ∨ 12 ≤ i)) := by
  unfold State.pushFrame
  dsimp only
  rw [Csr.setGd_other _ _ i h hgd, BitVec.getLsbD_and, fresh_mask i h]

theorem pushFrame_gd (s : State) (f : Frame) (entry : Word) (window : List Byte) (h : s.me.frames.length < 8) :
    (s.pushFrame f entry window).me.c.gd = s.me.frames.length + 1 :=
  Csr.gd_setGd _ (s.me.frames.length + 1) (by omega)

theorem pushFrame_rm (s : State) (f : Frame) (entry : Word) (window : List Byte) :
    (s.pushFrame f entry window).me.c.rm = 0 := by
  apply BitVec.eq_of_getLsbD_eq
  intro i hi
  have hbit : (s.pushFrame f entry window).me.c.psw.getLsbD (3 + i) = false := by
    rw [pushFrame_psw _ _ _ _ _ (by omega) (by omega), decide_eq_false (by omega), Bool.and_false]
  rw [Csr.rm, BitVec.getLsbD_extractLsb', hbit, Bool.and_false]
  exact BitVec.getLsbD_zero.symm

theorem pushFrame_wu (s : State) (f : Frame) (entry : Word) (window : List Byte) :
    (s.pushFrame f entry window).me.c.wu = false := by
  rw [Csr.wu, pushFrame_psw _ _ _ _ _ (by omega) (by omega), decide_eq_false (by omega), Bool.and_false]

theorem pushFrame_tr (s : State) (f : Frame) (entry : Word) (window : List Byte) :
    (s.pushFrame f entry window).me.c.tr = s.me.c.tr := by
  rw [Csr.tr, pushFrame_psw _ _ _ _ _ (by omega) (by omega), decide_eq_true (by omega), Bool.and_true]
  rfl

/-- Entering a frame leaves what the tables of 0x000 are read by. -/
theorem pushFrame_tables (s : State) (f : Frame) (entry : Word) (window : List Byte) :
    TablesStand s (s.pushFrame f entry window) :=
  ⟨rfl, rfl, rfl, rfl, rfl, rfl, rfl, rfl, fun _ => rfl⟩

theorem wipe_wf {s : State} (core g : Nat) (d : Dom) (h : Memory.wf s.mem = true) : Memory.wf (s.wipe core g d).mem = true :=
  Memory.wf_clear s.mem _ _ h

/-- The window's bytes stand in the frame's granule (R357). -/
theorem pushFrame_window (s : State) (f : Frame) (entry : Word) (window : List Byte) (h : Memory.wf s.mem = true) :
    Memory.bytes (s.pushFrame f entry window).mem (spadKey (homeOf s.cur s.me) (4096 * f.granule + 0x600)) window.length =
      window := by
  unfold State.pushFrame
  dsimp only
  apply Memory.bytes_setBytes_same
  apply wipe_wf
  dsimp only
  split
  · exact Memory.wf_setBytes _ _ _ h
  · exact h

/-! ### GCALL (R25, R337, R357, R358, R360, R390) -/

theorem exec_gcall (d a b : WReg) (s : State) : exec (.gcall d a b) s = execGcall d a b s := rfl

/-- The caller as GCALL retires, with the call in the log: u is the state after the window's read. -/
def State.calling (s u : State) (a : WReg) (g : Gate) : State :=
  (u.log 1 s.me.c.dom g.callee (BitVec.ofNat 64 (s.w a).toNat) (BitVec.ofNat 64 g.windowSize)
    (BitVec.ofNat 64 (s.me.frames.length + 1))).retired false

/-- The callee in its frame, with the bytes of the window. -/
def State.entered (s u : State) (d a b : WReg) (g : Gate) (granule : Nat) (bytes : List Byte) : State :=
  (s.calling u a g).pushFrame (s.frameFor d g (s.w b) granule) (g.word 0) bytes

/-- GCALL that no check stops, with a free frame and room in the log, comes to the entered state. -/
theorem gcall_enters {d a b : WReg} {s u : State} {g : Gate} {granule : Nat} {l : List Where} {bytes : List Byte}
    (hi : issues s (.gcall d a b)) (hs : s.me.c.s = false) (hp : s.hasParked = false) (hv : s.me.vs = [])
    (hn : (s.w a).toNat < 4096) (hg : find? s.gates (s.w a).toNat = some g)
    (hadm : g.admits s.me.c.dom (s.domPart s.me.c.dom s.myPart) = true) (hdepth : s.me.frames.length < 8)
    (hhome : isG s.cur = true → s.me.t.home ≠ none) (hal : (s.w b).toNat % 64 = 0)
    (hc : s.check s.who .load (s.w b) (8 * g.windowSize) = .ok l) (hf : s.freeFrame (homeOf s.cur s.me) = some granule)
    (hlog : s.myLogFull = false) (hl : s.load (s.w b) (8 * g.windowSize) = .ok bytes u) :
    exec (.gcall d a b) s = .next ((s.entered u d a b g granule bytes).respaced s s.cur).traced := by
  have hthread : (isG s.cur && s.me.t.home.isNone) = false := by
    cases hk : isG s.cur with
    | false => rfl
    | true => simp [Option.isSome_iff_ne_none, hhome hk]
  rw [exec_gcall]
  exact issue_whole hi (by
    simp [hs, hp, hv, hn, hg, hadm, Nat.not_le.mpr hdepth, hthread, aligned, hal, hc, hf, hlog, hl, Mem.then, State.entered,
      State.calling])

section Calling
variable {s u : State} (a : WReg) (g : Gate)

theorem calling_me (hme : u.me = s.me) : (s.calling u a g).me = { s.me with
    st := .ready, c := { s.me.c with ret := s.me.c.ret + 1, psw := setBit s.me.c.psw 1 false },
    vs := s.me.vs.map fun v => { v with age := v.age + 1 } } := by
  rw [State.calling, retired_me, State.log, (logAt_stands ..).me, hme]
  rfl

theorem calling_cur (hcur : u.cur = s.cur) : (s.calling u a g).cur = s.cur := by
  rw [State.calling, retired_stands]
  exact (logAt_stands ..).cur.trans hcur

theorem calling_wf (hwf : Memory.wf u.mem = true) : Memory.wf (s.calling u a g).mem = true := by
  rw [State.calling, retired_stands]
  exact logAt_wf _ _ _ _ _ _ _ _ _ hwf

theorem calling_tables (htables : TablesStand s u) : TablesStand s (s.calling u a g) :=
  (htables.trans (logAt_stands ..).tables).trans (retired_tables ..)

/-- The call is in the log of the caller's die (R384). -/
theorem calling_seq (hcur : u.cur = s.cur) (hdies : u.dies = s.dies) :
    ((s.calling u a g).die (ctxDie s.cur)).log.seq = (s.die (ctxDie s.cur)).log.seq + 1 := by
  have hdie : u.die (ctxDie s.cur) = s.die (ctxDie s.cur) := by rw [State.die, hdies]; rfl
  rw [State.calling, retired_stands, ← hdie, ← hcur]
  exact logAt_seq ..

/-- No trace follows a call by a task that is not traced (R461). -/
theorem entered_quiet (hme : u.me = s.me) (hq : quiet s) (d b : WReg) (granule : Nat) (bytes : List Byte) :
    quiet (s.entered u d a b g granule bytes) := by
  have htr : (s.entered u d a b g granule bytes).me.c.tr = (s.calling u a g).me.c.tr := pushFrame_tr ..
  rw [quiet, htr, calling_me a g hme]
  exact (setBit_other _ 1 18 false (by decide)).trans hq

/-- The callee runs on where the line of its address-space entry is good (R371, R448). -/
theorem entered_respaced (hcur : u.cur = s.cur) (htables : TablesStand s u)
    (hgood : spaceGood s (s.flightPart (s.servedBy s.cur)) g.callee) (d b : WReg) (granule : Nat) (bytes : List Byte) :
    (s.entered u d a b g granule bytes).respaced s s.cur = s.entered u d a b g granule bytes := by
  have hentered : TablesStand s (s.entered u d a b g granule bytes) := (calling_tables a g htables).trans (pushFrame_tables ..)
  have hkey : (s.entered u d a b g granule bytes).cur = s.cur :=
    (pushFrame_cur ..).trans (calling_cur a g hcur)
  have hctx : ((s.entered u d a b g granule bytes).ctx s.cur).c.dom = g.callee := by
    rw [State.ctx, hkey, beq_self_eq_true, if_pos rfl]
    rfl
  exact respaced_good (by rw [hctx, hentered.servedPart, hentered.spaceGood]; exact hgood)

end Calling

/-- Settles O47: the callee is entered in `State.entered`, where neither a bad line of its address-space entry nor a trace
stops it. -/
theorem gateCallEntersTheCallee : Obligations.GateCallEntersTheCallee := by
  intro d a b s u g granule l bytes hi hcanon hq hs hp hv hn hg hadm hdepth hhome hal hc hf hgood hlog hl copy
  obtain ⟨-, -, hmem, hme, -, hcur⟩ := load_ok hl
  obtain ⟨hstands, hlen⟩ := load_stands hl
  have hexec := gcall_enters hi hs hp hv hn hg hadm hdepth hhome hal hc hf hlog hl
  rw [entered_respaced a g hcur hstands.tables hgood, traced_quiet (entered_quiet a g hme hq d b granule bytes)] at hexec
  have hcaller := calling_me a g hme
  have hframes : (s.calling u a g).me.frames = s.me.frames := by rw [hcaller]
  refine ⟨s.entered u d a b g granule bytes, s.frameFor d g (s.w b) granule, hexec, ?frames, rfl, rfl, rfl, rfl, rfl, rfl,
    rfl, rfl, rfl, rfl, rfl, rfl, rfl, ?gd, pushFrame_rm .., pushFrame_wu .., ?ret, rfl, ?window, ?log⟩
  case frames => rw [State.entered, pushFrame_frames, hframes]
  case gd =>
    rw [← hframes]
    exact pushFrame_gd _ _ _ _ (hframes ▸ hdepth)
  case ret => rw [State.entered, pushFrame_ret, hcaller]
  case window =>
    have hwindow := pushFrame_window (s.calling u a g) (s.frameFor d g (s.w b) granule) (g.word 0) bytes
      (calling_wf a g (hmem ▸ hcanon.1))
    rw [hlen, calling_cur a g hcur, hcaller] at hwindow
    exact hwindow
  case log =>
    rw [State.entered, pushFrame_die]
    exact calling_seq a g hcur (congrArg State.dies hstands.1 :)

/-! ### VLDT and VSTT (R20, R176) -/

theorem exec_vldt (d : VReg) (t : Slot) (r c : BitVec 6) (s : State) : exec (.vldt d t r c) s = execVldt d t r c s := rfl
theorem exec_vstt (d : VReg) (t : Slot) (r c : BitVec 6) (s : State) : exec (.vstt d t r c) s = execVstt d t r c s := rfl

/-- A block inside a READY slot of the task's domain has its local-window address (R20, R176). -/
theorem blockOf_ready {s : State} {t : Slot} {r c : BitVec 6} (hst : (s.slot s.myCore t).st = .ready)
    (hdom : (s.slot s.myCore t).dom = s.me.c.dom) (hrow : s.rowOf r < shapeRows (s.slot s.myCore t).shape)
    (hcol : c.toNat * 64 < rowBytes (s.slot s.myCore t).shape) :
    s.blockOf t r c = .ok (localWindow ((s.slot s.myCore t).base.toNat +
      s.rowOf r * shapePitch (s.slot s.myCore t).shape * 64 + c.toNat * 64)) := by
  have hforeign : (s.slot s.myCore t).foreign s.me.c.dom = false := by simp [TileSlot.foreign, hst, hdom]
  simp [State.blockOf, hst, SlotState.busy, hforeign, Nat.not_le.mpr hrow, Nat.not_le.mpr hcol]

theorem vldt_loads {d : VReg} {t : Slot} {r c : BitVec 6} {s u : State} {a : Word} {b : List Byte}
    (hi : issues s (.vldt d t r c)) (ha : s.blockOf t r c = .ok a) (hl : s.load a 64 = .ok b u) :
    exec (.vldt d t r c) s =
      retires (.vldt d t r c) ((u.onRegs (·.setV d (BitVec.ofNat 512 (leNat b)))).vectored []) := by
  rw [exec_vldt]
  exact issue_done hi (by simp [ha, hl, Mem.then])

theorem vstt_stores {d : VReg} {t : Slot} {r c : BitVec 6} {s u : State} {a : Word}
    (hi : issues s (.vstt d t r c)) (hq : ∀ q ∈ (s.core s.myCore).loftq, q.reads t = false)
    (ha : s.blockOf t r c = .ok a) (hs : s.store a (natLe 64 (s.me.r.getV d).toNat) = .ok () u) :
    exec (.vstt d t r c) s = retires (.vstt d t r c) (u.vectored []) := by
  have hfree : (s.core s.myCore).loftq.any (·.reads t) = false := by simpa using hq
  rw [exec_vstt]
  exact issue_done hi (by simp [hfree, ha, hs, Mem.then])

/-- Settles O35: the block's address passes every check of R176, and the rest is the load or the store at it. -/
theorem tileBlocksMove : Obligations.TileBlocksMove := by
  intro d t r c s x row a hst hdom hrow hcol
  have ha : s.blockOf t r c = .ok a := blockOf_ready hst hdom hrow hcol
  exact ⟨fun b u hi hl => vldt_loads hi ha hl, fun u hi hq hs => vstt_stores hi hq ha hs⟩

/-! ### Words of the spec -/

/-- Settles O60: every word is closed, so the decoder's own evaluation of each answers. -/
theorem decodesSpecWords : Obligations.DecodesSpecWords := by
  unfold Obligations.DecodesSpecWords
  decide

end Sys2Proof.Machine
end
end

section
/-!
PROOFS. The step without an instruction (O2), and the waits at the queues (O16): each form as one of the model's shapes, the
stream that it is of, and what that shape does where a source is empty or the destination is full.
-/
noncomputable section
namespace Sys2Proof.Machine
open Sys2Proof.Safety

/-! ### The step without an instruction (R28) -/

theorem step_event {s : State} {i : Instr} {l : List Instr} (hs : s.stopped = none) (ha : s.agenda = i :: l)
    (he : encode i = none) : step s = exec i { s with agenda := l } := by
  simp [step, hs, ha, isEvent, he]

theorem step_tick {s : State} (hs : s.stopped = none) (ha : s.agenda = []) (hn : s.nextCtx = none) :
    step s = .next s.tick := by
  simp [step, hs, ha, hn]

/-- Settles O2: an event at the head of the agenda is what `step` runs, and with nothing to run it ends the cycle (log 2). -/
theorem stepWithoutAnInstruction : Obligations.StepWithoutAnInstruction :=
  ⟨fun _ _ _ => step_event, fun _ => step_tick⟩

/-! ### The scalar stream (R45, R73) -/

/-- The major opcodes of the vector stream. -/
def vectorOp (op : Nat) : Bool := op == 0x45 || (0x50 ≤ op && op ≤ 0x60) || op == 0x63

@[simp] theorem packA_major (op d a b f : Nat) : packA op d a b f / 2 % 128 = op % 128 := by unfold packA; omega
@[simp] theorem packI_major (op d a i : Nat) : packI op d a i / 2 % 128 = op % 128 := by unfold packI; omega
@[simp] theorem packU_major (op d i : Nat) : packU op d i / 2 % 128 = op % 128 := by unfold packU; omega
@[simp] theorem packVX_major (op d s i z f : Nat) : packVX op d s i z f / 2 % 128 = op % 128 := by unfold packVX; omega

/-- A 16-bit instruction is of the scalar stream. -/
theorem scalar_half {i : Instr} {w : Nat} (h : encode i = some (16, w)) : i.vector = false := by
  have hmajor : i.major = some (128 + w / 2048 % 32) := by simp [Instr.major, h]
  simp only [Instr.vector, hmajor]
  simp
  omega

theorem major_word {i : Instr} {w : Nat} (h : encode i = some (32, w)) : i.major = some (w / 2 % 128) := by
  simp [Instr.major, h]

/-- A 32-bit instruction is of the stream that its major opcode gives. -/
theorem vector_word {i : Instr} {w : Nat} (h : encode i = some (32, w)) : i.vector = vectorOp (w / 2 % 128) := by
  simp only [Instr.vector, major_word h, vectorOp]

/-- An instruction of the VX form is neither FMT nor REP, and of the vector stream. -/
theorem vector_packVX {i : Instr} {op d s j z f : Nat} (h : encode i = some (32, packVX op d s j z f))
    (hop : 0x50 ≤ op ∧ op < 0x60) : i.vector = true ∧ i.isControl = false := by
  have hmajor : i.major = some op := by rw [major_word h, packVX_major, Nat.mod_eq_of_lt (by omega)]
  simp only [Instr.vector, Instr.isControl, hmajor]
  simp
  omega

theorem scalar_encoded {i : Instr} {n w : Nat} (h : encode i = some (n, w))
    (hs : n = 16 ∨ n = 32 ∧ vectorOp (w / 2 % 128) = false) : i.vector = false := by
  obtain rfl | ⟨rfl, hw⟩ := hs
  · exact scalar_half h
  · rw [vector_word h, hw]

/-! ### The forms as shapes of the model -/

theorem intBinary_alu2 {i : Instr} {d a b : Opnd} {f : Word → Word → Word → Int} (h : intBinary i = some (d, a, b, f))
    (s : State) : ∃ g, exec i s = alu2 i d a b s g := by
  unfold intBinary at h
  split at h <;> cases h <;> unfold exec <;> exact ⟨_, rfl⟩

theorem intUnary_alu1 {i : Instr} {d a : Opnd} {f : Word → Word → Int} (h : intUnary i = some (d, a, f)) (s : State) :
    ∃ g, exec i s = alu1 i d a s g := by
  unfold intUnary at h
  split at h <;> cases h <;> unfold exec <;> exact ⟨_, rfl⟩

theorem intNullary_alu0 {i : Instr} {d : Opnd} {f : Word → Word → Int} (h : intNullary i = some (d, f)) (s : State) :
    ∃ g, exec i s = alu0 i d s g := by
  unfold intNullary at h
  split at h <;> cases h <;> unfold exec <;> exact ⟨_, rfl⟩

theorem intBinary_scalar {i : Instr} {p : Opnd × Opnd × Opnd × (Word → Word → Word → Int)} (h : intBinary i = some p) :
    i.vector = false := by
  unfold intBinary at h
  split at h <;> cases h <;> exact scalar_encoded rfl (by simp [vectorOp])

theorem intUnary_scalar {i : Instr} {p : Opnd × Opnd × (Word → Word → Int)} (h : intUnary i = some p) : i.vector = false := by
  unfold intUnary at h
  split at h <;> cases h <;> exact scalar_encoded rfl (by simp [vectorOp])

theorem intNullary_scalar {i : Instr} {p : Opnd × (Word → Word → Int)} (h : intNullary i = some p) : i.vector = false := by
  unfold intNullary at h
  split at h <;> cases h <;> exact scalar_encoded rfl (by simp [vectorOp])

theorem fopBits_fbits2 {i : Instr} {d a b : Opnd} {r : Fmt} {f : Nat → Nat → Nat × Flags}
    (h : fopBits i = some (d, a, b, r, f)) (s : State) : ∃ g, exec i s = fbits2 i r d a b s g := by
  unfold fopBits at h
  split at h <;> cases h <;> unfold exec <;> exact ⟨_, rfl⟩

theorem fopBits_scalar {i : Instr} {p : Opnd × Opnd × Opnd × Fmt × (Nat → Nat → Nat × Flags)} (h : fopBits i = some p) :
    i.vector = false := by
  unfold fopBits at h
  split at h <;> cases h <;> exact scalar_encoded rfl (by simp [vectorOp])

theorem fopTwo_scalar {i : Instr} {p : FopForm} (h : fopTwo i = some p) : i.vector = false := by
  unfold fopTwo at h
  split at h <;> cases h <;> exact scalar_encoded rfl (by simp [vectorOp])

theorem fopOne_scalar {i : Instr} {p : Opnd × Opnd × RSel × Fmt × (Val → Exact)} (h : fopOne i = some p) :
    i.vector = false := by
  unfold fopOne at h
  split at h <;> cases h <;> exact scalar_encoded rfl (by simp [vectorOp])

theorem loadForm_scalar {i : Instr} {f : LoadForm} (h : loadForm i = some f) : i.vector = false := by
  unfold loadForm at h
  split at h <;> cases h <;> exact scalar_encoded rfl (by simp [vectorOp])

theorem storeForm_scalar {i : Instr} {f : StoreForm} (h : storeForm i = some f) : i.vector = false := by
  unfold storeForm at h
  split at h <;> cases h <;> exact scalar_encoded rfl (by simp [vectorOp])

/-- On a gondola core a GMATH instruction has its own meaning (R77). -/
theorem gmath_runs {i : Instr} {s : State} {o : Out} (h : isG s.cur = true) : gmath i s o = o := by simp [gmath, h]

theorem fma_fop2 (i : Instr) (f : Fmt) (op : Nat) (d a b : Opnd) (r : RSel) (s : State) :
    ∃ g, fma i f op d a b r s = fop2 i f d a b r s g := by
  unfold fma
  exact ⟨_, rfl⟩

theorem fopTwo_fop2 {i : Instr} {p : FopForm} {s : State} (h : fopTwo i = some p) (hr : runsHere s i) :
    ∃ g, exec i s = fop2 i p.f p.d p.a p.b p.r s g := by
  unfold fopTwo at h
  split at h <;> cases h <;> unfold exec
  case h_8 | h_16 => exact ⟨_, gmath_runs (hr rfl)⟩
  case h_4 | h_5 | h_6 | h_7 | h_12 | h_13 | h_14 | h_15 => exact fma_fop2 ..
  all_goals exact ⟨_, rfl⟩

theorem fopOne_fop1 {i : Instr} {d a : Opnd} {r : RSel} {f : Fmt} {g : Val → Exact} {s : State}
    (h : fopOne i = some (d, a, r, f, g)) (hr : runsHere s i) : ∃ g, exec i s = fop1 i f d a r s g := by
  unfold fopOne at h
  split at h <;> cases h <;> unfold exec
  case h_3 | h_6 => exact ⟨_, gmath_runs (hr rfl)⟩
  all_goals exact ⟨_, rfl⟩

/-! ### Waits at the queues (R41) -/

theorem alu1_waits {i : Instr} {s : State} {d a : Opnd} {f : Word → Word} (h : issues s i)
    (hv : s.me.r.val a = none ∨ s.me.room d = false) : alu1 i d a s f = .next (s.blocked i .queue) :=
  issue_wait h (by
    obtain hv | hd := hv
    · simp [hv]
    · cases hx : s.me.r.val a <;> simp [hd])

theorem alu0_waits {i : Instr} {s : State} {d : Opnd} {f : State → Word} (h : issues s i) (hd : s.me.room d = false) :
    alu0 i d s f = .next (s.blocked i .queue) :=
  issue_wait h (by simp [hd])

theorem fop2_waits {i : Instr} {s : State} {f : Fmt} {d a b : Opnd} {r : RSel} {g : Val → Val → Mode → Exact} (h : issues s i)
    (hv : s.me.r.val2 a b = none ∨ s.me.room d = false) : fop2 i f d a b r s g = .next (s.blocked i .queue) :=
  issue_wait h (by
    obtain hv | hd := hv
    · simp [hv]
    · cases hx : s.me.r.val2 a b <;> simp [hd])

theorem fbits2_waits {i : Instr} {s : State} {f : Fmt} {d a b : Opnd} {g : Nat → Nat → Nat × Flags} (h : issues s i)
    (hv : s.me.r.val2 a b = none ∨ s.me.room d = false) : fbits2 i f d a b s g = .next (s.blocked i .queue) :=
  issue_wait h (by
    obtain hv | hd := hv
    · simp [hv]
    · cases hx : s.me.r.val2 a b <;> simp [hd])

theorem fop1_waits {i : Instr} {s : State} {f : Fmt} {d a : Opnd} {r : RSel} {g : Val → Exact} (h : issues s i)
    (hv : s.me.r.val a = none ∨ s.me.room d = false) : fop1 i f d a r s g = .next (s.blocked i .queue) :=
  issue_wait h (by
    obtain hv | hd := hv
    · simp [hv]
    · cases hx : s.me.r.val a <;> simp [hd])

theorem execFcvt_waits {s : State} {d a : Opnd} {r : RSel} {p q : Cvt} (h : issues s (.fcvt d a r p q))
    (hv : s.me.r.val a = none ∨ s.me.room d = false) :
    execFcvt d a r p q s = .next (s.blocked (.fcvt d a r p q) .queue) :=
  issue_wait h (by
    obtain hv | hd := hv
    · simp [hv]
    · cases hx : s.me.r.val a <;> simp [hd])

theorem loadTo_waits {s : State} {d : Opnd} {pops : State → State} {ea : Word} {n : Nat} {f : Nat → Word}
    (hd : s.me.room d = false) : s.loadTo d pops ea n f = .wait .queue s := by
  simp [State.loadTo, hd]

theorem loadX_waits {i : Instr} {s : State} {d a b : Opnd} {z k : BitVec 2} {signed : Bool} (hi : issues s i)
    (hv : ¬ sourcesReady [a, b] s ∨ s.me.room d = false) : loadX i d a b z k signed s = .next (s.blocked i .queue) :=
  issue_wait hi (by
    cases hx : s.me.r.val2 a b with
    | none => rfl
    | some p => exact loadTo_waits (hv.resolve_left fun hn => hn (by simp [sourcesReady, hx])))

theorem loadS_waits {i : Instr} {s : State} {d b : Opnd} {o : BitVec 12} {n : Nat} {signed : Bool} (hi : issues s i)
    (hd : s.me.room d = false) : loadS i d b o n signed s = .next (s.blocked i .queue) :=
  issue_wait hi (loadTo_waits hd)

theorem loadForm_waits {i : Instr} {s : State} {f : LoadForm} (h : loadForm i = some f) (hi : issues s i)
    (hv : ¬ sourcesReady f.pops s ∨ s.me.room f.d = false) : exec i s = .next (s.blocked i .queue) := by
  unfold loadForm at h
  split at h <;> cases h <;> unfold exec
  case h_8 | h_9 => exact loadX_waits hi hv
  case h_10 | h_11 => exact issue_wait hi (loadTo_waits (hv.resolve_left fun hn => hn trivial))
  all_goals exact loadS_waits hi (hv.resolve_left fun hn => hn trivial)

theorem storeS_waits {i : Instr} {s : State} {d b : Opnd} {o : BitVec 12} {n : Nat} (hi : issues s i)
    (hv : s.me.r.val d = none) : storeS i d b o n s = .next (s.blocked i .queue) :=
  issue_wait hi (by simp [hv])

theorem execStx_waits {s : State} {d a b : Opnd} {z k : BitVec 2} (hi : issues s (.stx d a b z k))
    (hv : ¬ sourcesReady [a, b, d] s ∨ ((s.me.r.popped a).popped b).val d = none) :
    execStx d a b z k s = .next (s.blocked (.stx d a b z k) .queue) :=
  issue_wait hi (by
    cases hx : s.me.r.val2 a b with
    | none => rfl
    | some p => simp [hv.resolve_left fun hn => hn (by simp [sourcesReady, hx])])

theorem storeForm_waits {i : Instr} {s : State} {f : StoreForm} (h : storeForm i = some f) (hi : issues s i)
    (hv : ¬ sourcesReady f.pops s ∨ f.value s = none) : exec i s = .next (s.blocked i .queue) := by
  unfold storeForm at h
  split at h <;> cases h <;> unfold exec
  case h_1 | h_2 | h_3 | h_4 => exact storeS_waits hi (hv.resolve_left fun hn => hn trivial)
  case h_5 => exact execStx_waits hi hv
  case h_6 | h_7 => cases hv.resolve_left fun hn => hn trivial

theorem retireQuiet_me (s : State) (k : Bool) (jump : Option Word) (n : Nat) :
    ∃ pc rep, (s.retireQuiet k jump n).me = { (s.retired k).me with pc := pc, rep := rep } :=
  ⟨_, _, rfl⟩

/-- An instruction that is left to the vector stream retires with its registers as they stand, and is the youngest of that
stream (R41). -/
theorem leave_me (s : State) (i : Instr) (w : Wait) :
    (s.leave i w).me.st = .ready ∧ (s.leave i w).me.c.ret = s.me.c.ret + 1 ∧ (s.leave i w).me.r = s.me.r ∧
      ∃ v l, (s.leave i w).me.vs = (s.me.vs ++ [v]).map (fun (x : Behind) => { x with age := x.age + 1 }) ∧
        v.later = some l ∧ l.ins = i := by
  unfold State.leave
  dsimp only
  obtain ⟨pc, rep, hme⟩ := retireQuiet_me _ false none (ilen i)
  rw [hme, retired_me]
  exact ⟨rfl, rfl, rfl, _, _, rfl, rfl, rfl⟩

/-- A vector-stream instruction that takes no trace leaves the scalar stream to go on. -/
theorem blocked_vector {s : State} {i : Instr} {w : Wait} (hq : quiet s) (hv : i.vector = true) (hc : i.isControl = false) :
    s.blocked i w = s.leave i w := by
  unfold quiet at hq
  simp [State.blocked, Ctx.leaves, hv, hc, hq]

theorem execVbcast_waits {s : State} {d : VReg} {a : Opnd} {z : Sz} (hi : issues s (.vbcast d a z)) (hv : s.me.r.val a = none) :
    execVbcast d a z s = .next (s.blocked (.vbcast d a z) .queue) :=
  issue_wait hi (by simp [hv])

theorem execVins_waits {s : State} {d : VReg} {a b : Opnd} {z : Sz} (hi : issues s (.vins d a b z))
    (hv : s.me.r.val2 a b = none) : execVins d a b z s = .next (s.blocked (.vins d a b z) .queue) :=
  issue_wait hi (by simp [hv])

theorem execVextr_waits {s : State} {d : VReg} {q b : Opnd} {z : Sz} (hi : issues s (.vextr d q b z))
    (hv : s.me.r.val b = none) : execVextr d q b z s = .next (s.blocked (.vextr d q b z) .queue) :=
  issue_wait hi (by simp [hv])

/-- Settles O16: the meaning of each form asks its sources and its destination first, and what then waits is the stream that the
instruction is of. -/
theorem queuesMakeTheInstructionWait : Obligations.QueuesMakeTheInstructionWait := by
  refine ⟨?two, ?one, ?nullary, ?load, ?store, ?vector⟩
  case two =>
    rintro i s d a b hi hr (⟨f, h⟩ | ⟨f, r, h⟩ | ⟨p, h, rfl, rfl, rfl⟩) hv
    · obtain ⟨g, hg⟩ := intBinary_alu2 h s
      rw [hg, alu2_waits hi hv, blocked_scalar (intBinary_scalar h)]
    · obtain ⟨g, hg⟩ := fopBits_fbits2 h s
      rw [hg, fbits2_waits hi hv, blocked_scalar (fopBits_scalar h)]
    · obtain ⟨g, hg⟩ := fopTwo_fop2 h hr
      rw [hg, fop2_waits hi hv, blocked_scalar (fopTwo_scalar h)]
  case one =>
    rintro i s d a hi hr (⟨f, h⟩ | ⟨r, f, g, h⟩ | rfl | rfl | ⟨r, p, q, rfl⟩) hv
    · obtain ⟨g, hg⟩ := intUnary_alu1 h s
      rw [hg, alu1_waits hi hv, blocked_scalar (intUnary_scalar h)]
    · obtain ⟨g, hg⟩ := fopOne_fop1 h hr
      rw [hg, fop1_waits hi hv, blocked_scalar (fopOne_scalar h)]
    · rw [← blocked_scalar (scalar_encoded (i := .fclassD d a) rfl (by simp [vectorOp]))]
      exact alu1_waits hi hv
    · rw [← blocked_scalar (scalar_encoded (i := .fclassS d a) rfl (by simp [vectorOp]))]
      exact alu1_waits hi hv
    · rw [← blocked_scalar (scalar_encoded (i := .fcvt d a r p q) rfl (by simp [vectorOp]))]
      exact execFcvt_waits hi hv
  case nullary =>
    intro i s d f h hi hd
    obtain ⟨g, hg⟩ := intNullary_alu0 h s
    rw [hg, alu0_waits hi hd, blocked_scalar (intNullary_scalar h)]
  case load =>
    intro i s f h hi hv
    rw [loadForm_waits h hi hv, blocked_scalar (loadForm_scalar h)]
  case store =>
    intro i s f h hi hv
    rw [storeForm_waits h hi hv, blocked_scalar (storeForm_scalar h)]
  case vector =>
    rintro i s d a b z hi hq (⟨rfl, hv⟩ | ⟨rfl, hv⟩ | ⟨rfl, hv⟩)
    · obtain ⟨hvec, hctl⟩ := vector_packVX (i := .vbcast d a z) rfl (by decide)
      exact ⟨_, (execVbcast_waits hi hv).trans (by rw [blocked_vector hq hvec hctl]), leave_me ..⟩
    · obtain ⟨hvec, hctl⟩ := vector_packVX (i := .vins d a b z) rfl (by decide)
      exact ⟨_, (execVins_waits hi hv).trans (by rw [blocked_vector hq hvec hctl]), leave_me ..⟩
    · obtain ⟨hvec, hctl⟩ := vector_packVX (i := .vextr d a b z) rfl (by decide)
      exact ⟨_, (execVextr_waits hi hv).trans (by rw [blocked_vector hq hvec hctl]), leave_me ..⟩

end Sys2Proof.Machine
end
end

section
/-!
PROOFS. What an instruction that writes registers leaves: of the rest of the package, of the issuing context, of its registers,
and of the bytes that memory reads as.
-/
noncomputable section
namespace Sys2Proof.Safety
open Sys2Proof.Machine

/-! ### Launches at retirement (R402, R477) -/

theorem find?_put_other {α : Type} (l : List (Nat × α)) (k i : Nat) (x : α) (h : i ≠ k) : find? (put l k x) i = find? l i := by
  induction l with
  | nil => simp [put, find?, Ne.symm h]
  | cons p r ih =>
    obtain ⟨j, y⟩ := p
    unfold put
    split
    · rename_i hj
      obtain rfl : j = k := by simpa using hj
      simp [find?, Ne.symm h]
    · split
      · simp [find?, Ne.symm h]
      · simp only [find?, ih]

/-- A launch changes in its count of retired instructions and its woke bits. -/
theorem onLaunch_counts (s : State) (n : Nat) {f : Launch → Launch}
    (hf : ∀ l, ∃ count woke, f l = { l with counter := count, woke := woke }) : launchesStand s (s.onLaunch n f) := by
  intro m
  unfold State.onLaunch
  cases hl : s.launch? n with
  | none => exact launchesStand.of_eq rfl m
  | some l =>
    by_cases hm : m = n
    · subst m
      obtain ⟨count, woke, h⟩ := hf l
      exact ⟨count, woke, by simp [State.launch?, find?_put_same, ← h, show find? s.launches n = some l from hl]⟩
    · obtain ⟨count, woke, h⟩ := launchesStand.of_eq (s := s) (t := s) rfl m
      exact ⟨count, woke, by rw [← h]; exact find?_put_other _ _ _ _ hm⟩

theorem noteWoke_launches (s : State) (n f : Nat) : launchesStand s (s.noteWoke n f) :=
  onLaunch_counts s n fun l => by
    split
    · exact ⟨l.counter, l.woke, rfl⟩
    · exact ⟨l.counter, _, rfl⟩

theorem countRetired_launches (s : State) : launchesStand s s.countRetired := by
  unfold State.countRetired
  split
  · exact .of_eq rfl
  · exact onLaunch_counts s _ fun l => by
      split
      · exact ⟨_, l.woke, rfl⟩
      · exact ⟨l.counter, l.woke, rfl⟩

theorem retired_launches (s : State) (k : Bool) : launchesStand s (s.retired k) := by
  unfold State.retired
  dsimp only
  split
  · exact (noteWoke_launches _ _ _).trans (countRetired_launches _)
  · exact countRetired_launches s

/-! ### Retirement as a frame (R58, R62) -/

theorem retireQuiet_others (s : State) (k : Bool) (jump : Option Word) (n : Nat) : othersStand s (s.retireQuiet k jump n) := by
  refine ⟨?_, retired_launches s k⟩
  unfold State.retireQuiet
  dsimp only
  rw [retired_stands]

/-- An instruction of a task that takes no trace retires and does no more. -/
theorem retire_untraced {s : State} (hq : quiet s) (k : Bool) (jump : Option Word) (n : Nat) :
    s.retire k jump n = s.retireQuiet k jump n := by
  obtain ⟨pc, rep, hme⟩ := retireQuiet_me s k jump n
  exact traced_quiet (by
    rw [quiet, hme]
    exact (retired_tr s k).trans hq)

theorem retire_others {s : State} (hq : quiet s) (k : Bool) (jump : Option Word) (n : Nat) : othersStand s (s.retire k jump n) := by
  rw [retire_untraced hq]
  exact retireQuiet_others ..

theorem retire_me {s : State} (hq : quiet s) (k : Bool) (jump : Option Word) (n : Nat) :
    ∃ pc rep, (s.retire k jump n).me = { (s.retired k).me with pc := pc, rep := rep } := by
  rw [retire_untraced hq]
  exact retireQuiet_me ..

theorem othersStand.loadStands {s t : State} (h : othersStand s t) : loadStands s t := by
  obtain ⟨hs, hl⟩ := h
  exact ⟨hs.trans (by rw [hs]), hl, .of_eq (congrArg State.cores hs :) (congrArg State.gcores hs :) (congrArg State.flights hs :)⟩

/-! ### Writes of registers -/

/-- Nothing changes but the registers of the issuing context and its vector stream. -/
def regsChange (s t : State) : Prop := t = { s with me := { s.me with r := t.me.r, vs := t.me.vs } }

theorem regsChange.refl (s : State) : regsChange s s := rfl

theorem regsChange.trans {s t u : State} (h : regsChange s t) (h' : regsChange t u) : regsChange s u :=
  Eq.trans h' (congrArg (fun x : State => { x with me := { x.me with r := u.me.r, vs := u.me.vs } }) h)

theorem pop_change (s : State) (a : Opnd) : regsChange s (s.pop a) := rfl
theorem pop2_change (s : State) (a b : Opnd) : regsChange s (s.pop2 a b) := rfl
theorem result_change (s : State) (d : Opnd) (x : Word) : regsChange s (s.result d x) := rfl

theorem popAll_change (l : List Opnd) (s : State) : regsChange s (popAll l s) :=
  match l with
  | [] => .refl s
  | [a] => pop_change s a
  | [a, b] => pop2_change s a b
  | a :: b :: c :: _ => (pop2_change s a b).trans (pop_change _ c)

section Retiring
variable {s u : State} (h : regsChange s u) (hq : quiet s) (k : Bool) (jump : Option Word) (n : Nat)
include h hq

theorem regsChange.quiet_after : quiet u := by
  rw [quiet, h]
  exact hq

/-- Retirement after a write of registers leaves all else. -/
theorem regsChange.retire_others : othersStand s (u.retire k jump n) := by
  obtain ⟨hs, hl⟩ := Sys2Proof.Safety.retire_others (h.quiet_after hq) k jump n
  exact ⟨hs.trans (congrArg (fun x : State => { x with me := (u.retire k jump n).me, launches := (u.retire k jump n).launches }) h),
    (launchesStand.of_eq (congrArg State.launches h :)).trans hl⟩

theorem regsChange.retire_control : controlStands s (u.retire false jump n) := by
  obtain ⟨pc, rep, hme⟩ := retire_me (h.quiet_after hq) false jump n
  rw [controlStands, hme, retired_me, h]
  rfl

theorem regsChange.retire_task : taskStands s (u.retire k jump n) := by
  obtain ⟨pc, rep, hme⟩ := retire_me (h.quiet_after hq) k jump n
  rw [taskStands, hme, retired_me, h]

theorem regsChange.retire_r : (u.retire k jump n).me.r = u.me.r := by
  obtain ⟨pc, rep, hme⟩ := retire_me (h.quiet_after hq) k jump n
  rw [hme, retired_me]

theorem regsChange.retire_st : (u.retire k jump n).me.st = .ready := by
  obtain ⟨pc, rep, hme⟩ := retire_me (h.quiet_after hq) k jump n
  rw [hme, retired_me]

end Retiring
end Sys2Proof.Safety

namespace Sys2Proof.Machine
open Sys2Proof.Safety

/-! ### Registers: what a pop, an entry of a queue and a write leave (R39, R41, R66) -/

@[simp] theorem Regs.setQ_w (r : Regs) (n : BitVec 2) (l : List Word) : (r.setQ n l).w = r.w := by unfold Regs.setQ; split <;> rfl
@[simp] theorem Regs.setQ_v (r : Regs) (n : BitVec 2) (l : List Word) : (r.setQ n l).v = r.v := by unfold Regs.setQ; split <;> rfl
@[simp] theorem Regs.setQ_m (r : Regs) (n : BitVec 2) (l : List Word) : (r.setQ n l).m = r.m := by unfold Regs.setQ; split <;> rfl
@[simp] theorem Regs.setQ_l (r : Regs) (n : BitVec 2) (l : List Word) : (r.setQ n l).l = r.l := by unfold Regs.setQ; split <;> rfl
@[simp] theorem Regs.setQ_o (r : Regs) (n : BitVec 2) (l : List Word) : (r.setQ n l).o = r.o := by unfold Regs.setQ; split <;> rfl
@[simp] theorem Regs.setQ_sc (r : Regs) (n : BitVec 2) (l : List Word) : (r.setQ n l).sc = r.sc := by
  unfold Regs.setQ; split <;> rfl
@[simp] theorem Regs.setQ_cb (r : Regs) (n : BitVec 2) (l : List Word) : (r.setQ n l).cb = r.cb := by
  unfold Regs.setQ; split <;> rfl

theorem Regs.getW_congr {r r' : Regs} (h : r'.w = r.w) (n : WReg) : r'.getW n = r.getW n := by unfold Regs.getW; rw [h]
theorem Regs.getO_congr {r r' : Regs} (h : r'.o = r.o) (n : BitVec 3) : r'.getO n = r.getO n := by unfold Regs.getO; rw [h]

theorem queue_cases (n : BitVec 2) : n = 0 ∨ n = 1 ∨ n = 2 ∨ n = 3 := by
  revert n; decide

theorem Regs.getQ_setQ_other (r : Regs) {n k : BitVec 2} (l : List Word) (h : n ≠ k) : (r.setQ k l).getQ n = r.getQ n := by
  rcases queue_cases k with rfl | rfl | rfl | rfl <;> rcases queue_cases n with rfl | rfl | rfl | rfl <;>
    simp_all [Regs.setQ, Regs.getQ]

theorem Regs.getO_setO_other (r : Regs) {n k : BitVec 3} (x : Word) (h : n ≠ k) : (r.setO k x).getO n = r.getO n := by
  have hn : k.toNat ≠ n.toNat := fun e => h (BitVec.eq_of_toNat_eq e.symm)
  simp [Regs.getO, Regs.setO, hn]

theorem Regs.getQ_setW (r : Regs) (n : WReg) (x : Word) (k : BitVec 2) : (r.setW n x).getQ k = r.getQ k := by
  simp [Regs.getQ]

/-- What no push into q2 or q3 changes stands as entries come to them. -/
theorem Regs.fed_keeps {α : Type} (f : Regs → α) (h : ∀ r q3 x, f (Regs.setQ r (scalarQ q3) x) = f r) (l : List (Bool × Word))
    (r : Regs) : f (r.fed l) = f r := by
  induction l generalizing r with
  | nil => rfl
  | cons p l ih => exact (ih _).trans (h ..)

@[simp] theorem Regs.fed_l (r : Regs) (l : List (Bool × Word)) : (r.fed l).l = r.l := fed_keeps (·.l) (fun _ _ _ => setQ_l ..) l r

@[simp] theorem Regs.popped_l (r : Regs) (a : Opnd) : (r.popped a).l = r.l := by
  cases a <;> simp [Regs.popped]

@[simp] theorem Regs.write_l (r : Regs) (d : Opnd) (x : Word) : (r.write d x).l = r.l := by
  cases d <;> simp [Regs.write]

/-- A change of the registers and what comes of the vector stream to q2 and q3, which is nothing where that is complete. -/
theorem flow_fed (s : State) (r : Regs) (vs : List Behind) : ∃ l, (s.flow r vs).me.r = r.fed l ∧ (vs = [] → l = []) := by
  cases vs with
  | nil => exact ⟨[], by rw [State.flow_nil]; rfl, fun _ => rfl⟩
  | cons v vs =>
    unfold State.flow State.settled
    split
    · exact ⟨[], rfl, nofun⟩
    · exact ⟨_, rfl, nofun⟩

end Sys2Proof.Machine

namespace Sys2Proof.Safety
open Sys2Proof.Machine

/-! ### Registers that stand -/

/-- The clauses of `registersStand` of two register files; `still` where no push waits in the vector stream. -/
structure RegsKept (still : Prop) (r r' : Regs) (d : Opnd) (l : List Opnd) : Prop where
  w : ∀ n : WReg, d ≠ .w n → r'.getW n = r.getW n
  o : ∀ n : BitVec 3, d ≠ .o n → r'.getO n = r.getO n
  q : ∀ n : BitVec 2, d ≠ .q n → .q n ∉ l → still ∨ n.toNat < 2 → r'.getQ n = r.getQ n
  v : r'.v = r.v
  m : r'.m = r.m
  sc : r'.sc = r.sc
  cb : r'.cb = r.cb

theorem RegsKept.stand {s t : State} {d : Opnd} {l : List Opnd} (h : RegsKept (s.me.vs = []) s.me.r t.me.r d l) :
    registersStand s t d l := ⟨h.w, h.o, h.q, h.v, h.m, h.sc, h.cb⟩

theorem RegsKept.trans {p : Prop} {r r' r'' : Regs} {d : Opnd} {l m : List Opnd} (h : RegsKept p r r' (.imm 0) l)
    (h' : RegsKept p r' r'' d m) : RegsKept p r r'' d (l ++ m) where
  w n hd := (h'.w n hd).trans (h.w n nofun)
  o n hd := (h'.o n hd).trans (h.o n nofun)
  q n hd hl hp := (h'.q n hd (fun hm => hl (List.mem_append_right _ hm)) hp).trans
    (h.q n nofun (fun hm => hl (List.mem_append_left _ hm)) hp)
  v := h'.v.trans h.v
  m := h'.m.trans h.m
  sc := h'.sc.trans h.sc
  cb := h'.cb.trans h.cb

theorem RegsKept.refl (p : Prop) (r : Regs) (d : Opnd) (l : List Opnd) : RegsKept p r r d l where
  w _ _ := rfl
  o _ _ := rfl
  q _ _ _ _ := rfl
  v := rfl
  m := rfl
  sc := rfl
  cb := rfl

theorem RegsKept.setW (p : Prop) (r : Regs) (n : WReg) (x : Word) : RegsKept p r (r.setW n x) (.w n) [] where
  w k hd := by
    rw [Regs.getW_setW, if_neg]
    rintro ⟨rfl, -⟩
    exact hd rfl
  o _ _ := Regs.getO_congr (Regs.setW_o ..) _
  q _ _ _ _ := Regs.getQ_setW ..
  v := Regs.setW_v ..
  m := Regs.setW_m ..
  sc := Regs.setW_sc ..
  cb := Regs.setW_cb ..

theorem RegsKept.setO (p : Prop) (r : Regs) (n : BitVec 3) (x : Word) : RegsKept p r (r.setO n x) (.o n) [] where
  w _ _ := rfl
  o k hd := Regs.getO_setO_other r x fun e => hd (by rw [e])
  q _ _ _ _ := rfl
  v := rfl
  m := rfl
  sc := rfl
  cb := rfl

theorem RegsKept.setQ (p : Prop) (r : Regs) (n : BitVec 2) (x : List Word) : RegsKept p r (r.setQ n x) (.q n) [] where
  w _ _ := Regs.getW_congr (Regs.setQ_w ..) _
  o _ _ := Regs.getO_congr (Regs.setQ_o ..) _
  q k hd _ _ := Regs.getQ_setQ_other r x fun e => hd (by rw [e])
  v := Regs.setQ_v ..
  m := Regs.setQ_m ..
  sc := Regs.setQ_sc ..
  cb := Regs.setQ_cb ..

/-- A write of a register, and the push of the result (R39). -/
theorem RegsKept.write (p : Prop) (r : Regs) (d : Opnd) (x : Word) : RegsKept p r (r.write d x) d [] := by
  cases d with
  | w n => exact .setW p r n x
  | o n => exact .setO p r n x
  | q n => exact .setQ p r n _
  | l | imm => exact .refl ..

theorem RegsKept.pushL {p : Prop} {r r' : Regs} {d : Opnd} {l : List Opnd} (h : RegsKept p r r' d l) (x : Word) :
    RegsKept p r (r'.pushL x) d l := ⟨h.w, h.o, h.q, h.v, h.m, h.sc, h.cb⟩

/-- A queue that is popped is one of the sources. -/
theorem RegsKept.source {p : Prop} {r r' : Regs} {n : BitVec 2} (h : RegsKept p r r' (.q n) []) :
    RegsKept p r r' (.imm 0) [.q n] where
  w k _ := h.w k nofun
  o k _ := h.o k nofun
  q k _ hl := h.q k (fun e => hl (by rw [e]; exact List.mem_singleton_self _)) List.not_mem_nil
  v := h.v
  m := h.m
  sc := h.sc
  cb := h.cb

theorem RegsKept.popped (p : Prop) (r : Regs) (a : Opnd) : RegsKept p r (r.popped a) (.imm 0) [a] := by
  cases a with
  | q n => exact (RegsKept.setQ p r n _).source
  | w | o | l | imm => exact .refl ..

/-- Entries that come to q2 and q3 leave all else. -/
theorem RegsKept.fed {p : Prop} {x : List (Bool × Word)} (h : p → x = []) (r : Regs) : RegsKept p r (r.fed x) (.imm 0) [] where
  w n _ := Regs.fed_keeps (·.getW n) (fun _ _ _ => Regs.getW_congr (Regs.setQ_w ..) _) x r
  o n _ := Regs.fed_keeps (·.getO n) (fun _ _ _ => Regs.getO_congr (Regs.setQ_o ..) _) x r
  q n _ _ hp := by
    obtain hp | hn := hp
    · rw [h hp]; rfl
    · exact Regs.fed_keeps (·.getQ n) (fun r q3 x => Regs.getQ_setQ_other r x (by
        rintro rfl
        cases q3 <;> revert hn <;> decide)) x r
  v := Regs.fed_keeps (·.v) (fun _ _ _ => Regs.setQ_v ..) x r
  m := Regs.fed_keeps (·.m) (fun _ _ _ => Regs.setQ_m ..) x r
  sc := Regs.fed_keeps (·.sc) (fun _ _ _ => Regs.setQ_sc ..) x r
  cb := Regs.fed_keeps (·.cb) (fun _ _ _ => Regs.setQ_cb ..) x r

theorem RegsKept.flow {p : Prop} {r r' : Regs} {l : List Opnd} {vs : List Behind} (h : RegsKept p r r' (.imm 0) l)
    (hvs : p → vs = []) (s : State) : RegsKept p r (s.flow r' vs).me.r (.imm 0) l := by
  obtain ⟨x, hx, hnil⟩ := flow_fed s r' vs
  rw [hx]
  simpa using h.trans (.fed (fun hp => hnil (hvs hp)) r')

theorem RegsKept.pop {p : Prop} {s : State} (h : p → s.me.vs = []) (a : Opnd) :
    RegsKept p s.me.r (s.pop a).me.r (.imm 0) [a] :=
  (RegsKept.popped p s.me.r a).flow h s

theorem RegsKept.pop2 {p : Prop} {s : State} (h : p → s.me.vs = []) (a b : Opnd) :
    RegsKept p s.me.r (s.pop2 a b).me.r (.imm 0) [a, b] :=
  ((RegsKept.popped p s.me.r a).trans (.popped p _ b)).flow h s

theorem flow_l (s : State) (r : Regs) (vs : List Behind) : (s.flow r vs).me.r.l = r.l := by
  obtain ⟨x, hx, -⟩ := flow_fed s r vs
  rw [hx, Regs.fed_l]

theorem flow_still (s : State) (r : Regs) {vs : List Behind} (h : vs = []) : (s.flow r vs).me.vs = [] := by
  rw [h, State.flow_nil]

theorem pop_l (s : State) (a : Opnd) : (s.pop a).me.r.l = s.me.r.l := (flow_l ..).trans (Regs.popped_l ..)

theorem pop2_l (s : State) (a b : Opnd) : (s.pop2 a b).me.r.l = s.me.r.l :=
  (flow_l ..).trans ((Regs.popped_l ..).trans (Regs.popped_l ..))

theorem RegsKept.mono {p : Prop} {r r' : Regs} {d : Opnd} {l m : List Opnd} (h : RegsKept p r r' d l) (hlm : l ⊆ m) :
    RegsKept p r r' d m := ⟨h.w, h.o, fun n hd hl => h.q n hd fun hm => hl (hlm hm), h.v, h.m, h.sc, h.cb⟩

/-- The sources of a form have been read: the queues among them are popped, and no more. -/
theorem RegsKept.popAll (l : List Opnd) (s : State) : RegsKept (s.me.vs = []) s.me.r (popAll l s).me.r (.imm 0) l := by
  match l with
  | [] => exact .refl ..
  | [a] => exact .pop id a
  | [a, b] => exact .pop2 id a b
  | a :: b :: c :: l => exact ((RegsKept.pop2 id a b).trans (.pop (flow_still s _) c)).mono (by simp)

theorem popAll_l (l : List Opnd) (s : State) : (popAll l s).me.r.l = s.me.r.l := by
  match l with
  | [] => rfl
  | [a] => exact pop_l s a
  | [a, b] => exact pop2_l s a b
  | a :: b :: c :: l => exact (pop_l _ c).trans (pop2_l s a b)

/-- The result of a form whose sources have been read. -/
theorem RegsKept.result {p : Prop} {r : Regs} {s : State} {l : List Opnd} (h : RegsKept p r s.me.r (.imm 0) l) (d : Opnd)
    (x : Word) : RegsKept p r (s.result d x).me.r d l := by
  rw [State.result_me_r]
  simpa using h.trans ((RegsKept.write p s.me.r d x).pushL x)

theorem result_pushed {s t : State} (h : t.me.r.l = s.me.r.l) (d : Opnd) (x : Word) : pushed s (t.result d x) x := by
  simp [pushed, Regs.pushL, h]

theorem result_getW (s : State) {d : Opnd} (x : Word) {n : WReg} (hn : n ≠ 0) (hd : d = .w n) : (s.result d x).me.r.getW n = x := by
  subst d
  exact (Regs.getW_setW s.me.r n n x).trans (if_pos ⟨rfl, hn⟩)

/-! ### Bytes that read as before (R34) -/

theorem wsKey_congr {c c' : Ctx} (ht : c'.t = c.t) (hwp : c'.c.wp = c.c.wp) (k : Nat) : wsKey k c' = wsKey k c := by
  unfold wsKey bornThere homeOf
  rw [ht, hwp]

theorem wsBase_congr {c c' : Ctx} (hlive : c'.live = c.live) (ht : c'.t = c.t) (hwp : c'.c.wp = c.c.wp) (core k : Nat) :
    wsBase core k c' = wsBase core k c := by
  unfold wsBase
  rw [hlive, wsKey_congr ht hwp]

/-- A workspace in which no register stands at an offset gives none of its bytes. -/
theorem regByte_other {core off k : Nat} {c : Ctx} (l : List (Nat × Ctx))
    (h : ∀ b, wsBase core k c = some b → ¬ (b ≤ off ∧ off < b + 0x540)) : regByte core off ((k, c) :: l) = regByte core off l := by
  rw [regByte]
  cases hb : wsBase core k c with
  | none => rfl
  | some b =>
    have hout := h b hb
    simp only [Bool.and_eq_true, decide_eq_true_eq]
    rw [if_neg hout]

/-- What a load leaves of memory: each byte outside the task's own registers reads as before. -/
theorem loadStands.peek {s t : State} (h : loadStands s t) (hlive : t.me.live = s.me.live) (ht : t.me.t = s.me.t)
    (hwp : t.me.c.wp = s.me.c.wp) {k : Nat} (hk : notOwn s k) : t.peek k = s.peek k := by
  obtain ⟨hs, -, hcores, -, -⟩ := h
  have hcur : t.cur = s.cur := (congrArg State.cur hs :)
  have hctxs : t.ctxs = s.ctxs := (congrArg State.ctxs hs :)
  have hmem : t.mem = s.mem := (congrArg State.mem hs :)
  have himages : t.images = s.images := (congrArg State.images hs :)
  have hhost : t.host = s.host := (congrArg State.host hs :)
  have hpage : t.potPage k = s.potPage k := (congrArg (State.potPage · k) hs :)
  have hpot (p : Nat) : t.potEntry p = s.potEntry p := (congrArg (State.potEntry · p) hs :)
  have hover (c off : Nat) : (t.core c).overflowByte off = (s.core c).overflowByte off := (congrArg (Core.overflowByte · off) (hcores c) :)
  have hregs (hspad : isSpad k = true) :
      regByte (spadCore k) (spadOff k) t.allCtxs = regByte (spadCore k) (spadOff k) s.allCtxs := by
    have hown (b : Nat) (hb : wsBase (spadCore k) s.cur s.me = some b) : ¬ (b ≤ spadOff k ∧ spadOff k < b + 0x540) :=
      fun hin => hk b hb ⟨hspad, hin⟩
    unfold State.allCtxs
    rw [hcur, hctxs, regByte_other s.ctxs hown, regByte_other s.ctxs (by rw [wsBase_congr hlive ht hwp]; exact hown)]
  unfold State.peek
  by_cases hspad : isSpad k = true
  · rw [if_pos hspad, if_pos hspad, hregs hspad, hover, hmem]
  · rw [if_neg hspad, if_neg hspad, hhost, hpage, himages, hmem]
    cases s.potPage k with
    | none => rfl
    | some page => simp only [hpot]

/-! ### A result after sources have been read -/

section Result
variable {s u : State} (hload : loadStands s u) (hme : u.me = s.me) (hq : quiet s) (l : List Opnd) (d : Opnd) (z : Word) (n : Nat)

theorem result_popAll_change : regsChange u ((popAll l u).result d z) := (popAll_change l u).trans (result_change ..)

include hload hme hq

theorem result_stands : loadStands s (((popAll l u).result d z).retire false none n) :=
  hload.trans ((result_popAll_change l d z).retire_others (by rw [quiet, hme]; exact hq) false none n).loadStands

/-- What a form that reads its sources l and writes its result z to d leaves of the issuing context and of memory, where what
it has done before is no more than a load. -/
theorem result_frame (hlive : s.me.live = true) :
    ∃ t, ((popAll l u).result d z).retire false none n = t ∧ controlStands s t ∧ taskStands s t ∧ registersStand s t d l ∧
      pushed s t z ∧ (∀ k : WReg, k ≠ 0 → d = .w k → t.me.r.getW k = z) ∧ ∀ k, notOwn s k → t.peek k = s.peek k := by
  have hqu : quiet u := by rw [quiet, hme]; exact hq
  have hchange := result_popAll_change (u := u) l d z
  have hr := hchange.retire_r hqu false none n
  have hregs : RegsKept (u.me.vs = []) u.me.r ((popAll l u).result d z).me.r d l := (RegsKept.popAll l u).result d z
  have hpush : pushed u ((popAll l u).result d z) z := result_pushed (popAll_l l u) d z
  have hcontrol := hchange.retire_control hqu none n
  have htask := hchange.retire_task hqu false none n
  rw [hme, ← hr] at hregs
  rw [pushed, hme, ← hr] at hpush
  rw [controlStands, hme] at hcontrol
  rw [taskStands, hme] at htask
  refine ⟨_, rfl, hcontrol, htask, hregs.stand, hpush, fun k hk hd => ?written, fun k hk => ?bytes⟩
  case written =>
    rw [hr]
    exact result_getW _ z hk hd
  case bytes =>
    refine (result_stands hload hme hq l d z n).peek ?live (congrArg Ctx.t htask :) (congrArg Csr.wp hcontrol :) hk
    rw [Ctx.live, hchange.retire_st hqu, hlive]

end Result

end Sys2Proof.Safety

namespace Sys2Proof.Machine
open Sys2Proof.Safety

/-! ### Integer instructions (R39, R64, R66) -/

theorem val_of_val2 {r : Regs} {a b : Opnd} {x y : Word} (h : r.val2 a b = some (x, y)) : r.val a = some x := by
  unfold Regs.val2 at h
  split at h
  · cases h; assumption
  · cases h

/-- Each integer form whose sources have values and whose destination has room reads its sources and writes a result. -/
theorem integer_result {i : Instr} {s : State} {d a b : Opnd} {f : Word → Word → Word → Int} {x y : Word}
    (h : intBinary i = some (d, a, b, f) ∨ (b = .w 0 ∧ ∃ g, intUnary i = some (d, a, g)) ∨
      (a = .w 0 ∧ b = .w 0 ∧ ∃ g, intNullary i = some (d, g)))
    (hi : issues s i) (hv : s.me.r.val2 a b = some (x, y)) (hd : s.me.room d = true) :
    ∃ l z, l ⊆ [a, b] ∧ exec i s = retires i ((popAll l s).result d z) := by
  obtain h | ⟨rfl, f, h⟩ | ⟨rfl, rfl, f, h⟩ := h
  · obtain ⟨g, hg⟩ := intBinary_alu2 h s
    exact ⟨[a, b], _, fun _ => id, hg.trans (alu2_result hi hv hd)⟩
  · obtain ⟨g, hg⟩ := intUnary_alu1 h s
    exact ⟨[a], _, by simp, hg.trans (alu1_result hi (val_of_val2 hv) hd)⟩
  · obtain ⟨g, hg⟩ := intNullary_alu0 h s
    exact ⟨[], _, by simp, hg.trans (alu0_result hi hd)⟩

/-- Settles O15: each form reads at most its two sources and writes its result, so `result_frame` says what it leaves. -/
theorem integerFormsChangeOnlyTheirDestination : Obligations.IntegerFormsChangeOnlyTheirDestination := by
  intro i s d a b f x y hform hi hq hlive hv hd
  obtain ⟨l, z, hl, hexec⟩ := integer_result hform hi hv hd
  obtain ⟨t, ht, hcontrol, htask, hregs, hpush, hw, hbytes⟩ :=
    result_frame (loadStands.refl s) rfl hq l d z (ilen i) hlive
  have hothers := (result_popAll_change (u := s) l d z).retire_others hq false none (ilen i)
  rw [ht] at hothers
  refine ⟨t, z, hexec.trans (congrArg _ ht), hothers, hcontrol, htask, ?_, hpush, hw, hbytes⟩
  obtain ⟨hrw, hro, hrq, hrest⟩ := hregs
  exact ⟨hrw, hro, fun n hdn hn => hrq n hdn fun hm => hn (hl hm), hrest⟩

end Sys2Proof.Machine
end
end

section
/-!
PROOFS. Scalar loads: what each form computes, and what it leaves.
-/
noncomputable section
namespace Sys2Proof.Machine
open Sys2Proof.Safety

/-! ### Addresses and loaded values (R64, R138, R139, R142) -/

/-- A base and a sign-extended offset add up as integers do. -/
theorem add_signExtend (x : Word) {n : Nat} (o : BitVec n) : x + o.signExtend 64 = BitVec.ofInt 64 (x.toNat + o.toInt) := by
  rw [BitVec.ofInt_add, BitVec.signExtend, BitVec.ofInt_natCast, BitVec.ofNat_toNat, BitVec.setWidth_eq]

theorem eaS_eq (s : State) (b : Opnd) (o : BitVec 12) : s.eaS b o = baseOff b o.toInt s := add_signExtend _ o

theorem ea16_eq (s : State) (b : WReg) (o : BitVec 5) : s.ea16 b o = baseOff (.w b) (8 * o.toNat) s := by
  change s.me.r.getW b + BitVec.ofNat 64 (8 * o.toNat) = BitVec.ofInt 64 ((s.me.r.getW b).toNat + 8 * o.toNat)
  rw [BitVec.ofInt_add, BitVec.ofInt_natCast, BitVec.ofNat_toNat, BitVec.setWidth_eq, ← BitVec.ofInt_natCast]
  rfl

theorem eaX_eq {s : State} {a b : Opnd} {x y : Word} (h : s.me.r.val2 a b = some (x, y)) (k : BitVec 2) :
    x + (y <<< k.toNat) = baseIndex a b k s := by
  simp only [baseIndex, h]
  apply BitVec.eq_of_toNat_eq
  simp [BitVec.toNat_shiftLeft, Nat.shiftLeft_eq]

/-- The value of loaded bytes. -/
theorem extend_eq (signed : Bool) {n : Nat} {b : List Byte} (h : b.length = n) :
    extend signed n (leNat b) = BitVec.ofInt 64 (loaded signed b) := by
  subst n
  cases signed with
  | false => exact (BitVec.ofInt_natCast ..).symm
  | true =>
    change BitVec.ofInt 64 (BitVec.ofNat (8 * b.length) (leNat b)).toInt = _
    rw [BitVec.toInt_ofNat']
    rfl

/-! ### What a load does -/

theorem loadTo_done {s u : State} {d : Opnd} {pops : State → State} {ea : Word} {n : Nat} {signed : Bool} {b : List Byte}
    (hd : s.me.room d = true) (hl : s.load ea n = .ok b u) :
    s.loadTo d pops ea n (extend signed n) = .done ((pops u).result d (BitVec.ofInt 64 (loaded signed b))) := by
  rw [loadTo_ok hd hl, extend_eq signed (load_stands hl).2]

theorem loadS_done {i : Instr} {s u : State} {d b : Opnd} {o : BitVec 12} {n : Nat} {signed : Bool} {y : List Byte}
    (hi : issues s i) (hd : s.me.room d = true) (hl : s.load (baseOff b o.toInt s) n = .ok y u) :
    loadS i d b o n signed s = retires i (u.result d (BitVec.ofInt 64 (loaded signed y))) :=
  issue_done hi (by rw [eaS_eq]; exact loadTo_done hd hl)

theorem loadX_done {i : Instr} {s u : State} {d a b : Opnd} {z k : BitVec 2} {signed : Bool} {y : List Byte}
    (hi : issues s i) (hsrc : sourcesReady [a, b] s) (hd : s.me.room d = true)
    (hl : s.load (baseIndex a b k s) (2 ^ z.toNat) = .ok y u) :
    loadX i d a b z k signed s = retires i ((u.pop2 a b).result d (BitVec.ofInt 64 (loaded signed y))) := by
  obtain ⟨⟨p, q⟩, hv⟩ := Option.isSome_iff_exists.mp hsrc
  refine issue_done hi ?_
  simp only [hv, eaX_eq hv]
  exact loadTo_done hd hl

theorem load16_done {i : Instr} {s u : State} {d : Opnd} {b : WReg} {o : BitVec 5} {y : List Byte} (hi : issues s i)
    (hd : s.me.room d = true) (hl : s.load (baseOff (.w b) (8 * o.toNat) s) 8 = .ok y u) :
    issue i s (fun s => s.loadTo d id (s.ea16 b o) 8 (extend false 8)) =
      retires i (u.result d (BitVec.ofInt 64 (loaded false y))) :=
  issue_done hi (by rw [ea16_eq]; exact loadTo_done hd hl)

/-- A scalar load whose access completes pops its sources and writes the value of the bytes. -/
theorem loadForm_result {i : Instr} {s u : State} {f : LoadForm} {b : List Byte} (h : loadForm i = some f) (hi : issues s i)
    (hsrc : sourcesReady f.pops s) (hd : s.me.room f.d = true) (hl : s.load (f.ea s) f.n = .ok b u) :
    exec i s = retires i ((popAll f.pops u).result f.d (BitVec.ofInt 64 (loaded f.signed b))) := by
  unfold loadForm at h
  split at h <;> cases h <;> unfold exec
  case h_8 | h_9 => exact loadX_done hi hsrc hd hl
  case h_10 | h_11 => exact load16_done hi hd hl
  all_goals exact loadS_done hi hd hl

/-- Settles O21: the access leaves what `load_stands` says, and the result what `result_frame` does. -/
theorem loadsChangeOnlyTheirDestination : Obligations.LoadsChangeOnlyTheirDestination := by
  intro i s u f b h hi hq hlive hsrc hd hl
  obtain ⟨hload, -⟩ := load_stands hl
  obtain ⟨-, -, -, hme, -, -⟩ := load_ok hl
  obtain ⟨t, ht, hcontrol, htask, hregs, hpush, -, hbytes⟩ :=
    result_frame hload hme hq f.pops f.d (BitVec.ofInt 64 (loaded f.signed b)) (ilen i) hlive
  have hstands := result_stands hload hme hq f.pops f.d (BitVec.ofInt 64 (loaded f.signed b)) (ilen i)
  rw [ht] at hstands
  exact ⟨t, (loadForm_result h hi hsrc hd hl).trans (congrArg _ ht), hstands, hcontrol, htask, hregs, hpush, hbytes⟩

end Sys2Proof.Machine
end
end

section
/-!
PROOFS. NOP and the trace BREAK, the ends of tasks, and the control registers.
-/
noncomputable section
namespace Sys2Proof.Machine
open Sys2Proof.Safety

/-! ### NOP and the trace BREAK (R58, R62, R461) -/

theorem exec_nop {s : State} (hi : issues s .nop) : exec .nop s = .next (s.retire false none 2) := issue_done hi rfl

/-- Outside a REP body the PC goes past an instruction that does not jump. -/
theorem retireQuiet_pc {s : State} (hr : s.me.rep = none) (k : Bool) (n : Nat) :
    (s.retireQuiet k none n).me = { (s.retired k).me with pc := s.me.pc + BitVec.ofNat 64 n, rep := none } := by
  simp [State.retireQuiet, retired_rep, hr, retired_pc]

/-- Whether the issuing context is the same one and stands in a later state. -/
def sameIssuer (s t : State) : Prop := t.cur = s.cur ∧ t.me = s.me

theorem sameIssuer.refl (s : State) : sameIssuer s s := ⟨rfl, rfl⟩

theorem sameIssuer.trans {s t u : State} (h : sameIssuer s t) (h' : sameIssuer t u) : sameIssuer s u :=
  ⟨h'.1.trans h.1, h'.2.trans h.2⟩

theorem sameIssuer.foldl {α : Type} {f : State → α → State} (hf : ∀ s x, sameIssuer s (f s x)) (l : List α) (s : State) :
    sameIssuer s (l.foldl f s) := by
  induction l generalizing s with
  | nil => exact .refl s
  | cons x l ih => exact (hf s x).trans (ih _)

theorem request_me (s : State) (r : Request) : (s.request r).me = s.me := rfl

/-- The pending FMT that goes to the save area is written to memory alone (log 61). -/
theorem keepPrefix_stands (s : State) : s.keepPrefix.me = s.me ∧ s.keepPrefix.seq = s.seq := by
  unfold State.keepPrefix
  split <;> exact ⟨rfl, rfl⟩

/-- A task of psw.S = 0 that takes an exception is HELD, with its control registers as R451 gives them. -/
theorem takeTrap_me {s : State} (hs : s.me.c.s = false) (c : Cause) (tval xpc resume : Word) (bits code : Nat) :
    (s.takeTrap c tval xpc resume bits code).me = { s.me with
      st := .held, resume := resume, trapNo := s.seq,
      c := { s.me.c with cause := BitVec.ofNat 64 c.code, xpc := xpc, xpsw := s.me.c.psw.setWidth 64, tval := tval } } := by
  obtain ⟨hme, hseq⟩ := keepPrefix_stands s
  have hkept : (if s.me.c.pp = true then s.keepPrefix else s).me = s.me ∧
      (if s.me.c.pp = true then s.keepPrefix else s).seq = s.seq := by
    split
    · exact ⟨hme, hseq⟩
    · exact ⟨rfl, rfl⟩
  obtain ⟨hme, hseq⟩ := hkept
  rw [State.takeTrap, if_neg (by simp [hs])]
  simp only [request_me, State.writeRecord, hme, hseq]

theorem traced_me {s : State} (htr : s.me.c.tr = true) (hst : s.me.st = .ready) : s.traced = s.takeTrap .brk 0 s.me.pc s.me.pc 0 0xFFF := by
  simp [State.traced, htr, hst]

/-- Settles O11: NOP's retirement is `retireQuiet` by 2 bytes, which touches the context alone; with psw.TR the trace is the
precise trap of R451 taken in the state so retired, whose PC is already the next instruction's. -/
theorem nopRetiresAndTraceBreaks : Obligations.NopRetiresAndTraceBreaks := by
  refine ⟨fun s hi hq hr => ?quiet, fun s hi htr hs hr => ?traced⟩
  case quiet =>
    have hchange := regsChange.refl s
    refine ⟨_, exec_nop hi, hchange.retire_others hq .., hchange.retire_control hq .., hchange.retire_task hq ..,
      hchange.retire_r hq .., hchange.retire_st hq .., ?_⟩
    rw [retire_untraced hq, retireQuiet_pc hr]
    rfl
  case traced =>
    have hme := retireQuiet_pc hr false 2
    refine ⟨_, exec_nop hi, ?_⟩
    rw [State.retire, traced_me (by rw [hme]; exact (retired_tr s false).trans htr) (by rw [hme]; rfl), takeTrap_me (by
      rw [hme, retired_me]
      exact (setBit_other _ 1 0 false (by decide)).trans hs), hme, retired_me]
    exact ⟨rfl, rfl, rfl, rfl, rfl, rfl⟩

/-! ### The end of a task (R31, R148, R410, R456) -/

theorem endBody_whole {s : State} (hgd : s.me.c.gd = 0) (hp : s.hasParked = false) (hb : s.behind = none) :
    s.endBody = .whole (s.retired false).finishTask := by
  simp [State.endBody, State.endWait, hgd, hp, hb]

theorem retired_t (s : State) (k : Bool) : (s.retired k).me.t = s.me.t := by rw [retired_me]
theorem retired_cur (s : State) (k : Bool) : (s.retired k).cur = s.cur := by rw [retired_stands]

theorem ends_whole {i : Instr} {s : State} (h : i = .endTask ∨ i = .end16 ∨ i = .wrapdone) (hi : issues s i)
    (hgd : s.me.c.gd = 0) (hp : s.hasParked = false) (hb : s.behind = none) :
    exec i s = .next (s.retired false).finishTask := by
  obtain rfl | rfl | rfl := h <;> exact issue_whole hi (endBody_whole hgd hp hb)


/-! ### Removing a task leaves its context FREE (R31) -/

theorem onCore_issuer (s : State) (c : Nat) (f : Core → Core) : sameIssuer s (s.onCore c f) := ⟨rfl, rfl⟩

theorem clearRecord_issuer (s : State) (key : Nat) : sameIssuer s (s.clearRecord key) := ⟨rfl, rfl⟩

theorem unbox_issuer (s : State) (lead : Nat) : sameIssuer s (s.unbox lead) := by
  unfold State.unbox
  split
  · exact .refl s
  · exact .foldl (fun t c => onCore_issuer t c _) _ s

theorem freePoolWs_issuer (s : State) (k : Nat) : sameIssuer s (s.freePoolWs k) := by
  unfold State.freePoolWs
  dsimp only
  split
  · exact .refl s
  · split
    · exact .refl s
    · exact ⟨rfl, rfl⟩

theorem dropParked_issuer (s : State) (k serial : Nat) : sameIssuer s (s.dropParked k serial) := by
  unfold State.dropParked
  dsimp only
  split
  · exact .refl s
  · exact (sameIssuer.foldl (fun t p => clearRecord_issuer t _) _ s).trans (onCore_issuer _ _ _)

theorem flipAt_issuer (s : State) (core : Nat) : sameIssuer s (s.flipAt core) := by
  unfold State.flipAt
  split
  · exact ⟨rfl, rfl⟩
  · exact .refl s

theorem setCtx_cur_me (s : State) (c : Ctx) : (s.setCtx s.cur c).me = c := by simp [State.setCtx]

theorem ctx_cur (s : State) : s.ctx s.cur = s.me := by simp [State.ctx]

/-- The context of a task other than a helper, on a small core, after the task is gone. -/
theorem removeTask_me {s : State} (hk : s.me.t.kind = .leaf) (hg : isG s.cur = false) :
    (s.removeTask s.cur).me = { Ctx.idle with
      r := { s.me.r with q0 := [], q1 := [], q2 := [], q3 := [] },
      c := { s.me.c with psw := setBit s.me.c.psw 12 false }, t := .none, last := s.me.last } := by
  have hbox : sameIssuer s (if s.me.c.bx = true then s.unbox (coreOf s.cur) else s) := by
    split
    · exact unbox_issuer s _
    · exact .refl s
  obtain ⟨hcur, -⟩ := (hbox.trans (freePoolWs_issuer _ s.cur)).trans (dropParked_issuer _ s.cur s.me.c.serial)
  simp only [State.removeTask, ctx_cur, hk, hg]
  rw [if_neg (by simp), if_neg (by decide)]
  refine (flipAt_issuer _ _).2.trans ?_
  have h := setCtx_cur_me (((if s.me.c.bx = true then s.unbox (coreOf s.cur) else s).freePoolWs s.cur).dropParked s.cur
    s.me.c.serial)
  rw [hcur] at h
  exact h _

theorem taskEnded_me {s : State} (hj : s.me.t.join = none) (hk : s.me.t.kind = .leaf) (hg : isG s.cur = false) :
    (s.taskEnded s.cur).me = { Ctx.idle with
      r := { s.me.r with q0 := [], q1 := [], q2 := [], q3 := [] },
      c := { s.me.c with psw := setBit s.me.c.psw 12 false }, t := .none, last := s.me.last } := by
  simp only [State.taskEnded, ctx_cur, hj]
  exact removeTask_me hk hg

/-! ### END, END_16, WRAPDONE and ERET (R31, R148, R410, R438, R463) -/

theorem endWait_none {s : State} (hp : s.hasParked = false) (hb : s.behind = none) : s.endWait = none := by
  simp [State.endWait, hp, hb]

theorem finishTask_eq (s : State) : s.finishTask = (s.me.t.trap.elim s s.disposeResume).taskEnded s.cur := by
  unfold State.finishTask
  cases s.me.t.trap <;> rfl

theorem pop_t (s : State) (a : Opnd) : (s.pop a).me.t = s.me.t := rfl

theorem exec_eret (a : Opnd) (s : State) : exec (.eret a) s = execEret a s := rfl

theorem eret_ends {a : Opnd} {s : State} {x : Word} (hi : issues s (.eret a)) (hv : s.me.r.val a = some x)
    (hx : ¬ 1 < x.toNat) (hp : s.hasParked = false) (hb : s.behind = none) :
    exec (.eret a) s = .next ((s.me.t.trap.elim ((s.pop a).retired false) fun r =>
      if x == 0 then ((s.pop a).retired false).disposeResume r else ((s.pop a).retired false).disposeEnd r).taskEnded s.cur) := by
  rw [exec_eret, execEret]
  refine issue_whole hi ?_
  simp only [hv, if_neg hx, endWait_none hp hb, retired_t, pop_t]
  cases s.me.t.trap <;> rfl

/-- Settles O45: END, END_16 and WRAPDONE are one body, which outside a gate and with nothing incomplete is `finishTask` on the
retired state; the issuing context is then FREE because what the removal does elsewhere (box, workspace, parked stores, colour)
leaves it, and ERET disposes of the trap by its operand before the same end. -/
theorem tasksEnd : Obligations.TasksEnd := by
  refine ⟨fun i s h hi hgd hp hb => ⟨_, ends_whole h hi hgd hp hb, ?ended, fun ht hj hk hg => ?free⟩,
    fun a s x hi hv hp hb => ⟨fun hx => ?resumes, fun hx => ?ends, fun hx => ?enc⟩⟩
  case ended =>
    rw [finishTask_eq, retired_t, retired_cur]
    cases s.me.t.trap <;> rfl
  case free =>
    rw [finishTask_eq, retired_t, ht]
    have hme := taskEnded_me (s := s.retired false) (by rwa [retired_t]) (by rwa [retired_t]) (by rwa [retired_cur])
    exact ⟨congrArg Ctx.st hme, congrArg (Ctx.r · |>.q0) hme, congrArg (Ctx.r · |>.q1) hme, congrArg (Ctx.r · |>.q2) hme,
      congrArg (Ctx.r · |>.q3) hme, congrArg Ctx.frames hme⟩
  case resumes =>
    rw [eret_ends hi hv (by omega) hp hb]
    obtain rfl : x = 0 := BitVec.eq_of_toNat_eq hx
    cases s.me.t.trap <;> rfl
  case ends =>
    rw [eret_ends hi hv (by omega) hp hb]
    obtain rfl : x = 1 := BitVec.eq_of_toNat_eq hx
    cases s.me.t.trap <;> rfl
  case enc =>
    rw [exec_eret, execEret]
    refine issue_trap hi ?_
    simp only [hv, if_pos hx]

/-! ### Control registers (R55 to R57, R462) -/

theorem userReads_iff (n : BitVec 12) : userReads n = true ↔ n.toNat ∈ [0, 6, 9, 10, 11, 12, 13, 15, 17] := by
  simp [userReads, @eq_comm Nat n.toNat]

theorem exec_csrr (d : Opnd) (n : BitVec 12) (s : State) : exec (.csrr d n) s = execCsrr d n s := rfl

theorem csrr_priv {d : Opnd} {n : BitVec 12} {s : State} (hi : issues s (.csrr d n)) (hs : s.me.c.s = false)
    (hn : n.toNat ∉ [0, 6, 9, 10, 11, 12, 13, 15, 17]) : exec (.csrr d n) s = .next (s.raise (.csrr d n) .priv 0 0) := by
  have hu : userReads n = false := Bool.eq_false_iff.mpr fun h => hn ((userReads_iff n).mp h)
  rw [exec_csrr, execCsrr]
  refine issue_trap hi ?_
  simp only [hs, hu, Bool.not_false, Bool.and_self, if_true]

theorem csrr_reads {d : Opnd} {n : BitVec 12} {s : State} (hi : issues s (.csrr d n))
    (hn : s.me.c.s = true ∨ n.toNat ∈ [0, 6, 9, 10, 11, 12, 13, 15, 17]) (hr : s.me.room d = true)
    (hb : n = 0 → s.behind = none) : exec (.csrr d n) s = retires (.csrr d n) (s.result d (s.readCsr n)) := by
  have hpriv : (!s.me.c.s && !userReads n) = false := by
    rw [← userReads_iff] at hn
    obtain h | h := hn <;> simp [h]
  rw [exec_csrr, execCsrr]
  refine issue_done hi ?_
  simp only [hpriv, hr, Bool.false_eq_true, Bool.not_true, if_false]
  by_cases h0 : n = 0
  · rw [hb h0, ite_self]
  · rw [if_neg (by simpa using h0)]

/-- c.psw as CSRR gives it: its low 16 bits, and the rest to a supervisor (R55, R57). -/
theorem readCsr_psw (s : State) :
    (s.readCsr 0).toNat = if s.me.c.s then s.me.c.psw.toNat else s.me.c.psw.toNat % 2 ^ 16 := by
  have hlt := s.me.c.psw.isLt
  change (if s.me.c.s then s.me.c.psw.setWidth 64 else (s.me.c.psw.setWidth 16).setWidth 64).toNat = _
  split
  · rw [BitVec.toNat_setWidth]
    omega
  · rw [BitVec.toNat_setWidth, BitVec.toNat_setWidth]
    omega

/-- The three writes of a control register are one body, with the value they make of the old one. -/
theorem exec_csrWrite {i : Instr} {a : Opnd} {n : BitVec 12} {f : Word → Word → Word}
    (h : (i = .csrw a n ∧ f = fun _ x => x) ∨ (i = .csrs a n ∧ f = fun o x => o ||| x) ∨
      (i = .csrc a n ∧ f = fun o x => o &&& ~~~ x)) (s : State) : exec i s = csrWrite i a n s f := by
  obtain ⟨rfl, rfl⟩ | ⟨rfl, rfl⟩ | ⟨rfl, rfl⟩ := h <;> rfl

theorem rm_toNat (y : Word) : (y.extractLsb' 3 3).toNat = y.toNat / 8 % 8 := by
  simp [BitVec.extractLsb'_toNat, Nat.shiftRight_eq_div_pow]

theorem csrWrite_priv {i : Instr} {n : BitVec 12} {s : State} (hi : issues s i) (hs : s.me.c.s = false) (hn : n ≠ 0)
    (a : Opnd) (f : Word → Word → Word) : csrWrite i a n s f = .next (s.raise i .priv 0 0) :=
  issue_trap hi (if_pos (by simpa [hs] using hn))

section
variable {i : Instr} {a : Opnd} {n : BitVec 12} {s : State} {x : Word} (hi : issues s i)
  (hv : s.me.r.val a = some x) (hb : s.behind = none) (f : Word → Word → Word)
include hi hv hb

theorem csrWrite_enc (h0 : n = 0) (hrm : 6 ≤ (f (s.readCsr n) x).toNat / 8 % 8) :
    csrWrite i a n s f = .next (s.raise i .enc 0 0) := by
  refine issue_trap hi ?_
  have hpriv : ¬ (!s.me.c.s && n != 0) = true := by simp [h0]
  have henc : (n == 0 && decide (6 ≤ ((f (s.readCsr n) x).extractLsb' 3 3).toNat)) = true := by
    rw [rm_toNat, Bool.and_eq_true, beq_iff_eq, decide_eq_true_iff]
    exact ⟨h0, hrm⟩
  rw [if_neg hpriv]
  simp only [hv, hb]
  exact if_pos henc

theorem csrWrite_writes (hn : s.me.c.s = true ∨ n = 0) (hrm : n = 0 → (f (s.readCsr n) x).toNat / 8 % 8 < 6) :
    csrWrite i a n s f = retires i ((s.pop a).writeCsr n (f (s.readCsr n) x)) := by
  refine issue_done hi ?_
  have hpriv : ¬ (!s.me.c.s && n != 0) = true := by
    obtain h | h := hn <;> simp [h]
  have henc : ¬ (n == 0 && decide (6 ≤ ((f (s.readCsr n) x).extractLsb' 3 3).toNat)) = true := by
    rw [rm_toNat, Bool.and_eq_true, beq_iff_eq, decide_eq_true_iff]
    exact fun ⟨h0, h6⟩ => absurd (hrm h0) (by omega)
  rw [if_neg hpriv]
  simp only [hv, hb]
  rw [if_neg henc]

end

theorem setWp_wp (s : State) (x : Word) : (s.setWp x).me.c.wp = x &&& ~~~ 63 := by
  unfold State.setWp
  dsimp only
  split <;> rfl

theorem writeCsr_wdog (s : State) (y : Word) :
    ((s.writeCsr 14 y).part s.myPart).wdog = max (2 ^ 10) (min (2 ^ 26) y.toNat) :=
  congrArg Part.wdog (find_put_same s.parts s.myPart _ _)

theorem setBit_same (x : BitVec 19) (n : Nat) (b : Bool) (h : n < 19) : (setBit x n b).getLsbD n = b := by
  unfold setBit
  cases b <;> simp [h]

/-- The fields FLAGS and RM of psw, which a user writes (R56, R57). -/
theorem user_mask (j : Nat) (h : j < 19) : (0x7F8#19).getLsbD j = decide (3 ≤ j ∧ j ≤ 10) := by
  have hall : ∀ j : Fin 19, (0x7F8#19).getLsbD j = decide (3 ≤ j.val ∧ j.val ≤ 10) := by decide
  exact hall ⟨j, h⟩

/-- A user's write of c.psw takes FLAGS and RM, clears XS at most, and leaves every other bit (R57). -/
theorem writePsw_user {old : BitVec 19} (hs : old.getLsbD 0 = false) (y : Word) (j : Nat) (hj : j < 19) :
    (writePsw old y).getLsbD j =
      if 3 ≤ j ∧ j ≤ 10 then y.getLsbD j else if j = 2 then old.getLsbD j && y.getLsbD j else old.getLsbD j := by
  rw [writePsw, if_neg (Bool.eq_false_iff.mp hs)]
  by_cases h2 : j = 2
  · subst h2
    rw [setBit_same _ _ _ hj]
    simp
  · rw [setBit_other _ _ _ _ h2, BitVec.getLsbD_or, BitVec.getLsbD_and, BitVec.getLsbD_and, BitVec.getLsbD_not,
      BitVec.getLsbD_setWidth, user_mask j hj]
    by_cases hm : 3 ≤ j ∧ j ≤ 10 <;> simp [hm, hj, h2]

/-- Settles O52: CSRR gives `readCsr`, row by row R55's table; the three writes are one body; and `writeCsr` is read register by
register, a user's c.psw bit by bit. -/
theorem controlRegistersReadAndWrite : Obligations.ControlRegistersReadAndWrite := by
  refine ⟨fun d n s hi => ⟨csrr_priv hi, fun hn hr hb => ⟨_, csrr_reads hi hn hr hb, ?reads⟩⟩,
    fun i a n f s x h hi => ?writes, fun s y => ?values⟩
  case reads =>
    refine ⟨?psw, ?_, ?_, ?_, ?_, ?_, ?dom, ?asid, ?_, ?_, ?_, ?_, ?_, ?_, ?_, ?_, ?_, ?_, ?_⟩ <;> rintro rfl
    case psw => exact readCsr_psw s
    case dom => exact (BitVec.ofNat_toNat ..).symm
    case asid => exact (BitVec.ofNat_toNat ..).symm
    all_goals rfl
  case writes =>
    rw [exec_csrWrite h]
    exact ⟨fun hs hn => csrWrite_priv hi hs hn a f, fun hn hv hb =>
      ⟨csrWrite_enc hi hv hb f, csrWrite_writes hi hv hb f hn⟩⟩
  case values =>
    exact ⟨rfl, rfl, rfl, writeCsr_wdog s y, setWp_wp s y, rfl, fun hs j hj => writePsw_user hs y j hj⟩

end Sys2Proof.Machine
end
end

section
/-!
PROOFS. Vector results: the elements of a register that has been written, lanes that neither draw nor raise flags, and the
integer sizes of VALU (O30).
-/
noncomputable section
namespace Sys2Proof.Machine
open Sys2Proof.Safety

/-! ### Elements of a register (R111, R112) -/

@[simp] theorem elems_length (n : Nat) (v : Vec) : (elems n v).length = 512 / n := by simp [elems]

theorem element_lt (n : Nat) (v : Vec) (j : Nat) : element n v j < 2 ^ n := Nat.mod_lt _ (Nat.two_pow_pos n)

theorem elems_getD (n : Nat) (v : Vec) {j : Nat} (h : j < 512 / n) : (elems n v).getD j 0 = element n v j := by
  simp [elems, element, h, Nat.shiftRight_eq_div_pow]

theorem elems_getD_lt (n : Nat) (v : Vec) (j : Nat) : (elems n v).getD j 0 < 2 ^ n := by
  by_cases h : j < 512 / n
  · rw [elems_getD n v h]
    exact element_lt n v j
  · rw [List.getD_eq_getElem?_getD, List.getElem?_eq_none (by rw [elems_length]; exact Nat.le_of_not_lt h)]
    exact Nat.two_pow_pos n

theorem packNat_lt {n w : Nat} {l : List Nat} (h : n * l.length ≤ w) : packNat n l < 2 ^ w := by
  induction l generalizing w with
  | nil => exact Nat.two_pow_pos w
  | cons x l ih =>
    rw [List.length_cons, Nat.mul_succ] at h
    have hx : x % 2 ^ n < 2 ^ n := Nat.mod_lt _ (Nat.two_pow_pos n)
    have hl : packNat n l < 2 ^ (w - n) := ih (by omega)
    calc packNat n (x :: l) < 2 ^ n * (packNat n l + 1) := by rw [packNat, Nat.mul_succ]; omega
      _ ≤ 2 ^ n * 2 ^ (w - n) := Nat.mul_le_mul_left _ hl
      _ = 2 ^ w := by rw [← Nat.pow_add, Nat.add_sub_cancel' (by omega)]

theorem packNat_digit (n : Nat) (l : List Nat) (j : Nat) : packNat n l / 2 ^ (n * j) % 2 ^ n = l.getD j 0 % 2 ^ n := by
  induction l generalizing j with
  | nil => simp [packNat]
  | cons x l ih =>
    cases j with
    | zero => simp [packNat]
    | succ j =>
      have hx : (x % 2 ^ n + 2 ^ n * packNat n l) / 2 ^ n = packNat n l := by
        rw [Nat.add_mul_div_left _ _ (Nat.two_pow_pos n), Nat.div_eq_of_lt (Nat.mod_lt _ (Nat.two_pow_pos n)), Nat.zero_add]
      rw [List.getD_cons_succ, ← ih, packNat, Nat.mul_succ, Nat.add_comm (n * j), Nat.pow_add, ← Nat.div_div_eq_div_mul, hx]

/-- What a register reads as after it has been made of elements. -/
theorem element_ofElems {n : Nat} {l : List Nat} (hl : l.length = 512 / n) (j : Nat) :
    element n (ofElems n l) j = l.getD j 0 % 2 ^ n := by
  have hwidth : n * l.length ≤ 512 := hl ▸ Nat.mul_div_le 512 n
  rw [element, ofElems, BitVec.toNat_ofNat, Nat.mod_eq_of_lt (packNat_lt hwidth), packNat_digit]

/-! ### Lanes that draw nothing and raise no flag (R160) -/

theorem sweep_pure {act : Nat → Bool} {g : Nat → Acc → Nat × Acc} {h : Nat → Nat} (hg : ∀ i a, g i a = (h i, a)) (k : Nat)
    (l : List Nat) (a : Acc) : sweep act g k l a = ((l.zipIdx k).map fun p => if act p.2 then h p.2 else p.1, a) := by
  induction l generalizing k with
  | nil => rfl
  | cons x l ih =>
    cases hk : act k <;> simp [sweep, hg, ih, hk]

theorem sweep_pure_getD {act : Nat → Bool} {g : Nat → Acc → Nat × Acc} {h : Nat → Nat} (hg : ∀ i a, g i a = (h i, a))
    {l : List Nat} {j : Nat} (hj : j < l.length) (a : Acc) :
    (sweep act g 0 l a).1.getD j 0 = if act j then h j else l.getD j 0 := by
  rw [sweep_pure hg]
  simp [hj]

/-- A result that neither drew nor raised a flag leaves the generator and the flags. -/
theorem rounded_acc (s : State) : s.rounded s.acc = s := by
  simp [State.rounded, State.onCsr, State.acc, Csr.accrue]

/-! ### What a vector result leaves (R41) -/

theorem Regs.getV_setV_same (r : Regs) (n : VReg) (x : Vec) : (r.setV n x).getV n = x := by simp [Regs.getV, Regs.setV]

theorem Regs.getV_setV_other (r : Regs) {n k : VReg} (x : Vec) (h : n ≠ k) : (r.setV k x).getV n = r.getV n := by
  have hn : k.toNat ≠ n.toNat := fun e => h (BitVec.eq_of_toNat_eq e.symm)
  simp [Regs.getV, Regs.setV, hn]

/-- An instruction of the vector stream that has had its whole effect brings nothing to q2 and q3 where no older one waits. -/
theorem vectored_fed (s : State) (l : List Opnd) :
    ∃ x, (s.vectored l).me.r = s.me.r.fed x ∧ (s.me.vs = [] → x = []) := by
  unfold State.vectored State.vectoredWith State.flow State.settled
  split
  · exact ⟨[], rfl, fun _ => rfl⟩
  · exact ⟨_, rfl, fun h => by simp [h, settle]⟩

theorem vresult_change (s : State) (d : VReg) (n : Nat) (l : List Nat) : regsChange s (s.vresult d n l s.acc []) := by
  rw [State.vresult, rounded_acc]
  rfl

theorem vresult_fed (s : State) (d : VReg) (n : Nat) (l : List Nat) :
    ∃ x, (s.vresult d n l s.acc []).me.r = (s.me.r.setV d (ofElems n l)).fed x ∧ (s.me.vs = [] → x = []) := by
  rw [State.vresult, rounded_acc]
  exact vectored_fed _ []

/-- A vector result is written to vd; no other register changes, but for what then comes to q2 and q3. -/
theorem vresult_regs (s : State) (d : VReg) (n : Nat) (l : List Nat) :
    let r := (s.vresult d n l s.acc []).me.r
    r.getV d = ofElems n l ∧ (∀ v : VReg, v ≠ d → r.getV v = s.me.r.getV v) ∧ r.w = s.me.r.w ∧ r.m = s.me.r.m ∧ r.l = s.me.r.l ∧
      r.o = s.me.r.o ∧ (∀ q : BitVec 2, s.me.vs = [] ∨ q.toNat < 2 → r.getQ q = s.me.r.getQ q) ∧ r.sc = s.me.r.sc ∧
      r.cb = s.me.r.cb := by
  obtain ⟨x, hx, hstill⟩ := vresult_fed s d n l
  have hfed := RegsKept.fed hstill (s.me.r.setV d (ofElems n l))
  have hw := Regs.fed_keeps (·.w) (fun _ _ _ => Regs.setQ_w ..) x (s.me.r.setV d (ofElems n l))
  have ho := Regs.fed_keeps (·.o) (fun _ _ _ => Regs.setQ_o ..) x (s.me.r.setV d (ofElems n l))
  have hv (v : VReg) : (((s.me.r.setV d (ofElems n l)).fed x).getV v) = (s.me.r.setV d (ofElems n l)).getV v := by
    simp only [Regs.getV, hfed.v]
  dsimp only
  rw [hx]
  exact ⟨(hv d).trans (Regs.getV_setV_same ..), fun v h => (hv v).trans (Regs.getV_setV_other _ _ h), hw, hfed.m, Regs.fed_l ..,
    ho, fun q => hfed.q q nofun List.not_mem_nil, hfed.sc, hfed.cb⟩

/-! ### Integer elements (R107, R111) -/

/-- A format whose elements are the signed integers of a whole number of bytes. -/
structure Fmt.IsLaneInt (f : Fmt) : Prop where
  notFloat : f.isFloat = false
  signed : f.signed = true
  pos : 0 < f.bits
  dvd : f.bits ∣ 2 ^ f.bits

theorem isLaneInt_ofSz {z : Sz} (h : (Fmt.ofSz z).isFloat = false) : (Fmt.ofSz z).IsLaneInt := by
  cases z
  case bf16 | fp16 | fp32 | fp64 => cases h
  all_goals exact ⟨rfl, rfl, by decide, by decide⟩

section IntegerLanes
variable {f : Fmt} (hf : f.IsLaneInt) {x : Nat} (hx : x < 2 ^ f.bits)

theorem Fmt.ofInt_eq (f : Fmt) (i : Int) : f.ofInt i = (i % 2 ^ f.bits).toNat := by simp [Fmt.ofInt]

theorem ofInt_lt (f : Fmt) (i : Int) : f.ofInt i < 2 ^ f.bits := by
  have hpos : (0 : Int) < (2 ^ f.bits : Nat) := by exact_mod_cast Nat.two_pow_pos f.bits
  have hlt := Int.emod_lt_of_pos i hpos
  unfold Fmt.ofInt
  omega

theorem int_emod (f : Fmt) (x : Nat) : f.int x % 2 ^ f.bits = x % 2 ^ f.bits := by
  unfold Fmt.int Fmt.int.asSigned
  split <;> simp

include hx

theorem int_emod_of_lt : f.int x % 2 ^ f.bits = x := by
  rw [int_emod]
  exact Int.emod_eq_of_lt (by omega) (by exact_mod_cast hx)

theorem ofInt_int : f.ofInt (f.int x) = x := by rw [Fmt.ofInt_eq, int_emod_of_lt hx, Int.toNat_natCast]

include hf

/-- The signed integer of a pattern is its balanced residue. -/
theorem int_eq_bmod : f.int x = Int.bmod x (2 ^ f.bits) := by
  have hn : f.bits - 1 < f.bits := by have := hf.pos; omega
  calc f.int x = (BitVec.ofNat f.bits x).toInt := by
        rw [BitVec.toInt_eq_msb_cond, BitVec.msb_eq_getLsbD_last, BitVec.getLsbD_ofNat, BitVec.toNat_ofNat,
          Nat.mod_eq_of_lt hx]
        simp [Fmt.int, Fmt.int.asSigned, hn]
    _ = Int.bmod x (2 ^ f.bits) := BitVec.toInt_ofNat' ..

omit hx in
/-- A shift amount is the same of the pattern and of its signed integer: the width divides the modulus. -/
theorem int_amount (y : Nat) : (f.int y % f.bits).toNat = y % f.bits := by
  have hmod : f.int y % f.bits = y % f.bits := by
    rw [← Int.emod_emod_of_dvd (f.int y) (by exact_mod_cast hf.dvd : (f.bits : Int) ∣ 2 ^ f.bits), int_emod,
      Int.emod_emod_of_dvd _ (by exact_mod_cast hf.dvd)]
  rw [hmod]
  exact Int.toNat_natCast _

end IntegerLanes

/-! ### VALU in the integer sizes (R164) -/

/-- A lane operation computes the integer operation g on the signed elements of f, modulo the width, and neither draws nor
raises a flag. -/
def Computes (f : Fmt) (op : LaneOp) (g : Nat → Int → Int → Int) : Prop :=
  ∀ (rm : RmCode) (x y : Nat) (a : Acc), x < 2 ^ f.bits → y < 2 ^ f.bits →
    op f rm x y a = (f.ofInt (g f.bits (f.int x) (f.int y)), a)

section Operations
variable {f : Fmt} (hf : f.IsLaneInt)
include hf

theorem laneArith_computes (int : Int → Int → Int) (flt : Val → Val → Mode → Exact) :
    Computes f (laneArith int flt) fun _ => int := by
  intro rm x y a _ _
  simp [laneArith, hf.notFloat]

theorem laneMin_computes : Computes f (laneMinMax false) fun _ x y => if x ≤ y then x else y := by
  intro rm x y a hx hy
  by_cases h : f.int x ≤ f.int y <;> simp [laneMinMax, hf.notFloat, h, ofInt_int hx, ofInt_int hy]

theorem laneMax_computes : Computes f (laneMinMax true) fun _ x y => if x ≥ y then x else y := by
  intro rm x y a hx hy
  by_cases h : f.int y ≤ f.int x <;> simp [laneMinMax, hf.notFloat, h, ofInt_int hx, ofInt_int hy]

theorem laneShl_computes : Computes f (laneBits fun f x y => x <<< (y % f.bits)) fun n x y => x * 2 ^ (y % n).toNat := by
  intro rm x y a hx _
  have hmod : f.int x * 2 ^ (y % f.bits) % 2 ^ f.bits = (x * 2 ^ (y % f.bits) % 2 ^ f.bits : Int) := by
    rw [Int.mul_emod, int_emod, ← Int.mul_emod]
  simp only [laneBits, int_amount hf y, Nat.shiftLeft_eq, Fmt.ofInt_eq, hmod]
  norm_cast

theorem laneShr_computes :
    Computes f (laneBits fun f x y => x >>> (y % f.bits)) fun n x y => x % 2 ^ n / 2 ^ (y % n).toNat := by
  intro rm x y a hx _
  simp only [laneBits, int_amount hf y, int_emod_of_lt hx, Nat.shiftRight_eq_div_pow, Fmt.ofInt_eq]
  norm_cast

theorem laneSra_computes :
    Computes f (laneInt fun f x y => x / 2 ^ (f.ofInt y % f.bits)) fun n x y => x / 2 ^ (y % n).toNat := by
  intro rm x y a _ hy
  simp only [laneInt, int_amount hf y, ofInt_int hy]

omit hf in
theorem laneMulh_computes :
    Computes f (laneInt fun f x y => x * y / (2 ^ f.bits : Nat)) fun n x y => x * y / 2 ^ n := by
  intro rm x y a _ _
  simp [laneInt]

/-- Clamping to the range of a signed format, as a minimum and a maximum. -/
theorem clamp_eq (i : Int) : f.clamp i = max (-2 ^ (f.bits - 1)) (min (2 ^ (f.bits - 1) - 1) i) := by
  have hpos : (0 : Int) < 2 ^ (f.bits - 1) := Int.pow_pos (by decide)
  simp only [Fmt.clamp, Fmt.lo, Fmt.hi, hf.signed, if_true]
  push_cast
  generalize (2 : Int) ^ (f.bits - 1) = p at *
  split
  · omega
  · split <;> omega

theorem laneClamp_computes (h : Int → Int → Int) :
    Computes f (laneInt fun f x y => f.clamp (h x y)) fun n x y => max (-2 ^ (n - 1)) (min (2 ^ (n - 1) - 1) (h x y)) := by
  intro rm x y a _ _
  simp only [laneInt, clamp_eq hf]

theorem laneAbs_computes :
    Computes f (fun f _ x _ a => (if f.isFloat then x % 2 ^ (f.bits - 1) else f.ofInt (f.int x).natAbs, a))
      fun _ x _ => if x < 0 then -x else x := by
  intro rm x y a _ _
  have habs : ((f.int x).natAbs : Int) = if f.int x < 0 then -f.int x else f.int x := by split <;> omega
  simp only [hf.notFloat, Bool.false_eq_true, if_false, habs]

theorem laneNeg_computes :
    Computes f (fun f _ x _ a => (if f.isFloat then x ^^^ 2 ^ (f.bits - 1) else f.ofInt (-f.int x), a)) fun _ x _ => -x := by
  intro rm x y a _ _
  simp only [hf.notFloat, Bool.false_eq_true, if_false]

omit hf in
theorem laneMov_computes : Computes f (fun _ _ x _ a => (x, a)) fun _ x _ => x := by
  intro rm x y a hx _
  simp only [ofInt_int hx]

end Operations

/-- VALU and VFN are masked operations on lanes. -/
theorem laneForm_vlanes {i : Instr} {p : LaneForm} (h : laneForm i = some p) (s : State) :
    exec i s = vlanes i p.d p.a p.b p.m p.z s p.op := by
  unfold laneForm at h
  split at h <;> cases h <;> rfl

theorem laneForm_result {i : Instr} {p : LaneForm} {s : State} (h : laneForm i = some p) (hi : issues s i) :
    exec i s = retires i (s.vresult p.d (Fmt.ofSz p.z).bits (lanes s p).1 (lanes s p).2 []) := by
  rw [laneForm_vlanes h]
  exact issue_done hi rfl

/-- Each form of VALU in an integer size is a masked operation, and what its lanes compute. -/
theorem vecInt_computes {i : Instr} {d a b : VReg} {m : MReg} {z : Sz} {g : Nat → Int → Int → Int}
    (h : vecInt i = some (d, a, b, m, z, g)) (hf : (Fmt.ofSz z).IsLaneInt) :
    ∃ op, laneForm i = some (.mk d a b m z op) ∧ Computes (Fmt.ofSz z) op g := by
  unfold vecInt at h
  split at h <;> cases h <;> refine ⟨_, rfl, ?_⟩
  case h_1 | h_2 | h_3 => exact laneArith_computes hf _ _
  case h_4 => exact laneMin_computes hf
  case h_5 => exact laneMax_computes hf
  case h_6 => exact laneMulh_computes
  case h_7 => exact laneSra_computes hf
  case h_8 => exact laneShl_computes hf
  case h_9 => exact laneShr_computes hf
  case h_10 => exact laneClamp_computes hf (· + ·)
  case h_11 => exact laneClamp_computes hf (· - ·)
  case h_12 => exact laneAbs_computes hf
  case h_13 => exact laneNeg_computes hf
  case h_14 => exact laneMov_computes

/-- The lanes of an operation on integers: no draw, no flag, and each element as R160 and R164 give it. -/
theorem lanes_of_computes {s : State} {p : LaneForm} {g : Nat → Int → Int → Int} (hf : (Fmt.ofSz p.z).IsLaneInt)
    (h : Computes (Fmt.ofSz p.z) p.op g) :
    let n := (Fmt.ofSz p.z).bits
    let int := fun (v : VReg) (j : Nat) => Int.bmod (element n (s.me.r.getV v) j) (2 ^ n)
    (lanes s p).2 = s.acc ∧ (lanes s p).1.length = 512 / n ∧ ∀ j, j < 512 / n → (lanes s p).1.getD j 0 =
      if s.me.r.active p.m n j then (g n (int p.a j) (int p.b j) % 2 ^ n).toNat else element n (s.me.r.getV p.d) j := by
  have hlane (j : Nat) (acc : Acc) :=
    h s.me.c.rm _ _ acc (elems_getD_lt _ (s.me.r.getV p.a) j) (elems_getD_lt _ (s.me.r.getV p.b) j)
  simp only [lanes, State.vec]
  refine ⟨?draws, ?count, fun j hj => ?lane⟩
  case draws => rw [sweep_pure hlane]
  case count => rw [sweep_pure hlane, List.length_map, List.length_zipIdx, elems_length]
  case lane =>
    rw [sweep_pure_getD hlane (by rwa [elems_length])]
    simp only [elems_getD _ _ hj, Fmt.ofInt_eq, int_eq_bmod hf (element_lt ..)]

/-- Settles O30: the lanes neither draw nor raise a flag, so the instruction writes vd and no more. -/
theorem vectorIntegerElements : Obligations.VectorIntegerElements := by
  intro i s d a b m z g h hi hq hz
  have hf := isLaneInt_ofSz hz
  obtain ⟨op, hform, hop⟩ := vecInt_computes h hf
  obtain ⟨hacc, hlen, helem⟩ := lanes_of_computes (s := s) (p := .mk d a b m z op) hf hop
  have hexec := laneForm_result hform hi
  rw [hacc] at hexec
  have hchange := vresult_change s d (Fmt.ofSz z).bits (lanes s (.mk d a b m z op)).1
  obtain ⟨hd, hregs⟩ := vresult_regs s d (Fmt.ofSz z).bits (lanes s (.mk d a b m z op)).1
  rw [← hchange.retire_r hq false none (ilen i)] at hd hregs
  refine ⟨_, hexec, hchange.retire_others hq .., hchange.retire_control hq .., hchange.retire_task hq .., fun j hj => ?_, hregs⟩
  rw [hd, element_ofElems hlen, helem j hj, Nat.mod_eq_of_lt]
  split
  · rw [← Fmt.ofInt_eq]
    exact ofInt_lt _ _
  · exact element_lt ..

end Sys2Proof.Machine
end
end

section
/-!
PROOFS. A precise exception of a user task (O8): the handler's request at its flight, and memory with the trap record and the kept
FMT word.
-/
noncomputable section
namespace Sys2Proof.Machine
open Sys2Proof.Safety

/-! ### The handler's request (R454, R487) -/

theorem onFlight_flight_same (s : State) (f : Nat) (g : Flight → Flight) : (s.onFlight f g).flight f = g (s.flight f) :=
  find_put_same ..

/-- A request stands with its flight, in the queue or waiting for room. -/
theorem request_queued (s : State) (r : Request) :
    ∃ q ∈ ((s.request r).flight r.flight).supq ++ ((s.request r).flight r.flight).supWait,
      q.trap = r.trap ∧ q.cause = r.cause ∧ q.tval = r.tval ∧ q.dom = r.dom ∧ q.code = r.code ∧ q.core = r.core ∧
        q.ctx = r.ctx := by
  rw [State.request, onFlight_flight_same]
  by_cases h : s.stamp.supRoom (s.stamp.flight r.flight) r.dom = true
  · rw [if_pos h]
    exact ⟨_, List.mem_append_left _ (List.mem_append_right _ (List.mem_singleton_self _)), rfl, rfl, rfl, rfl, rfl, rfl, rfl⟩
  · rw [if_neg h]
    exact ⟨_, List.mem_append_right _ (List.mem_append_right _ (List.mem_singleton_self _)), rfl, rfl, rfl, rfl, rfl, rfl, rfl⟩

/-! ### Memory as an exception is taken (R238, R452) -/

theorem natLe_length (n x : Nat) : (natLe n x).length = n := by
  induction n generalizing x with
  | zero => rfl
  | succ n ih => rw [natLe, List.length_cons, ih]

theorem recordBytes_length (cause xpc xpsw tval : Word) (bits code : Nat) (resume : Word) (serial : Nat) (dom : Dom) (ctx : Nat) :
    (recordBytes cause xpc xpsw tval bits code resume serial dom ctx).length = 64 := by
  simp [recordBytes, natLe_length]

/-- A pending FMT word goes to the save area, if there is one. -/
def State.prefixKept (s : State) : State := if s.me.c.pp then s.keepPrefix else s

theorem prefixKept_cases (s : State) : s.prefixKept = s ∨ ∃ p, s.me.c.pp = true ∧ wsKey s.cur s.me = some p ∧
    s.prefixKept = s.hwBytes (p + 0x550) (natLe 4 s.me.fmt.toNat) := by
  unfold State.prefixKept State.keepPrefix
  split
  · split
    · exact .inl rfl
    · exact .inr ⟨_, ‹_›, ‹_›, rfl⟩
  · exact .inl rfl

/-- Keeping it changes memory and what is kept of releases. -/
theorem prefixKept_stands (s : State) : logStands s s.prefixKept := by
  obtain h | ⟨p, -, -, h⟩ := prefixKept_cases s <;> rw [h]
  · rfl
  · exact hwBytes_stands ..

theorem prefixKept_wf {s : State} (h : Memory.wf s.mem = true) : Memory.wf s.prefixKept.mem = true := by
  obtain hkept | ⟨p, -, -, hkept⟩ := prefixKept_cases s <;> rw [hkept]
  · exact h
  · exact hwBytes_wf _ _ h

theorem prefixKept_outside {s : State} (h : Memory.wf s.mem = true) {k : Nat}
    (hk : s.me.c.pp = true → ∀ p, wsKey s.cur s.me = some p → k < p + 0x550 ∨ p + 0x554 ≤ k) :
    Memory.get s.prefixKept.mem k = Memory.get s.mem k := by
  obtain hkept | ⟨p, hpp, hp, hkept⟩ := prefixKept_cases s <;> rw [hkept]
  exact Memory.get_setBytes_outside _ _ _ _ h (by rw [natLe_length]; exact hk hpp p hp)

theorem prefixKept_bytes {s : State} (h : Memory.wf s.mem = true) (hpp : s.me.c.pp = true) {p : Nat}
    (hp : wsKey s.cur s.me = some p) : Memory.bytes s.prefixKept.mem (p + 0x550) 4 = natLe 4 s.me.fmt.toNat := by
  have hbytes := Memory.bytes_setBytes_same (natLe 4 s.me.fmt.toNat) s.mem (p + 0x550) h
  rw [natLe_length] at hbytes
  simp only [State.prefixKept, State.keepPrefix, if_pos hpp, hp]
  exact hbytes

/-- Bytes outside a write read as before. -/
theorem Memory.bytes_setBytes_outside {b : List Byte} {m : List Host.Cell} {a : Nat} (h : Memory.wf m = true) (n k : Nat)
    (hk : k + n ≤ a ∨ a + b.length ≤ k) : Memory.bytes (Memory.setBytes m a b) k n = Memory.bytes m k n := by
  induction n generalizing k with
  | zero => rfl
  | succ n ih =>
    rw [Memory.bytes, Memory.bytes, Memory.get_setBytes_outside b m a k h (by omega), ih (k + 1) (by omega)]

/-! ### Taking a precise exception (R451) -/

section Taking
variable {s : State} (hs : s.me.c.s = false) (c : Cause) (tval xpc resume : Word) (bits code : Nat)
include hs

/-- The trap record is written over memory in which the pending FMT word is kept. -/
theorem takeTrap_mem : (s.takeTrap c tval xpc resume bits code).mem =
    Memory.setBytes s.prefixKept.mem (s.recordKey s.cur) (recordBytes (BitVec.ofNat 64 c.code) xpc (s.me.c.psw.setWidth 64) tval
      bits code resume s.me.c.serial s.me.c.dom (numOf s.cur)) := by
  have hme := (prefixKept_stands s).me
  have hcur := (prefixKept_stands s).cur
  rw [State.takeTrap, if_neg (by simp [hs]), ← State.prefixKept]
  simp only [State.request, State.stamp, State.onFlight_mem, State.writeRecord, hme, hcur]

/-- The request names the trap and goes to the flight that serves the context. -/
theorem takeTrap_request : ∃ r ∈ ((s.takeTrap c tval xpc resume bits code).flight (s.servedBy s.cur)).supq ++
      ((s.takeTrap c tval xpc resume bits code).flight (s.servedBy s.cur)).supWait,
    r.trap = .ctx s.cur s.me.c.serial s.seq ∧ r.cause = c ∧ r.tval = tval ∧ r.dom = s.me.c.dom ∧
      r.code = BitVec.ofNat 12 code ∧ r.core = coreOf s.cur ∧ r.ctx = numOf s.cur := by
  have hme := (prefixKept_stands s).me
  have hcur := (prefixKept_stands s).cur
  have hseq : s.prefixKept.seq = s.seq := (congrArg State.seq (prefixKept_stands s) :)
  have hserved : s.prefixKept.servedBy s.cur = s.servedBy s.cur := (congrArg (State.servedBy · s.cur) (prefixKept_stands s) :)
  rw [State.takeTrap, if_neg (by simp [hs]), ← State.prefixKept]
  simp only [hme, hcur, hseq, hserved]
  exact request_queued ..

end Taking

/-- A trap is taken in a state that differs in its launches at most: a context that leaves an asleep wait is noted (R477). -/
theorem trapAt_takes (s : State) (i : Instr) (c : Cause) (tval : Word) (code : Nat) :
    ∃ l, s.trapAt i c tval code = State.takeTrap { s with launches := l } c (tvalOf c (s.me.bits i) tval) s.me.pc
      (if c = .trap ∨ c = .brk then s.me.pc + BitVec.ofNat 64 (ilen i) else s.me.pc) (s.me.bits i) code := by
  have hresume : (c == .trap || c == .brk) = decide (c = .trap ∨ c = .brk) := by cases c <;> rfl
  simp only [State.trapAt, hresume, decide_eq_true_eq]
  split
  · rw [State.noteWoke, onLaunch_stands]
    exact ⟨_, rfl⟩
  · exact ⟨s.launches, rfl⟩

theorem raise_complete {s : State} (h : s.behind = none) (i : Instr) (c : Cause) (tval : Word) (code : Nat) :
    s.raise i c tval code = s.trapAt i c tval code := by simp only [State.raise, h]

/-- Settles O8: the trap is `takeTrap`, whose record is the last write of memory, over the kept FMT word, and whose request is
the last change of the package. -/
theorem trapTakesTheException : Obligations.TrapTakesTheException := by
  intro i s c tval code hwf hbehind hs t a resume
  obtain ⟨l, htaken⟩ := trapAt_takes s i c tval code
  rw [← raise_complete hbehind] at htaken
  let u : State := { s with launches := l }
  change t = u.takeTrap c a s.me.pc resume (s.me.bits i) code at htaken
  have hme := takeTrap_me (s := u) hs c a s.me.pc resume (s.me.bits i) code
  have hmem := takeTrap_mem (s := u) hs c a s.me.pc resume (s.me.bits i) code
  have hreq := takeTrap_request (s := u) hs c a s.me.pc resume (s.me.bits i) code
  rw [← htaken] at hme hmem hreq
  have hkept : Memory.wf u.prefixKept.mem = true := prefixKept_wf (s := u) hwf
  rw [hme, hmem]
  refine ⟨rfl, rfl, rfl, rfl, ?record, fun k hk hpre => ?others, fun p hpp hp hapart => ?word, hreq⟩
  case record =>
    have hbytes := Memory.bytes_setBytes_same (recordBytes (BitVec.ofNat 64 c.code) s.me.pc (s.me.c.psw.setWidth 64) a
      (s.me.bits i) code resume s.me.c.serial s.me.c.dom (numOf s.cur)) _ (s.recordKey s.cur) hkept
    rw [recordBytes_length] at hbytes
    exact hbytes
  case others =>
    exact (Memory.get_setBytes_outside _ _ _ _ hkept (by rw [recordBytes_length]; exact hk)).trans
      (prefixKept_outside (s := u) hwf hpre)
  case word =>
    exact (Memory.bytes_setBytes_outside hkept 4 _ (by rw [recordBytes_length]; exact hapart)).trans
      (prefixKept_bytes (s := u) hwf hpp hp)

end Sys2Proof.Machine
end
end

section
/-!
PROOFS. Narrow conversions (O32): what a conversion under an FMT word comes to, and its elements.
-/
noncomputable section
namespace Sys2Proof.Machine
open Sys2Proof.Safety

/-! ### Conversions under an FMT word (R239, R247 to R251) -/

theorem exec_vpack (d a : VReg) (p : BitVec 3) (s : State) : exec (.vpack d a p) s = execVpack d a p s := rfl
theorem exec_vdeq (d a : VReg) (p : BitVec 3) (s : State) : exec (.vdeq d a p) s = execVdeq d a p s := rfl
theorem exec_vscale (d a : VReg) (s : State) : exec (.vscale d a) s = execVscale d a s := rfl
theorem exec_vqnt (d a b : VReg) (p : BitVec 3) (s : State) : exec (.vqnt d a b p) s = execVqnt d a b p s := rfl

theorem exec_vunpack {i : Instr} {d a : VReg} {base : Nat} (h : i = .vunpkLo d a ∧ base = 0 ∨ i = .vunpkHi d a ∧ base = 64)
    (s : State) : exec i s = vunpack i d a base s := by
  obtain ⟨rfl, rfl⟩ | ⟨rfl, rfl⟩ := h <;> rfl

/-- One element under an FMT word: its value times the scale that the word names, rounded once (R109, R120). -/
theorem convert_eq (x : Prefix) (r : Regs) (v : Val) (a : Acc) : x.convert r v a = a.round x.rm fun m =>
    (codeFmt x.fc).round x.sat m (v.scaled (if x.sc = 0 then none else some (r.getSc x.sc))) := by
  simp [Prefix.convert, Regs.scaleOf]

theorem cap_pos (f : Fmt) : 0 < f.cap := by cases f <;> decide

/-! ### Packed codes (R247, R248) -/

/-- The signed integer of an INT4 code, as a byte. -/
theorem int4_byte {e : Nat} (h : e < 16) : Fmt.int8.ofInt (Fmt.int4.int e) = (Int.bmod e 16 % 256).toNat := by
  have hint4 : Fmt.int4.IsLaneInt := ⟨rfl, rfl, by decide, by decide⟩
  rw [Fmt.ofInt_eq, int_eq_bmod hint4 h]
  rfl

theorem elems_getD_all (n : Nat) (v : Vec) (j : Nat) : (elems n v).getD j 0 = if j < 512 / n then element n v j else 0 := by
  split
  · exact elems_getD n v ‹_›
  · rw [List.getD_eq_getElem?_getD, List.getElem?_eq_none (by rw [elems_length]; omega)]
    rfl

/-- An entry of a list that is there. -/
theorem getD_of_lt {l : List Nat} {k : Nat} (h : k < l.length) : l.getD k 0 = l[k] :=
  List.getD_eq_getElem?_getD.trans (congrArg (Option.getD · 0) (List.getElem?_eq_getElem h))

/-- The codes of vd with part p replaced by the low n bits of bytes (R247). -/
def packInto (n p : Nat) (codes bytes : List Nat) : List Nat :=
  codes.mapIdx fun k old => if 64 * p ≤ k && k < 64 * p + 64 then bytes.getD (k - 64 * p) 0 % 2 ^ n else old

/-- The bytes of 64 codes from one on (R248). -/
def unpackFrom (f : Fmt) (base : Nat) (codes : List Nat) : List Nat :=
  (List.range 64).map fun k =>
    let e := codes.getD (base + k) 0
    if f == .int4 then Fmt.int8.ofInt (f.int e) else e

theorem packInto_element {n p k : Nat} (u v : Vec) (hk : k < 512 / n) : (packInto n p (elems n u) (elems 8 v)).getD k 0 =
    if 64 * p ≤ k ∧ k < 64 * p + 64 then element 8 v (k - 64 * p) % 2 ^ n else element n u k := by
  have hk' : k < (elems n u).length := by rwa [elems_length]
  have hold : (elems n u)[k] = element n u k := by rw [← elems_getD n u hk, getD_of_lt hk']
  rw [packInto, getD_of_lt (by rwa [List.length_mapIdx]), List.getElem_mapIdx, hold]
  simp only [Bool.and_eq_true, decide_eq_true_eq]
  split
  · rw [elems_getD 8 v (by omega)]
  · rfl

theorem unpackFrom_element {f : Fmt} {k : Nat} (base : Nat) (v : Vec) (hk : k < 64) :
    let e := if base + k < 512 / f.bits then element f.bits v (base + k) else 0
    (unpackFrom f base (elems f.bits v)).getD k 0 = if f = .int4 then (Int.bmod e 16 % 256).toNat else e := by
  intro e
  have hcode : (elems f.bits v).getD (base + k) 0 = e := elems_getD_all ..
  have hlt : e < 2 ^ f.bits := hcode ▸ elems_getD_lt ..
  rw [unpackFrom, getD_of_lt (by rwa [List.length_map, List.length_range]), List.getElem_map, List.getElem_range, hcode]
  by_cases h : f = .int4
  · subst h
    exact int4_byte hlt
  · rw [if_neg (by simpa using h), if_neg h]

/-! ### Scaled conversions (R249 to R251) -/

/-- A part of VDEQ that holds a code is one of those that the codes fill. -/
theorem deq_part {f g : Fmt} {p : Nat} (h : p * (512 / g.bits) < 512 / f.bits) : p < (f.cap + g.cap - 1) / g.cap := by
  have hg := cap_pos g
  change p * g.cap < f.cap at h
  rw [Nat.lt_div_iff_mul_lt hg]
  omega

/-- An element of VDEQ: the value of a code, or a zero past the last (R249). -/
theorem deq_lane (x : Prefix) (r : Regs) (v : Vec) (j : Nat) (acc : Acc) :
    let f := codeFmt x.fa
    x.convert r (if j < f.cap then elemVal f (r.getCb x.cb) ((elems f.bits v).getD j 0) else .num false 0 0) acc =
      acc.round x.rm fun m => (codeFmt x.fc).round x.sat m
        ((if j < 512 / f.bits then elemVal f (r.getCb x.cb) (element f.bits v j) else .num false 0 0).scaled
          (if x.sc = 0 then none else some (r.getSc x.sc))) := by
  intro f
  rw [convert_eq, Fmt.cap]
  by_cases h : j < 512 / f.bits
  · rw [if_pos h, if_pos h, elems_getD f.bits v h]
  · rw [if_neg h, if_neg h]

/-- An element of VSCALE, which names one format and a scale (R250). -/
theorem scale_lane {x : Prefix} (hc : x.fc = x.fa) (hsc : x.sc ≠ 0) (r : Regs) (v : Val) (acc : Acc) :
    x.convert r v acc = acc.round x.rm fun m => (codeFmt x.fa).round x.sat m (v.scaled (some (r.getSc x.sc))) := by
  rw [convert_eq, hc, if_neg hsc]

/-- Settles O32: each conversion is accepted under its hypotheses, and its elements are those of the masked sweep, one
conversion each. -/
theorem narrowConversions : Obligations.NarrowConversions := by
  refine ⟨fun d a p s hi hok => ?pack, fun i d a base s hform hi hok => ?unpack, fun d a p s hi => ?deq,
    fun d a s hi => ?scale, fun d a b p s hi => ?qnt⟩
  case pack =>
    refine ⟨packInto _ p.toNat (s.vec _ d) (s.vec 8 a), by simp [packInto, State.vec], fun k hk => packInto_element _ _ hk, ?_⟩
    rw [exec_vpack, execVpack, prefixed]
    exact issue_done hi (if_pos hok)
  case unpack =>
    refine ⟨unpackFrom _ base (s.vec _ a), by simp [unpackFrom], fun k hk => unpackFrom_element _ _ hk, ?_⟩
    rw [exec_vunpack hform, vunpack, prefixed]
    exact issue_done hi (if_pos hok)
  case deq =>
    intro x f g hb hf hg hp q
    have hok : ((f.isNarrow || f == .c4) && x.fb == x.fa && g.isWide && decide (p.toNat < (f.cap + g.cap - 1) / g.cap)) = true := by
      simp [hb, hf, hg, deq_part hp]
    rw [exec_vdeq, execVdeq, prefixed]
    refine issue_done hi ((if_pos hok).trans ?_)
    simp only [State.vec, deq_lane]
    rfl
  case scale =>
    intro x f hb hc hf hsc q
    have hok : (f.isWide && x.fb == x.fa && x.fc == x.fa && x.sc != 0) = true := by
      rw [hb, hc, hf, bne_iff_ne.mpr hsc]
      simp
    rw [exec_vscale, execVscale, prefixed]
    refine issue_done hi ((if_pos hok).trans ?_)
    simp only [x] at hc hsc
    simp only [scale_lane hc hsc, hc]
    rfl
  case qnt =>
    intro x f g n hb hf hg hp src q
    have hok : (f.isWide && x.fb == x.fa && g.isNarrow && decide (2 * n * p.toNat < g.cap)) = true := by
      rw [hb, hf, hg, decide_eq_true (show 2 * n * p.toNat < g.cap from hp)]
      simp
    rw [exec_vqnt, execVqnt, prefixed]
    refine issue_done hi ((if_pos hok).trans ?_)
    simp only [convert_eq]
    rfl

end Sys2Proof.Machine
end
end

section
/-!
PROOFS. LPRI (R218) and what it lets the vector stream do (O39).
-/
noncomputable section
namespace Sys2Proof.Machine
open Sys2Proof.Safety

/-! ### LPRI (R218) -/

theorem exec_lpri (p : BitVec 2) (w : BitVec 4) (s : State) : exec (.lpri p w) s = execLpri p w s := rfl

theorem lpri_retires {p : BitVec 2} {w : BitVec 4} {s : State} (hi : issues s (.lpri p w)) :
    exec (.lpri p w) s = retires (.lpri p w) ((s.onTask fun t => { t with prio := p, weight := w }).vectored []) := by
  rw [exec_lpri]
  exact issue_done hi rfl

theorem vectored_change (s : State) (l : List Opnd) : regsChange s (s.vectored l) := rfl

/-- The registers after LPRI are those that the vector stream leaves, as it does what can complete. -/
theorem lpri_registers {p : BitVec 2} {w : BitVec 4} {s t : State} (hi : issues s (.lpri p w)) (hq : quiet s)
    (h : exec (.lpri p w) s = .next t) :
    t.me.r = ((s.onTask fun t => { t with prio := p, weight := w }).vectored []).me.r := by
  rw [lpri_retires hi] at h
  cases h
  exact (vectored_change (s.onTask _) []).retire_r hq ..

/-- A task with the word of an LSTAT in q2, and in its vector stream the push of a younger VEXTR, which has waited for that word:
what LSTAT_START leaves until the vector streams go on (R41, R243). -/
def pushDue : State :=
  { State.reset with me := { Ctx.idle with
      st := .ready, r := Ctx.idle.r.setQ 2 [0]
      vs := [{ push := some (false, 1), cmd := none, later := none, pop0 := 0, pop1 := 0, age := 0 }] } }

theorem pushDue_issues : issues pushDue (.lpri 2 8) := ⟨by decide, by decide, by decide⟩

/-- The push takes place as LPRI goes by. -/
theorem pushDue_pushes : ((pushDue.onTask fun t => { t with prio := 2, weight := 8 }).vectored []).me.r.q2 = [0, 1] := by decide

/-- Refutes O39: LPRI is of the vector stream, so a push that has waited there, and now can complete, comes to q2 as it issues, and
the registers do not stand. -/
theorem not_loftCommandsEnterTheQueue : ¬ Obligations.LoftCommandsEnterTheQueue := by
  rintro ⟨-, -, -, hlpri, -⟩
  have hq : quiet pushDue := rfl
  obtain ⟨t, ht, -, -, hstand, -⟩ := hlpri 2 8 pushDue pushDue_issues hq rfl
  have hafter : pushDue.me.r.q2 = [0, 1] := by rw [← hstand, lpri_registers pushDue_issues hq ht, pushDue_pushes]
  exact absurd hafter (by decide)

end Sys2Proof.Machine
end
end

section
/-!
PROOFS. Messages (O41), FORK and JOIN (O42), and arrivals at a barrier counter (O43).
-/
noncomputable section
namespace Sys2Proof.Machine
open Sys2Proof.Safety

/-! ### Messages (R256, R276 to R278, R324, R325, R502) -/

theorem exec_sendMsg (d a b : WReg) (s : State) : exec (.sendMsg d a b) s = execSendMsg d a b s := rfl
theorem exec_senda (a b : WReg) (s : State) : exec (.senda a b) s = execSenda a b s := rfl

/-- An entry that the issuing task makes carries its domain, launch and group, and its core's colour. -/
theorem entryOf_cur (s : State) (entry p0 p1 p2 p3 : Word) (kind : TaskKind) :
    let e := s.entryOf s.cur entry p0 p1 p2 p3 kind
    e.dom = s.me.c.dom ∧ e.launch = s.me.t.launch ∧ e.group = s.me.t.group ∧ e.colour = s.colourOf e.sender := by
  simp [State.entryOf, ctx_cur]

/-- The message of the issuing task to a core of this package. -/
def State.messageTo (s : State) (a : Word) (core : Nat) : Entry :=
  { s.entryOf s.cur a (s.me.r.getO 0) (s.me.r.getO 1) (s.me.r.getO 2) (s.me.r.getO 3) .message with target := core }

/-- A core that has sent one more message of a colour (R471). -/
def Core.sentOne (x : Core) (colour : Bool) : Core :=
  if colour then { x with sent1 := x.sent1 + 1 } else { x with sent0 := x.sent0 + 1 }

theorem Core.sentOne_sum (x : Core) (colour : Bool) :
    (x.sentOne colour).sent0 + (x.sentOne colour).sent1 = x.sent0 + x.sent1 + 1 := by
  cases colour
  · exact Nat.add_right_comm ..
  · rfl

/-- A message within the package takes no port: it is on its way, and its sender counts it. -/
theorem post_here (s : State) (a : Word) (core : Nat) :
    s.post a s.chip.toNat core = (s.sendEntry (s.messageTo a core)).onCore (s.messageTo a core).sender
      (·.sentOne (s.messageTo a core).colour) := by
  have hchip : BitVec.ofNat 18 s.chip.toNat = s.chip := BitVec.ofNat_toNat ..
  simp only [State.post, hchip, beq_self_eq_true, if_true, Option.getD_none]
  rfl

/-- A send within the package to a queue with room does not wait (R276). -/
theorem sendTo_here {s : State} {core : Nat} (hroom : s.runqRoom (s.leadOf core) = true) (a b : Word) (k : State → Res) :
    s.sendTo a b s.chip.toNat core k = k (s.post a s.chip.toNat core) := by
  simp [State.sendTo, hroom]

theorem onCore_core_same (s : State) (c : Nat) (f : Core → Core) : (s.onCore c f).core c = f (s.core c) := find_put_same ..

/-- Settles O41: each send goes by its target, which is invalid, or of this package, where it takes no port. -/
theorem messagesLeave : Obligations.MessagesLeave := by
  refine ⟨fun d a b s core hi hgd hp htarget hroom => ?send, fun d a b s hi hgd hp htarget => ?invalid,
    fun a b s l core hi hgd hp hl hmember hroom => ?member, fun a b s hi hgd hp hl => ?noLaunch, fun s a core => ?posted⟩
  case send =>
    rw [exec_sendMsg]
    exact issue_done hi (by simp [hgd, hp, htarget, sendTo_here hroom])
  case invalid =>
    rw [exec_sendMsg]
    exact issue_done hi (by simp [hgd, hp, htarget])
  case member =>
    rw [exec_senda]
    exact issue_done hi (by simp [hgd, hp, hl, hmember, sendTo_here hroom])
  case noLaunch =>
    rw [exec_senda]
    exact issue_done hi (by simp [hgd, hp, hl])
  case posted =>
    obtain ⟨hdom, hlaunch, hgroup, hcolour⟩ :=
      entryOf_cur s a (s.me.r.getO 0) (s.me.r.getO 1) (s.me.r.getO 2) (s.me.r.getO 3) .message
    refine ⟨s.messageTo a core, ?_, rfl, rfl, rfl, rfl, rfl, rfl, hdom, hlaunch, hgroup, hcolour, ?_⟩
    · rw [post_here]; rfl
    · rw [post_here, onCore_core_same]; exact Core.sentOne_sum ..

/-! ### FORK and JOIN (R257, R280, R327) -/

theorem exec_forkT (a b : WReg) (s : State) : exec (.forkT a b) s = execForkT a b s := rfl
theorem exec_joinT (a b : WReg) (s : State) : exec (.joinT a b) s = execJoinT a b s := rfl

theorem aligned_of_mod {ea : Word} {n : Nat} (h : ea.toNat % n = 0) : aligned ea n = true := beq_iff_eq.mpr h

/-- An access to a record that completes goes on with what it read (R316). -/
theorem named_ok {α : Type} {m : Mem α} {x : α} {u : State} (h : m = .ok x u) (a : Word) (k : α → State → Res) :
    (m.naming a).then k = k x u := by
  subst h; rfl

/-- Settles O42: the one access to the join record completes, and what FORK and JOIN do then follows it. -/
theorem forkAndJoin : Obligations.ForkAndJoin := by
  refine ⟨fun a b s u old hi hgd hal hp hroom hrmw => ?fork, fun a b s u old hi hgd hal hend hrmw => ?join⟩
  case fork =>
    rw [exec_forkT]
    exact issue_done hi (by
      simp only [hgd, aligned_of_mod hal, hp, Nat.not_le.mpr hroom, State.recordAt, beq_iff_eq, named_ok hrmw]
      rfl)
  case join =>
    rw [exec_joinT]
    exact issue_whole hi (by
      simp only [hgd, aligned_of_mod hal, hend, State.recordAt, beq_iff_eq, named_ok hrmw]
      rfl)

/-! ### DONE (R258, R282, R283, R328) -/

theorem exec_doneB (a : WReg) (s : State) : exec (.doneB a) s = execDoneB a s := rfl

/-- An arrival at the counter b of number i of flight f: it counts, and outside the counter's scope it sets psw.XS (R258). -/
def State.arrivedAt (s : State) (f i : Nat) (b : Barrier) : State :=
  let t := s.onFlight f fun x => { x with barriers := put x.barriers i (b.arrive s.homeCore) }
  if inScope b.scope (2 ^ 20 + f) s.cur then t else t.onCsr (·.setXs)

/-- The counter that the issuing task binds to a record (R282). -/
def State.boundBarrier (s : State) (ra : Word) (r : BarrierRec) : Barrier :=
  { record := ra, launch := s.me.t.launch, dom := s.me.c.dom, asid := s.me.c.asid, ttb := s.me.c.ttb, scope := r.scope,
    arrivals := r.arrivals, count := r.arrivals, handler := r.handler, target := r.target, group := s.me.t.group, marks := [] }

theorem arrive_bound {s : State} {ra : Word} {f i : Nat} {b : Barrier}
    (hfind : findBarrier s.flights ra s.me.t.launch = some (f, i, b)) (hcount : b.count ≠ 0) (r : BarrierRec) :
    s.arrive ra r = .done (s.arrivedAt f i (b.load r)) := by
  simp only [State.arrive, hfind, beq_eq_false_iff_ne.mpr hcount]
  rfl

theorem arrive_binds {s : State} {ra : Word} {i : Nat} (hfind : findBarrier s.flights ra s.me.t.launch = none)
    (hsaved : s.savedBarrier ra s.me.t.launch = false)
    (hfree : freeCounter (s.flight (flightOf s.homeCore)).barriers = some i) (r : BarrierRec) :
    s.arrive ra r = .done (s.arrivedAt (flightOf s.homeCore) i (s.boundBarrier ra r)) := by
  simp only [State.arrive, hfind, hsaved, hfree]
  rfl

theorem Barrier.load_eq (b : Barrier) (r : BarrierRec) : b.load r = if b.marks = [] ∧ b.count = b.arrivals then
    { b with scope := r.scope, arrivals := r.arrivals, count := r.arrivals, handler := r.handler, target := r.target } else b := by
  simp [Barrier.load]

theorem Barrier.arrive_eq (b : Barrier) (core : Nat) : b.arrive core =
    { b with count := b.count - 1, marks := if core ∈ b.marks then b.marks else core :: b.marks } := by
  simp [Barrier.arrive]

/-- DONE whose record is read and well-formed counts as the state after the read says. -/
theorem doneB_arrives {a : WReg} {s u t : State} {y : List Byte} {r : BarrierRec} (hi : issues s (.doneB a))
    (hal : (s.w a).toNat % 64 = 0) (hp : s.hasParked = false) (hload : s.load (toCoreWindow s.homeCore (s.w a)) 64 = .ok y u)
    (hrec : barrierRec (wordsOf y) (((s.launch? s.me.t.launch).map (·.members.length)).getD 0) = some r)
    (harrive : u.arrive (toCoreWindow s.homeCore (s.w a)) r = .done t) : exec (.doneB a) s = retires (.doneB a) t := by
  rw [exec_doneB]
  exact issue_done hi (by
    simp only [aligned_of_mod hal, hp, State.recordAt, named_ok hload, hrec, harrive]
    rfl)

/-- Settles O43: the read of the record leaves the issuing context, so the arrival after it is the issuing task's. -/
theorem doneCountsAtTheBarrier : Obligations.DoneCountsAtTheBarrier := by
  intro a s u y r hi hal hp ra hload hrec counted seen
  obtain ⟨-, -, -, hme, -, hcur⟩ := load_ok hload
  have hcore : u.homeCore = s.homeCore := by rw [State.homeCore, hme, hcur]; rfl
  have hseen (f i : Nat) (b : Barrier) : u.arrivedAt f i b = seen f b.scope (counted f i b) := by
    simp only [State.arrivedAt, Barrier.arrive_eq, hcore, hcur]
    rfl
  refine ⟨fun f i b hfind hcount => ?bound, fun i hfind hsaved hfree => ?binds⟩
  case bound =>
    rw [← hme] at hfind
    have harrive := arrive_bound hfind hcount r
    rw [hseen, Barrier.load_eq] at harrive
    exact doneB_arrives hi hal hp hload hrec harrive
  case binds =>
    rw [← hme] at hfind hsaved
    rw [← hcore] at hfree
    have harrive := arrive_binds hfind hsaved hfree r
    rw [hseen, State.boundBarrier, hme, hcore] at harrive
    exact doneB_arrives hi hal hp hload hrec harrive

end Sys2Proof.Machine
end
end

section
/-!
PROOFS. What the host and other chips do at this package (O58).
-/
noncomputable section
namespace Sys2Proof.Machine
open Sys2Proof.Safety

/-! ### Other chips at this package (R289, R378, R492, R495) -/

theorem exec_timelineWake (k : Nat) (v st : Word) (s : State) :
    exec (.timelineWake k v st) s = execTimelineWake k v st s := rfl
theorem exec_remoteAtomic (chip : BitVec 18) (addr : Nat) (op : RemoteOp) (v : Word) (s : State) :
    exec (.remoteAtomic chip addr op v) s = execRemoteAtomic chip addr op v s := rfl
theorem exec_remoteAccess (chip : BitVec 18) (addr : Nat) (acc : RemoteAcc) (s : State) :
    exec (.remoteAccess chip addr acc) s = execRemoteAccess chip addr acc s := rfl

/-- The condition of R288, on words as numbers. -/
theorem tlMet_iff (value status threshold : Word) :
    tlMet value status threshold = true ↔ status.getLsbD 0 = true ∨ (value - threshold).toNat < 2 ^ 63 := by
  have hsign : (value - threshold).msb = false ↔ (value - threshold).toNat < 2 ^ 63 := by
    rw [BitVec.msb_eq_false_iff_two_mul_lt]
    omega
  simp only [tlMet, Bool.or_eq_true, Bool.not_eq_true', hsign]

/-- The same of the words at the places of a timeline. -/
theorem timelineMet_iff (s : State) (l : List Where) (threshold : Word) :
    s.timelineMet l threshold = true ↔ (BitVec.ofNat 64 (leNat ((s.peeks l).drop 8))).getLsbD 0 = true ∨
      (BitVec.ofNat 64 (leNat ((s.peeks l).take 8)) - threshold).toNat < 2 ^ 63 := tlMet_iff ..

/-- An answer to another chip that neither a bucket nor a port holds back leaves, charged to the owner of the page. -/
theorem answerTo_leaves {s : State} {chip : BitVec 18} {l : List Where} (hb : s.egBlocked (ownerOf l) 2 = none)
    (hp : s.portRoom chip = true) (i : Instr) (addr n : Nat) (t : State) :
    s.answerTo i chip addr n l t = ((t.unstall i).charge (ownerOf l) 2 n).respond chip := by
  simp [State.answerTo, hb, hp]

/-- A remote AMO of operation 0 and 64 bits adds (R318). -/
theorem remoteUpdate_add (s : State) (chip : BitVec 18) (rel : Option (BitVec 3)) (v : Word) (l : List Where) :
    s.remoteUpdate chip (.amo 0 false rel) v l =
      (s.pokes l (natLe 8 ((leNat (s.peeks l) + v.toNat) % 2 ^ 64))).chain s.rels l (rel.map (unitRel (chipAgent chip))) := by
  simp [State.remoteUpdate, remoteOp, remoteWidth, remoteAmo, remoteRelease]

section RemoteAtomic
variable {chip : BitVec 18} {addr : Nat} {op : RemoteOp} {s : State} {l : List Where} (hlink : s.linked chip = true)
  (hal : addr % remoteWidth op = 0) (hl : s.localPlaces addr (remoteWidth op) = some l) (hgood : s.linesBad l = none) (v : Word)
include hlink hal hl hgood

theorem remoteAtomic_signals (h : op = .tlsig) : exec (.remoteAtomic chip addr op v) s = .next (s.remoteUpdate chip op v l) := by
  subst h
  simp [exec_remoteAtomic, execRemoteAtomic, hlink, hal, hl, hgood]

theorem remoteAtomic_updates {o : BitVec 4} {w : Bool} {rel : Option (BitVec 3)} (h : op = .amo o w rel) :
    exec (.remoteAtomic chip addr op v) s = .next
      (s.answerTo (.remoteAtomic chip addr op v) chip addr (remoteWidth op) l (s.remoteUpdate chip op v l)) := by
  subst h
  simp [exec_remoteAtomic, execRemoteAtomic, hlink, hal, hl, hgood]

theorem remoteAtomic_held (h : op = .tlwait) (hmet : s.timelineMet l v = false) : exec (.remoteAtomic chip addr op v) s =
    .next { s with remoteWaits := s.remoteWaits ++ [{ chip := chip, addr := addr, threshold := v }] } := by
  subst h
  simp [exec_remoteAtomic, execRemoteAtomic, hlink, hal, hl, hgood, hmet]

theorem remoteAtomic_wakes (h : op = .tlwait) (hmet : s.timelineMet l v = true) : exec (.remoteAtomic chip addr op v) s =
    .next (s.answerTo (.remoteAtomic chip addr op v) chip addr (remoteWidth op) l s) := by
  subst h
  simp [exec_remoteAtomic, execRemoteAtomic, hlink, hal, hl, hgood, hmet]

end RemoteAtomic

theorem timelineWake_answers {k : Nat} {s : State} (h : (s.ctx k).st = .waiting .tlwaitRemote) (v st : Word) :
    exec (.timelineWake k v st) s = .next (s.setCtx k { s.ctx k with wokeBy := some (v, st) }) := by
  simp [exec_timelineWake, execTimelineWake, h]

theorem remoteAccess_reads {chip : BitVec 18} {addr n : Nat} {s : State} {l : List Where} (hlink : s.linked chip = true)
    (hl : s.localPlaces addr n = some l) : exec (.remoteAccess chip addr (.read n)) s =
      .next (s.answerTo (.remoteAccess chip addr (.read n)) chip addr n l s) := by
  simp [exec_remoteAccess, execRemoteAccess, hlink, hl]

/-- A write of a whole line seals it; any other merges into lines that must be good (R372, R501). -/
theorem remoteAccess_writes {chip : BitVec 18} {addr : Nat} {b : List Byte} {s : State} {l : List Where}
    (hlink : s.linked chip = true) (hl : s.localPlaces addr b.length = some l) {whole : Bool}
    (hwhole : (b.length == 64 && addr % 64 == 0) = whole) (hgood : whole = false → s.linesBad l = none)
    (rel : Option (BitVec 3)) : exec (.remoteAccess chip addr (.write b rel)) s =
      .next (((bif whole then l.foldl State.sealLine s else s).pokes l b).chain [] l (rel.map (unitRel (chipAgent chip)))) := by
  cases whole with
  | true => simp [exec_remoteAccess, execRemoteAccess, hlink, hl, hwhole]
  | false => simp [exec_remoteAccess, execRemoteAccess, hlink, hl, hwhole, hgood rfl]

/-! ### The aperture (R479, R481) -/

theorem exec_apertureAccess (fn : Nat) (addr : Word) (acc : HostAccess) (s : State) :
    exec (.apertureAccess fn addr acc) s = execApertureAccess fn addr acc s := rfl
theorem exec_apertureAtomicop (fn : Nat) (addr : Word) (op : HostAtomic) (s : State) :
    exec (.apertureAtomicop fn addr op) s = execApertureAtomicop fn addr op s := rfl
theorem exec_apertureDomainWrite (fn : Nat) (x : Word) (s : State) :
    exec (.apertureDomainWrite fn x) s = execApertureDomainWrite fn x s := rfl
theorem exec_registerWrite (fn offset : Nat) (x : Word) (s : State) :
    exec (.registerWrite fn offset x) s = execRegisterWrite fn offset x s := rfl

/-- An access that no bucket stalls and that the link carries goes on. -/
theorem hostGate_passes {s t : State} {i : Instr} {charges : List (Dom × Nat × Nat)} {l : List Where} {vc : BitVec 2}
    (hb : s.egFirst charges = none) (ht : ((s.unstall i).chargeAll charges).linkOut l vc 0 = some t) (addr : Word)
    (k : State → State) : s.hostGate i addr charges l vc k = k t := by
  simp only [State.hostGate, hb, ht]

section Aperture
variable {fn : Nat} {addr : Word} {s : State} (hup : s.host.up = true)
include hup

theorem apertureRead_aborts {n : Nat} (h : s.aperture fn addr .load n = none) (hbad : s.apertureBad fn addr .load n = none) :
    exec (.apertureAccess fn addr (.read n)) s = .next s.abort := by
  simp [exec_apertureAccess, execApertureAccess, hup, h, hbad, State.hostBad]

theorem apertureRead_answers {n : Nat} {l : List Where} {t : State} (h : s.aperture fn addr .load n = some l)
    (hb : s.egFirst (s.apertureEgress fn true false l) = none) (hgood : s.linesBad l = none)
    (ht : ((s.unstall (.apertureAccess fn addr (.read n))).chargeAll (s.apertureEgress fn true false l)).linkOut l 0 0 = some t) :
    exec (.apertureAccess fn addr (.read n)) s = .next (t.answer { abort := false, data := s.peeks l }) := by
  simp only [exec_apertureAccess, execApertureAccess, hup, h, hgood, hostGate_passes hb ht]
  rfl

theorem apertureWrite_aborts {b : List Byte} (h : s.aperture fn addr .store b.length = none)
    (hbad : s.apertureBad fn addr .store b.length = none) : exec (.apertureAccess fn addr (.write b)) s = .next s.abort := by
  simp [exec_apertureAccess, execApertureAccess, hup, h, hbad, State.hostBad]

theorem apertureWrite_answers {b : List Byte} {l : List Where} {t : State} (h : s.aperture fn addr .store b.length = some l)
    (hb : s.egFirst (s.apertureEgress fn false true l) = none)
    (hgood : s.linesBad (l.filter fun p => !(covers l p && !s.unreached p)) = none)
    (ht : ((s.unstall (.apertureAccess fn addr (.write b))).chargeAll (s.apertureEgress fn false true l)).linkOut l 0 0 = some t) :
    exec (.apertureAccess fn addr (.write b)) s = .next
      ((((l.filter fun p => covers l p && !s.unreached p).foldl State.sealLine t).pokes l b).answer { abort := false, data := [] }) := by
  simp only [exec_apertureAccess, execApertureAccess, hup, h, List.partition_eq_filter_filter, Function.comp_def, hgood,
    hostGate_passes hb ht]
  rfl

theorem apertureAtomicop_misaligned (h : addr.toNat % 8 ≠ 0) (op : HostAtomic) :
    exec (.apertureAtomicop fn addr op) s = .next s.abort := by
  simp [exec_apertureAtomicop, execApertureAtomicop, hup, h]

theorem apertureAtomicop_answers {op : HostAtomic} {l : List Where} {t : State} (hal : addr.toNat % 8 = 0)
    (hload : (s.aperture fn addr .load 8).isSome = true) (hstore : s.aperture fn addr .store 8 = some l)
    (hb : s.egFirst (s.apertureEgress fn true true l) = none) (hhost : ∀ p ∈ l, isHost p.key = false)
    (hgood : s.linesBad l = none)
    (ht : ((s.unstall (.apertureAtomicop fn addr op)).chargeAll (s.apertureEgress fn true true l)).linkOut l 2 0 = some t) :
    let old : Word := BitVec.ofNat 64 (leNat (s.peeks l))
    exec (.apertureAtomicop fn addr op) s = .next
      (((t.pokes l (natLe 8 (hostResult op old).toNat)).chain s.rels l none).answer { abort := false, data := natLe 8 old.toNat }) := by
  obtain ⟨m, hm⟩ := Option.isSome_iff_exists.mp hload
  have hnone : (l.any fun p => isHost p.key) = false := by simpa using hhost
  simp only [exec_apertureAtomicop, execApertureAtomicop, hup, hal, hm, hstore, hnone, hgood, hostGate_passes hb ht]
  rfl

theorem apertureDomainWrite_sets {x : Word} (hfn : fn ≤ 64) (h : s.fnHolds fn (x.extractLsb' 0 12) = true) :
    ∃ t, exec (.apertureDomainWrite fn x) s = .next t ∧ t.apDomain fn = x.extractLsb' 0 12 :=
  ⟨{ s with host := { s.host with apDom := put s.host.apDom fn (x.extractLsb' 0 12) } },
    by simp [exec_apertureDomainWrite, execApertureDomainWrite, hup, hfn, h], find_put_same ..⟩

/-! ### The registers of BAR 0 (R480, R482, R486) -/

/-- The base of a queue's ring is its first word (R482). -/
theorem registerWrite_queueBase {q : Nat} (hfn : fn ≤ 64) (hq : q < 16) (x : Word) :
    exec (.registerWrite fn (0x2000 + 64 * q) x) s =
      .next (s.setQueue (16 * fn + q) { s.queue (16 * fn + q) with base := x &&& ~~~ 0xFFF }) := by
  generalize ho : 0x2000 + 64 * q = o
  have hrange : 0x2000 ≤ o ∧ o < 0x2400 := by omega
  have hword : o % 8 = 0 := by omega
  have hqueue : (o - 0x2000) / 64 = q := by omega
  have hfield : o % 64 = 0 := by omega
  simp [exec_registerWrite, execRegisterWrite, hup, Nat.not_lt.mpr hfn, hrange, hword, hqueue, hfield, queueKey, SubQ.write]

/-- Period and slice of a partition that is off are the second word of its entry (R486). -/
theorem registerWrite_partTimes {p : Nat} (hp : p < 64) (hoff : (s.part p).enable = false) (x : Word) :
    exec (.registerWrite 0 (0x4000 + 256 * p + 8) x) s =
      .next (s.setPart p { s.part p with period := x.toNat % 2 ^ 32, slice := x.toNat / 2 ^ 32 }) := by
  generalize ho : 0x4000 + 256 * p + 8 = o
  have hrange : ¬ o < 0x2400 ∧ 0x4000 ≤ o ∧ o < 0x8000 := by omega
  have hword : o % 8 = 0 := by omega
  have hpart : (o - 0x4000) / 256 = p := by omega
  have hfield : o % 256 = 8 := by omega
  have hslice : x.toNat / 4294967296 % 4294967296 = x.toNat / 4294967296 := by omega
  simp [exec_registerWrite, execRegisterWrite, hup, hrange, hword, hpart, hfield, hoff, Part.write,
    Nat.shiftRight_eq_div_pow, hslice]

end Aperture

/-! ### Capacity moves (R488, R489) -/

theorem exec_moveOffer (block pair : Word) (s : State) : exec (.moveOffer block pair) s = execMoveOffer block pair s := rfl
theorem exec_moveCancel (s : State) : exec .moveCancel s = execMoveCancel s := rfl
theorem exec_removalAcknowledge (fn : Nat) (s : State) : exec (.removalAcknowledge fn) s = execRemovalAcknowledge fn s := rfl
theorem exec_scrubbingComplete (s : State) : exec .scrubbingComplete s = execScrubbingComplete s := rfl

/-- A message changes the host's side alone, and no move. -/
theorem msix_stands (s : State) (fn v : Nat) : (s.msix fn v).mem = s.mem ∧ (s.msix fn v).host.move = s.host.move := by
  unfold State.msix
  split <;> exact ⟨rfl, rfl⟩

/-- What the receiver of the move before an offer is told (R489). -/
def State.offerFrom (s : State) : State := if s.host.move.st = .added then s.msix (s.host.move.receiver + 1) 0 else s

/-- A move with its registers as an offer writes them. -/
def Move.offer (m : Move) (block pair : Word) : Move := { m with block := block, pair := pair, ofBlock := block, ofPair := pair }

theorem moveOffer_answers {s : State} (hup : s.host.up = true) (hopen : s.host.move.open = true) (block pair : Word) :
    let m := s.host.move.offer block pair
    exec (.moveOffer block pair) s = .next (if s.offerFrom.moveRefusal m = 0
      then (s.offerFrom.setMove { m with st := .offered, refusal := 0 }).msix (m.giver + 1) 0
      else s.offerFrom.setMove { m with st := .refused, refusal := s.offerFrom.moveRefusal m }) := by
  have hfrom : (if s.host.move.st == .added then s.msix (s.host.move.receiver + 1) 0 else s) = s.offerFrom := by
    simp [State.offerFrom]
  intro m
  simp only [exec_moveOffer, execMoveOffer, hup, hopen, hfrom]
  change (if (s.offerFrom.moveRefusal m != 0) = true then _ else _) = _
  by_cases hrefused : s.offerFrom.moveRefusal m = 0
  · simp only [hrefused, bne_self_eq_false, Bool.false_eq_true, if_false, if_true]
    rfl
  · simp only [if_neg hrefused, bne_iff_ne.mpr hrefused, if_true]
    rfl

section Offered
variable {s : State} (hup : s.host.up = true) (hst : s.host.move.st = .offered)
include hup hst

theorem moveCancel_cancels :
    exec .moveCancel s = .next ((s.setMove { s.host.move with st := .idle }).msix (s.host.move.giver + 1) 0) := by
  simp [exec_moveCancel, execMoveCancel, hup, hst]

/-- The giver's acknowledgement starts the scrubbing, unless the key of a page is gone. -/
theorem removalAcknowledge_decides : ∃ t, exec (.removalAcknowledge (s.host.move.giver + 1)) s = .next t ∧ t.mem = s.mem ∧
    t.host.move.st = if s.keylessPage s.host.move then .refused else .scrubbing := by
  rw [exec_removalAcknowledge, execRemovalAcknowledge]
  cases s.keylessPage s.host.move with
  | true =>
    simp only [hup, hst, beq_self_eq_true, Bool.and_self, if_true]
    obtain ⟨hmem, hmove⟩ := msix_stands (s.setMove { s.host.move with st := .refused, refusal := 2 }) (s.host.move.giver + 1) 0
    exact ⟨_, rfl, hmem, congrArg Move.st hmove⟩
  | false =>
    simp only [hup, hst, beq_self_eq_true, Bool.and_self, if_true, Bool.false_eq_true, if_false]
    refine ⟨_, rfl, (msix_stands ..).1, ?_⟩
    rw [(msix_stands ..).2]
    rfl

end Offered

theorem scrubbingComplete_gives {s : State} {k : Nat} (hst : s.host.move.st = .scrubbing)
    (hheld : ∀ p ∈ s.cores ++ s.liveImages.flatMap (·.cores), ∀ c ∈ p.2.eng.queue, ∀ h ∈ c.holding, s.inBlock h = false)
    (hroom : s.logShort (Config.dieOf s.host.move.base) 4096 = false) (hkey : keyOf s.keys 0 = some k) :
    exec .scrubbingComplete s = .next
      (((s.giveBlock s.host.move (sealNo k 0)).setMove { s.host.move with st := .added }).msix (s.host.move.receiver + 1) 0) := by
  have hnone : ((s.cores ++ s.liveImages.flatMap (·.cores)).any fun p =>
      p.2.eng.queue.any fun c => c.holding.any s.inBlock) = false := by
    simpa only [List.any_eq_false, Bool.not_eq_true] using hheld
  simp only [exec_scrubbingComplete, execScrubbingComplete, hst, hnone, hroom, hkey]
  rfl

/-! ### Buckets, checkpoints, debug and reports (R377, R379, R384, R385) -/

theorem exec_egressBucketRefill (dom : Dom) (cls : BitVec 2) (micros : Nat) (s : State) :
    exec (.egressBucketRefill dom cls micros) s = execEgressBucketRefill dom cls micros s := rfl
theorem exec_logCheckpointRequest (die : Nat) (s : State) :
    exec (.logCheckpointRequest die) s = execLogCheckpointRequest die s := rfl
theorem exec_debugAttach (port : Nat) (target : Dom) (s : State) :
    exec (.debugAttach port target) s = execDebugAttach port target s := rfl
theorem exec_attestationRequest (dom : Dom) (nonce : Vec) (s : State) :
    exec (.attestationRequest dom nonce) s = execAttestationRequest dom nonce s := rfl

/-- Settles O58: each event is read where the guards of its clause are met. What answers another chip leaves by `answerTo_leaves`,
and what the host asks for goes on by `hostGate_passes`; the words of a timeline meet a condition by `timelineMet_iff`. -/
theorem hostAndRemoteEvents : Obligations.HostAndRemoteEvents := by
  refine ⟨fun k v st s h => timelineWake_answers h v st,
    fun chip addr v s l hlink hal hl hgood => ⟨?signal, fun rel hb hp => ?amo⟩,
    fun chip addr v s l hlink hal hl hgood => ⟨fun hmet => ?held, fun hmet hb hp => ?wakes⟩,
    fun chip addr n s l hlink hl hb hp => ?read,
    fun chip addr b rel s l hlink hl => ⟨fun hlen haddr => ?line, fun hpart hgood => ?merged⟩,
    fun fn n addr s hup => ⟨apertureRead_aborts hup, fun l t h hb hgood ht => apertureRead_answers hup h hb hgood ht⟩,
    fun fn addr b s hup => ⟨apertureWrite_aborts hup, fun l t h hb hgood ht => apertureWrite_answers hup h hb hgood ht⟩,
    fun fn addr v e s hup => ⟨fun h => apertureAtomicop_misaligned hup h _,
      fun l hal hload hstore hb hhost hgood => ⟨fun t ht => ?add, fun t ht => ?swap, fun t ht => ?cas⟩⟩,
    fun fn x s hup hfn h => apertureDomainWrite_sets hup hfn h,
    fun fn q x s hup hfn hq => registerWrite_queueBase hup hfn hq x,
    fun p x s hup hp hoff => registerWrite_partTimes hup hp hoff x,
    fun block pair s hup hopen => moveOffer_answers hup hopen block pair,
    fun s hup hst => ⟨moveCancel_cancels hup hst, removalAcknowledge_decides hup hst⟩,
    fun s k hst hheld hroom hkey => scrubbingComplete_gives hst hheld hroom hkey,
    fun dom cls micros s b hfind hon => ?refill,
    fun die s hboot hdie hseq => ?checkpoint,
    fun port target s hboot hfull => ?attach,
    fun dom nonce s hboot hfirst hlast => ?report⟩
  case signal => exact remoteAtomic_signals hlink hal hl hgood v rfl
  case amo =>
    intro i
    rw [remoteAtomic_updates hlink hal hl hgood v rfl, answerTo_leaves hb hp, remoteUpdate_add]
    rfl
  case held =>
    exact remoteAtomic_held hlink hal hl hgood v rfl (by rwa [← Bool.not_eq_true, timelineMet_iff])
  case wakes =>
    exact (remoteAtomic_wakes hlink hal hl hgood v rfl ((timelineMet_iff ..).mpr hmet)).trans
      (congrArg _ (answerTo_leaves hb hp ..))
  case read => exact (remoteAccess_reads hlink hl).trans (congrArg _ (answerTo_leaves hb hp ..))
  case line => exact remoteAccess_writes hlink hl (whole := true) (by simp [hlen, haddr]) nofun rel
  case merged =>
    exact remoteAccess_writes hlink hl (whole := false) (by simpa [Decidable.imp_iff_not_or] using hpart) (fun _ => hgood) rel
  case add => exact apertureAtomicop_answers hup hal hload hstore hb hhost hgood ht
  case swap => exact apertureAtomicop_answers hup hal hload hstore hb hhost hgood ht
  case cas =>
    have h := apertureAtomicop_answers hup hal hload hstore hb hhost hgood ht
    simpa only [hostResult, beq_iff_eq] using h
  case refill => simp [exec_egressBucketRefill, execEgressBucketRefill, egKey, hfind, hon]
  case checkpoint => simp [exec_logCheckpointRequest, execLogCheckpointRequest, hboot, hdie, hseq]
  case attach => simp [exec_debugAttach, execDebugAttach, hboot, hfull]
  case report =>
    rw [exec_attestationRequest, execAttestationRequest, hboot, hfirst, hlast]
    rfl

end Sys2Proof.Machine
end
end

section
/-!
PROOFS. LAUNCH and timelines (O44); revocation, keys, SCRUB and EGSET (O50).
-/
noncomputable section
namespace Sys2Proof.Machine
open Sys2Proof.Safety

/-! ### LAUNCH (R285, R329) -/

theorem exec_launchI (d a : WReg) (s : State) : exec (.launchI d a) s = execLaunchI d a s := rfl

section Launch
variable {d a : WReg} {s : State} {l : Launch} (hi : issues s (.launchI d a)) (hgd : s.me.c.gd = 0)
  (hal : (s.w a).toNat % 64 = 0) (hp : s.hasParked = false) (hl : s.launch? s.me.t.launch = some l)
include hi hgd hal hp hl

theorem launchI_tooDeep (h : 8 ≤ l.depth) : exec (.launchI d a) s = retires (.launchI d a) (s.resultW d 1) := by
  rw [exec_launchI]
  exact issue_done hi (by simp [hgd, aligned_of_mod hal, hp, hl, h])

theorem launchI_noQuota (h : l.depth < 8) (hquota : l.quota ≤ l.children) :
    exec (.launchI d a) s = retires (.launchI d a) (s.resultW d 2) := by
  rw [exec_launchI]
  exact issue_done hi (by simp [hgd, aligned_of_mod hal, hp, hl, Nat.not_le.mpr h, hquota])

theorem launchI_queueFull (h : l.depth < 8) (hquota : l.children < l.quota) (hfull : 16 ≤ s.launchQueue.length) :
    exec (.launchI d a) s = retires (.launchI d a) (s.resultW d 3) := by
  rw [exec_launchI]
  exact issue_done hi (by simp [hgd, aligned_of_mod hal, hp, hl, Nat.not_le.mpr h, Nat.not_le.mpr hquota, hfull])

/-- The record of a child of the issuing task's launch l (R285). -/
def State.childOf (s : State) (l : Launch) (record : Word) : Child :=
  { record := record, dom := s.me.c.dom, asid := s.me.c.asid, ttb := s.me.c.ttb, parent := s.me.t.launch, depth := l.depth,
    parentDom := l.dom, process := l.process, part := l.part, seq := s.seq }

theorem launchI_queues (h : l.depth < 8) (hquota : l.children < l.quota) (hroom : s.launchQueue.length < 16) :
    exec (.launchI d a) s = retires (.launchI d a)
      ((((s.setLaunch s.me.t.launch { l with children := l.children + 1 }).pushChild (s.childOf l (s.w a))).stamp).resultW d
        0) := by
  rw [exec_launchI]
  exact issue_done hi (by
    simp [hgd, aligned_of_mod hal, hp, hl, Nat.not_le.mpr h, Nat.not_le.mpr hquota, Nat.not_le.mpr hroom, State.childOf])

end Launch

/-! ### Timelines (R288, R289, R330, R331) -/

theorem exec_tlsig (a b : WReg) (c : BitVec 3) (s : State) : exec (.tlsig a b c) s = execTlsig a b c s := rfl
theorem exec_tlwait (d a b : WReg) (c : BitVec 3) (s : State) : exec (.tlwait d a b c) s = execTlwait d a b c s := rfl

theorem then_ok {α : Type} {m : Mem α} {x : α} {u : State} (h : m = .ok x u) (k : α → State → Res) : m.then k = k x u := by
  subst h; rfl

theorem tlsig_adds {a b : WReg} {c : BitVec 3} {s u : State} {old : List Byte} (hi : issues s (.tlsig a b c))
    (hal : (s.w a).toNat % 16 = 0) (hp : s.hasParked = false)
    (h : s.rmw (s.w a) 8 (fun old => some (natLe 8 (leNat old + (s.w b).toNat))) = .ok old u) :
    exec (.tlsig a b c) s = retires (.tlsig a b c) (u.chain s.rels (u.relPlaces (s.w a) 8) (some (u.myRel c))) := by
  rw [exec_tlsig]
  exact issue_done hi (by simp [aligned_of_mod hal, hp, then_ok h])

/-- A timeline of this package whose words meet the condition: an acquire at the scope that the instruction names. -/
theorem tlwait_meets {d a b : WReg} {c : BitVec 3} {s u : State} {y : List Byte} (hi : issues s (.tlwait d a b c))
    (hal : (s.w a).toNat % 16 = 0) (hst : s.me.st ≠ .waiting .tlwaitRemote) (hload : s.load (s.w a) 16 = .ok y u)
    (hhere : u.isRemote (s.w a) = false)
    (hmet : tlMet (BitVec.ofNat 64 (leNat (y.take 8))) (BitVec.ofNat 64 (leNat (y.drop 8))) (s.w b) = true) :
    exec (.tlwait d a b c) s = retires (.tlwait d a b c)
      ((u.acquire u.rels (s.w a) 16 c).resultW d (tlResult (BitVec.ofNat 64 (leNat (y.drop 8))))) := by
  rw [exec_tlwait]
  exact issue_done hi (by simp [aligned_of_mod hal, hst, then_ok hload, hhere, hmet])

/-- A wake of another chip whose words meet the condition: an acquire at system scope (R289). -/
theorem tlwait_woken {d a b : WReg} {c : BitVec 3} {s : State} {value status : Word} (hi : issues s (.tlwait d a b c))
    (hal : (s.w a).toNat % 16 = 0) (hst : s.me.st = .waiting .tlwaitRemote) (hwoke : s.me.wokeBy = some (value, status))
    (hmet : tlMet value status (s.w b) = true) :
    let u : State := { s with me := { s.me with wokeBy := none } }
    exec (.tlwait d a b c) s = retires (.tlwait d a b c) ((u.acquire s.rels (s.w a) 16 4).resultW d (tlResult status)) := by
  rw [exec_tlwait]
  exact issue_done hi (by simp [aligned_of_mod hal, hst, hwoke, hmet])

/-- Settles O44: the answers of LAUNCH are its checks in their order, and a timeline's condition is `tlMet_iff`. -/
theorem launchesAndTimelines : Obligations.LaunchesAndTimelines := by
  refine ⟨fun d a s l hi hgd hal hp hl => ⟨launchI_tooDeep hi hgd hal hp hl, launchI_noQuota hi hgd hal hp hl,
      launchI_queueFull hi hgd hal hp hl, launchI_queues hi hgd hal hp hl⟩,
    fun a b c s u old hi hal hp hrmw => tlsig_adds hi hal hp hrmw,
    fun d a b c s u y hi hal hst hload hhere hmet => ?here,
    fun d a b c s value status hi hal hst hwoke hmet => ?woken⟩
  case here => exact tlwait_meets hi hal hst hload hhere ((tlMet_iff ..).mpr hmet)
  case woken => exact tlwait_woken hi hal hst hwoke ((tlMet_iff ..).mpr hmet)

/-! ### Revocation (R273, R341, R382, R393) -/

theorem exec_grevoke (d a : WReg) (s : State) : exec (.grevoke d a) s = execGrevoke d a s := rfl
theorem exec_grevokeKill (d a b : WReg) (s : State) : exec (.grevokeKill d a b) s = execGrevokeKill d a b s := rfl

theorem grevoke_revokes {s : State} (hroom : s.myLogFull = false) (d : WReg) (dom : Dom) :
    let r := s.revoke dom
    s.grevoke d dom =
      .done ((((r.2.2.endDomain dom).2).log 2 0 dom (BitVec.ofNat 64 r.1) (BitVec.ofNat 64 r.2.1) 0).resultW d 0) := by
  simp [State.grevoke, hroom]

/-- A domain with no launch has none to end. -/
theorem endDomain_none {s : State} {dom : Dom} (h : ∀ p ∈ s.launches, p.2.dom ≠ dom) : s.endDomain dom = (0, s) := by
  have hmine : (s.launches.filter fun p => p.2.dom == dom && p.2.ending.isNone) = [] :=
    List.filter_eq_nil_iff.mpr fun p hp => by simp [h p hp]
  simp only [State.endDomain, hmine]
  rfl

section Killed
variable {s : State} {dom : Dom} {frames launches : Nat} (hkill : s.me.kill = some (dom, frames, launches))
  (hlaunches : ∀ p ∈ s.launches, p.2.dom ≠ dom) (hframes : ∀ p ∈ s.allCtxs, ∀ f ∈ p.2.frames, f.callee ≠ dom)
  (hgates : ∀ p ∈ s.gates, p.2.callee ≠ dom)
include hlaunches hframes

theorem killWaits_none : s.killWaits dom = false := by
  simp only [State.killWaits, Bool.or_eq_false_iff, List.any_eq_false, beq_iff_eq, Bool.and_eq_true, List.any_eq_true, not_and,
    not_exists]
  exact ⟨hlaunches, fun p hp _ => hframes p hp⟩

include hkill hgates

/-- A kill has nothing more to do once no launch, no frame and no gate of its domain is left. -/
theorem killMore_none : s.killMore dom frames launches = s := by
  have hkept : (s.gates.filter fun p => p.2.callee != dom) = s.gates :=
    List.filter_eq_self.mpr fun p hp => bne_iff_ne.mpr (hgates p hp)
  have hfresh : (s.allCtxs.filter fun p => p.2.frames.any fun f => f.callee == dom && !f.discard) = [] :=
    List.filter_eq_nil_iff.mpr fun p hp => by
      simp only [List.any_eq_true, not_exists, not_and]
      exact fun f hf => by simp [hframes p hp f hf]
  simp only [State.killMore, hkept, hfresh, List.map_nil, State.revokeAll, endDomain_none hlaunches, Nat.add_zero, ← hkill]

theorem grevokeKill_completes {d a b : WReg} (hi : issues s (.grevokeKill d a b)) (hroom : s.logShort (ctxDie s.cur) 2 = false) :
    exec (.grevokeKill d a b) s = retires (.grevokeKill d a b) (s.killEnd d dom) := by
  rw [exec_grevokeKill]
  refine issue_done hi ?_
  simp only [hkill, killMore_none hkill hlaunches hframes hgates, State.killOn, killWaits_none hlaunches hframes, hroom]
  rfl

end Killed

theorem revocation_done {i : Instr} {d a b : WReg} {s : State}
    (h : i = .grevoke d a ∨ (i = .grevokeKill d a b ∧ s.me.kill = none ∧ s.w b = 0)) (hi : issues s i)
    (hp : s.hasParked = false) (hname : s.namesDomain (s.w a).toNat = true) (hroom : s.myLogFull = false) :
    let dom : Dom := BitVec.ofNat 12 (s.w a).toNat
    let r := s.revoke dom
    exec i s = retires i ((((r.2.2.endDomain dom).2).log 2 0 dom (BitVec.ofNat 64 r.1) (BitVec.ofNat 64 r.2.1) 0).resultW d 0) := by
  have hrevoke := grevoke_revokes hroom d (BitVec.ofNat 12 (s.w a).toNat)
  obtain rfl | ⟨rfl, hkill, hb⟩ := h
  · rw [exec_grevoke]
    refine issue_done hi (Eq.trans ?_ hrevoke)
    simp [hp, hname]
  · rw [exec_grevokeKill]
    refine issue_done hi (Eq.trans ?_ hrevoke)
    simp [hkill, hb, hp, hname]

/-! ### KACT (R376, R397) -/

theorem exec_kact (d a : WReg) (s : State) : exec (.kact d a) s = execKact d a s := rfl
theorem exec_kdeact (d a : WReg) (s : State) : exec (.kdeact d a) s = execKdeact d a s := rfl

theorem readsSent_stands {s u : State} {n : Nat} {l : List Read} (h : s.readsSent n l = some u) : loadStands s u := by
  induction l generalizing s with
  | nil => cases h; exact .refl _
  | cons p l ih =>
    obtain ⟨t, ht, hu⟩ := Option.bind_eq_some_iff.mp h
    exact (linkOut_stands ht).trans (ih hu)

theorem keepReads_stands (l : List Read) (s : State) :
    loadStands s (l.foldl (fun t p => t.keepTlbs t.who .load p.1 p.2.length) s) := by
  induction l generalizing s with
  | nil => exact .refl s
  | cons p l ih => exact (keepTlbs_stands ..).trans (ih _)

/-- The reads of KACT leave what a load does. -/
theorem readAll_stands {s u : State} {l : List Read} (h : s.readAll l = .ok () u) : loadStands s u := by
  unfold State.readAll at h
  replace h := egressGate_ok h
  split at h
  · cases h
  · rename_i t ht
    cases h
    exact ((chargeAll_stands ..).trans (readsSent_stands ht)).trans (keepReads_stands ..)

/-- A key is entered under the same number in every state with the same book. -/
theorem enterKey_congr {s t : State} (h : t.keyBook = s.keyBook) (k : BitVec 768) : (t.enterKey k).1 = (s.enterKey k).1 := by
  unfold State.enterKey
  rw [h]
  split <;> rfl

theorem enterKey_pot (s : State) (k : BitVec 768) : (s.enterKey k).2.pot = s.pot := by
  unfold State.enterKey
  split <;> rfl

/-- The slot of a key whose request names no descriptor and no range (R368, R376). -/
def plainSlot (dom : Dom) (key : Nat) (measurement : BitVec 512) (measured : Bool) : KeySlot :=
  { dom := dom, key := key, measurement := measurement, measured := measured, images := [] }

section Kact
variable {s t u : State} {ea : Word} {w : List Word} {blob : List Byte} {reads : List Read} {slot : Nat}
  (hname : s.namesDomain ((w.getD 1 0).extractLsb' 0 12 : Dom).toNat = true)
  (hreq : s.keyRequest ea w = .ok ⟨blob, [], [], reads⟩)
  (hslot : slotOf s.keys ((w.getD 1 0).extractLsb' 0 12) = none) (hfree : freeSlot s.keys 0 1024 = some slot)
  (hroom : s.myLogFull = false) (hreads : s.readAll reads = .ok () u) (d : WReg)
include hname hreq hslot hfree hreads

theorem kact_badBlob (hblob : openBlob ((w.getD 1 0).extractLsb' 0 12) blob = none) : s.kact t d ea w = .done (u.resultW d 5) := by
  simp only [State.kact, hname, hreq, hslot, hfree, hblob, then_ok hreads]
  rfl

include hroom

theorem kact_unmeasured {b : Blob} (hblob : openBlob ((w.getD 1 0).extractLsb' 0 12) blob = some b) (hb : b.measured = false) :
    s.kact t d ea w = .done (((u.enterKey b.key).2.activate slot
      (plainSlot ((w.getD 1 0).extractLsb' 0 12) (s.enterKey b.key).1 0 false)).resultW d 0) := by
  simp only [State.kact, hname, hreq, hslot, hfree, hblob, hb, hroom, then_ok hreads]
  rfl

/-- A measured activation without ranges freezes no page. -/
theorem kact_measured {b : Blob} (hblob : openBlob ((w.getD 1 0).extractLsb' 0 12) blob = some b) (hb : b.measured = true) :
    s.kact t d ea w = .done (if Config.sha512 [] ≠ b.expected then u.resultW d 6 else ((u.enterKey b.key).2.activate slot
      (plainSlot ((w.getD 1 0).extractLsb' 0 12) (s.enterKey b.key).1 (Config.sha512 []) true)).resultW d 0) := by
  have hread : s.kact t d ea w = if Config.sha512 [] != b.expected then .done (u.resultW d 6) else
      .done ((State.activate { (u.enterKey b.key).2 with pot := u.pot } slot
        (plainSlot ((w.getD 1 0).extractLsb' 0 12) (s.enterKey b.key).1 (Config.sha512 []) true)).resultW d 0) := by
    simp only [State.kact, hname, hreq, hslot, hfree, hblob, hb, hroom, List.flatMap_nil, List.map_nil, List.find?_nil,
      List.flatten_nil, List.append_nil, Bool.and_false, then_ok hreads]
    rfl
  rw [hread, ← enterKey_pot u b.key]
  by_cases hm : Config.sha512 [] = b.expected <;> simp [hm]

end Kact

/-- KACT of a request that is read and needs no descriptor and no range comes to what `State.kact` does. -/
theorem kact_comes {d a : WReg} {s v t : State} {y : List Byte} (hi : issues s (.kact d a)) (hp : s.hasParked = false)
    (hal : (s.w a).toNat % 64 = 0) (hload : s.load (s.w a) 64 = .ok y v)
    (h : s.kact v d (s.w a) (wordsOf y) = .done t) : exec (.kact d a) s = retires (.kact d a) t := by
  rw [exec_kact]
  exact issue_done hi (by simp [hp, aligned_of_mod hal, then_ok hload, h])

/-! ### KDEACT, SCRUB and EGSET (R373, R379, R398 to R400) -/

theorem exec_scrub (d a b : WReg) (s : State) : exec (.scrub d a b) s = execScrub d a b s := rfl
theorem exec_egset (d a b : WReg) (s : State) : exec (.egset d a b) s = execEgset d a b s := rfl

theorem kdeact_deactivates {d a : WReg} {s : State} {dom : Dom} (hi : issues s (.kdeact d a)) (hp : s.hasParked = false)
    (hname : s.namesDomain (s.w a).toNat = true) (hdom : BitVec.ofNat 12 (s.w a).toNat = dom)
    (hkey : (slotOf s.keys dom).isSome = true) (hlive : s.domLive dom = false) (hgates : ∀ p ∈ s.gates, p.2.callee ≠ dom)
    (hroom : s.myLogFull = false) :
    exec (.kdeact d a) s = retires (.kdeact d a) (((s.deactivate dom).log 4 0 dom (s.slotNo dom) 0 0).resultW d 0) := by
  have hslot : (slotOf s.keys dom).isNone = false := by simpa using hkey
  have hnone : (s.gates.any fun p => p.2.callee == dom) = false := by simpa using hgates
  rw [exec_kdeact]
  refine issue_done hi ?_
  simp only [hp, hname, hdom, hslot, hlive, hnone, hroom]
  rfl

/-- No bit at or above n of a number below 2^n is set. -/
theorem extractLsb'_high {w n : Nat} {x : BitVec w} (k : Nat) (h : x.toNat < 2 ^ n) : x.extractLsb' n k = 0 := by
  apply BitVec.eq_of_toNat_eq
  simp [Nat.shiftRight_eq_div_pow, Nat.div_eq_of_lt h]

theorem extractLsb'_two {w n : Nat} {x : BitVec w} (h : x.getLsbD n = false) (h' : x.getLsbD (n + 1) = false) :
    x.extractLsb' n 2 = 0 := by
  apply BitVec.eq_of_getLsbD_eq
  intro i hi
  obtain rfl | rfl : i = 0 ∨ i = 1 := by omega
  · simpa using h
  · simpa using h'

theorem scrub_scrubs {d a b : WReg} {s : State} {dom : Dom} (hi : issues s (.scrub d a b)) (hp : s.hasParked = false)
    (hname : s.namesDomain (s.w a).toNat = true) (hdom : BitVec.ofNat 12 (s.w a).toNat = dom)
    (hlive : (s.w b).getLsbD 1 = true ∨ (s.w b).getLsbD 2 = true → s.domLive dom = false) (hmask : (s.w b).toNat < 2 ^ 7) :
    exec (.scrub d a b) s = retires (.scrub d a b) ((s.scrubMask dom (s.w b)).resultW d 0) := by
  have hbusy : (((s.w b).getLsbD 1 || (s.w b).getLsbD 2) && s.domLive dom) = false := by
    rw [Bool.and_eq_false_imp, Bool.or_eq_true]
    exact hlive
  rw [exec_scrub]
  refine issue_done hi ?_
  simp only [hp, hname, hdom, hbusy, extractLsb'_high 57 hmask]
  rfl

/-- The bucket that the operands of EGSET describe, full (R379, R400). -/
def bucketOf (x y : Word) : Bucket :=
  { rate := y.toNat / 2 ^ 32, capacity := y.toNat % 2 ^ 32, fault := x.getLsbD 16, enable := x.getLsbD 17,
    level := (y.toNat % 2 ^ 32 : Nat) }

theorem egset_sets {d a b : WReg} {s : State} {dom : Dom} (hi : issues s (.egset d a b)) (hp : s.hasParked = false)
    (hdom : (s.w a).extractLsb' 0 12 = dom) (hname : s.namesDomain dom.toNat = true) (hfields : (s.w a).toNat < 2 ^ 18)
    (hbit14 : (s.w a).getLsbD 14 = false) (hbit15 : (s.w a).getLsbD 15 = false)
    (hon : (s.w a).getLsbD 17 = true → (s.w b).toNat % 2 ^ 32 ≠ 0 ∧ ∀ p ∈ s.gates, p.2.callee = dom → p.2.meter = true) :
    exec (.egset d a b) s = retires (.egset d a b)
      (State.resultW { s with egress := put s.egress (4 * dom.toNat + (s.w a).toNat / 2 ^ 12 % 4) (bucketOf (s.w a) (s.w b)) } d
        0) := by
  have hcap : ((s.w b).extractLsb' 0 32).toNat = (s.w b).toNat % 2 ^ 32 := by simp
  have hrate : ((s.w b).extractLsb' 32 32).toNat = (s.w b).toNat / 2 ^ 32 := by
    rw [BitVec.extractLsb'_toNat, Nat.shiftRight_eq_div_pow]
    omega
  have hcls : ((s.w a).extractLsb' 12 2).toNat = (s.w a).toNat / 2 ^ 12 % 4 := by
    rw [BitVec.extractLsb'_toNat, Nat.shiftRight_eq_div_pow]
  have hempty : ((s.w a).getLsbD 17 && (s.w b).toNat % 2 ^ 32 == 0) = false := by
    rw [Bool.and_eq_false_imp]
    exact fun h => beq_false_of_ne (hon h).1
  have hmeter : ((s.w a).getLsbD 17 && !((List.range 4).any fun c => (find s.egress (egKey dom c) .idle).enable) &&
      s.gates.any fun p => p.2.callee == dom && !p.2.meter) = false := by
    rw [Bool.and_eq_false_imp, Bool.and_eq_true]
    rintro ⟨h, -⟩
    rw [List.any_eq_false]
    exact fun p hp => by simpa using (hon h).2 p hp
  rw [exec_egset]
  refine issue_done hi ?_
  simp only [hp, hdom, hname, extractLsb'_two hbit14 hbit15, extractLsb'_high 46 hfields, hcap, hrate, hcls, hempty, hmeter]
  rfl

/-- Settles O50: every instruction's checks are passed in their order. A kill with nothing left of its domain ends as it stands
(`killMore_none`), and the reads of KACT leave the key book, so that the key's number is the one it had before them. -/
theorem revocationKeysAndMeters : Obligations.RevocationKeysAndMeters := by
  refine ⟨fun i d a b s h hi hp hname hroom => revocation_done h hi hp hname hroom,
    fun d a b s dom frames launches hi hkill hlaunches hframes hgates hroom =>
      grevokeKill_completes hkill hlaunches hframes hgates hi hroom,
    fun d a s u v y blob reads slot hi hp hal hload hname hreq hslot hfree hroom hreads => ?kact,
    fun d a s hi hp hname => kdeact_deactivates hi hp hname rfl,
    fun d a b s hi hp hname => scrub_scrubs hi hp hname rfl,
    fun d a b s hi hp => egset_sets hi hp rfl⟩
  case kact =>
    obtain ⟨hstands, -⟩ := readAll_stands hreads
    have hbook : u.keyBook = s.keyBook := (congrArg State.keyBook hstands :)
    cases hblob : openBlob (((wordsOf y).getD 1 0).extractLsb' 0 12) blob with
    | none => exact kact_comes hi hp hal hload (kact_badBlob hname hreq hslot hfree hreads d hblob)
    | some b =>
      have hkey := enterKey_congr hbook b.key
      cases hb : b.measured with
      | false =>
        refine (kact_comes hi hp hal hload (kact_unmeasured hname hreq hslot hfree hroom hreads d hblob hb)).trans ?_
        simp only [hb, ← hkey, State.activate, plainSlot, Bool.false_eq_true, false_and, if_false]
      | true =>
        refine (kact_comes hi hp hal hload (kact_measured hname hreq hslot hfree hroom hreads d hblob hb)).trans ?_
        simp only [hb, ← hkey, State.activate, plainSlot, true_and, if_true]

end Sys2Proof.Machine
end
end

section
/-!
PROOFS. The canonical form (O4): the parts of a state on which it depends and the few operations that write them; then that the log,
accesses to memory, the ends of tasks, traps and the frame of a meaning keep it.
-/
noncomputable section
namespace Sys2Proof.Safety
open Sys2Proof.Machine

/-! ### What the canonical form depends on -/

section Basics
variable {s t : State}

/-- The form is a matter of the memory, of the contexts' table and of the issuing context's key. -/
theorem canonical.of_eq (h : canonical s) (hmem : t.mem = s.mem) (hctxs : t.ctxs = s.ctxs) (hcur : t.cur = s.cur) :
    canonical t := by
  unfold canonical tidy
  rw [hmem, hctxs, hcur]
  exact h

/-- Memory that is well formed may take the memory's place. -/
theorem canonical.withMem (h : canonical s) (hmem : Memory.wf t.mem = true) (hctxs : t.ctxs = s.ctxs) (hcur : t.cur = s.cur) :
    canonical t := by
  unfold canonical tidy
  rw [hctxs, hcur]
  exact ⟨hmem, h.2⟩

/-- The contexts may change where they stand. -/
theorem canonical.withCtxs (h : canonical s) (hmem : Memory.wf t.mem = true) (hkeys : t.ctxs.map (·.1) = s.ctxs.map (·.1))
    (hcur : t.cur = s.cur) : canonical t := by
  obtain ⟨-, hsorted, hother⟩ := h
  refine ⟨hmem, by rwa [hkeys], fun p hp => ?_⟩
  have : p.1 ∈ s.ctxs.map (·.1) := hkeys ▸ List.mem_map_of_mem hp
  obtain ⟨q, hq, hqp⟩ := List.mem_map.mp this
  rw [hcur, ← hqp]
  exact hother q hq

end Basics

/-! ### The table of contexts -/

theorem mem_put {α : Type} {l : List (Nat × α)} {k : Nat} {x : α} {p : Nat × α} (h : p ∈ put l k x) : p = (k, x) ∨ p ∈ l := by
  induction l with
  | nil => exact .inl (List.mem_singleton.mp h)
  | cons q r ih =>
    unfold put at h
    split at h
    · exact (List.mem_cons.mp h).imp_right (List.mem_cons_of_mem _)
    · split at h
      · exact List.mem_cons.mp h
      · rcases List.mem_cons.mp h with rfl | h
        · exact .inr List.mem_cons_self
        · exact (ih h).imp_right (List.mem_cons_of_mem _)

/-- An entry is put at its place among rising keys. -/
theorem put_sorted {α : Type} {l : List (Nat × α)} (k : Nat) (x : α) (h : (l.map (·.1)).Pairwise (· < ·)) :
    ((put l k x).map (·.1)).Pairwise (· < ·) := by
  induction l with
  | nil => exact List.pairwise_singleton ..
  | cons q r ih =>
    obtain ⟨j, y⟩ := q
    rw [List.map_cons, List.pairwise_cons] at h
    obtain ⟨hj, hr⟩ := h
    unfold put
    split
    · rename_i e
      obtain rfl := beq_iff_eq.mp e
      exact List.pairwise_cons.mpr ⟨hj, hr⟩
    · split
      · rename_i hk
        refine List.pairwise_cons.mpr ⟨fun a ha => ?_, List.pairwise_cons.mpr ⟨hj, hr⟩⟩
        rcases List.mem_cons.mp ha with rfl | ha
        · exact hk
        · exact Nat.lt_trans hk (hj a ha)
      · rename_i hne hk
        refine List.pairwise_cons.mpr ⟨fun a ha => ?_, ih hr⟩
        obtain ⟨p, hp, rfl⟩ := List.mem_map.mp ha
        rcases mem_put hp with rfl | hp
        · have : j ≠ k := fun e => hne (beq_iff_eq.mpr e)
          show j < k
          omega
        · exact hj _ (List.mem_map_of_mem hp)

theorem drop_sorted {α : Type} {l : List (Nat × α)} (k : Nat) (h : (l.map (·.1)).Pairwise (· < ·)) :
    ((drop l k).map (·.1)).Pairwise (· < ·) :=
  h.sublist (List.filter_sublist.map _)

theorem ne_of_mem_drop {α : Type} {l : List (Nat × α)} {k : Nat} {p : Nat × α} (h : p ∈ drop l k) : p.1 ≠ k := by
  simpa using (List.mem_filter.mp h).2

section Contexts
variable {s : State}

theorem canonical.setCtx {k : Nat} {c : Ctx} (h : canonical s) : canonical (s.setCtx k c) := by
  obtain ⟨hmem, hsorted, hother⟩ := h
  unfold State.setCtx
  split
  · exact ⟨hmem, hsorted, hother⟩
  · rename_i hk
    refine ⟨hmem, put_sorted k c hsorted, fun p hp => ?_⟩
    rcases mem_put hp with rfl | hp
    · simpa using hk
    · exact hother p hp

theorem canonical.focus {k : Nat} (h : canonical s) : canonical (s.focus k) := by
  obtain ⟨hmem, hsorted, hother⟩ := h
  unfold State.focus
  split
  · exact ⟨hmem, hsorted, hother⟩
  · rename_i hk
    refine ⟨hmem, put_sorted _ _ (drop_sorted k hsorted), fun p hp => ?_⟩
    rcases mem_put hp with rfl | hp
    · exact fun e => hk (beq_iff_eq.mpr (Eq.symm e))
    · exact ne_of_mem_drop hp

end Contexts

/-! ### The parts on which the form does not depend -/

section Setters
variable {s : State}

theorem canonical.setCore {n : Nat} {x : Core} (h : canonical s) : canonical (s.setCore n x) := h
theorem canonical.onCore {n : Nat} {f : Core → Core} (h : canonical s) : canonical (s.onCore n f) := h
theorem canonical.setGcore {n : Nat} {x : GCore} (h : canonical s) : canonical (s.setGcore n x) := h
theorem canonical.setFlight {n : Nat} {x : Flight} (h : canonical s) : canonical (s.setFlight n x) := h
theorem canonical.onFlight {n : Nat} {f : Flight → Flight} (h : canonical s) : canonical (s.onFlight n f) := h
theorem canonical.setLoft {n : Nat} {x : Loft} (h : canonical s) : canonical (s.setLoft n x) := h
theorem canonical.setDie {n : Nat} {x : Die} (h : canonical s) : canonical (s.setDie n x) := h
theorem canonical.setPart {n : Nat} {x : Part} (h : canonical s) : canonical (s.setPart n x) := h
theorem canonical.setLaunch {n : Nat} {x : Launch} (h : canonical s) : canonical (s.setLaunch n x) := h

theorem canonical.onLaunch {n : Nat} {f : Launch → Launch} (h : canonical s) : canonical (s.onLaunch n f) := by
  unfold State.onLaunch
  split
  · exact h
  · exact h

theorem canonical.onCsr {f : Csr → Csr} (h : canonical s) : canonical (s.onCsr f) := h
theorem canonical.onRegs {f : Regs → Regs} (h : canonical s) : canonical (s.onRegs f) := h
theorem canonical.onTask {f : Task → Task} (h : canonical s) : canonical (s.onTask f) := h
theorem canonical.waiting {w : Wait} (h : canonical s) : canonical (s.waiting w) := h
theorem canonical.stamp (h : canonical s) : canonical s.stamp := h
theorem canonical.forgetRels {lo n : Nat} (h : canonical s) : canonical (s.forgetRels lo n) := h

end Setters

/-! ### Choices, folds and optional states -/

section Shapes
variable {s t : State}

theorem canonical.ite {c : Prop} [Decidable c] (hs : canonical s) (ht : canonical t) : canonical (if c then s else t) := by
  split
  · exact hs
  · exact ht

theorem canonical.foldl {α : Type} {f : State → α → State} {l : List α} (hf : ∀ s x, canonical s → canonical (f s x))
    (h : canonical s) : canonical (l.foldl f s) := by
  induction l generalizing s with
  | nil => exact h
  | cons x r ih => exact ih (hf s x h)

/-- The state that an operation comes to, if it comes to one, is canonical. -/
def optCanonical (o : Option State) : Prop := ∀ t, o = some t → canonical t

theorem optCanonical.some (h : canonical s) : optCanonical (some s) := fun _ e => Option.some.inj e ▸ h
theorem optCanonical.none : optCanonical none := fun _ e => nomatch e

theorem canonical.getD {o : Option State} (h : canonical s) (ho : optCanonical o) : canonical (o.getD s) := by
  cases o with
  | none => exact h
  | some t => exact ho t rfl

end Shapes

/-! ### One byte of memory, and the registers that stand in it (R32, R34) -/

section Access
variable {s : State}

theorem canonical.keepTlbs {w : Who} {k : Kind} {a : Word} {n : Nat} (h : canonical s) : canonical (s.keepTlbs w k a n) :=
  h.of_eq (keepTlbs_mem ..) (keepTlbs_ctxs ..) (keepTlbs_cur ..)

theorem canonical.shareRegs {k : Nat} (h : canonical s) : canonical (s.shareRegs k) := by
  unfold State.shareRegs
  split
  · exact h
  · exact .foldl (fun _ _ h => .setCtx h) h

theorem canonical.forgetRel {k : Nat} (h : canonical s) : canonical (s.forgetRel k) := .ite h h

theorem canonical.regsOut {k : Nat} (h : canonical s) : canonical (s.regsOut k) := by
  have hshared : canonical (s.shareRegs k) := .shareRegs h
  exact .ite hshared (.ite hshared hshared)

theorem canonical.poke {k : Nat} {b : Byte} (h : canonical s) : canonical (s.poke k b) := by
  have hrel : canonical (s.forgetRel k) := .forgetRel h
  have hset : Memory.wf (Memory.set (s.forgetRel k).mem k b) = true := Memory.wf_set _ _ _ hrel.1
  unfold State.poke
  dsimp only
  split
  · split
    · exact hrel.withMem hset rfl rfl
    · exact .foldl (fun _ _ h => .setCtx h) hrel
  · exact .ite hrel (hrel.withMem hset rfl rfl)

theorem canonical.pokes {l : List Where} {b : List Byte} (h : canonical s) : canonical (s.pokes l b) := by
  induction l generalizing s b with
  | nil => exact h
  | cons p l ih =>
    cases b with
    | nil => exact h
    | cons x r => exact ih (.poke h)

theorem canonical.sealLine {p : Where} (h : canonical s) : canonical (s.sealLine p) := by
  obtain ⟨hmem, -, hctxs, hcur⟩ := sealLine_frame s p
  exact h.of_eq hmem hctxs hcur

theorem canonical.sealLines {l : List Where} (h : canonical s) : canonical (l.foldl State.sealLine s) :=
  .foldl (fun _ _ h => .sealLine h) h

end Access

/-! ### The access log and the link (R382 to R385, R492) -/

section Log
variable {s : State}

theorem canonical.hwBytes {k : Nat} {b : List Byte} (h : canonical s) : canonical (s.hwBytes k b) :=
  h.withMem (hwBytes_wf k b h.1) rfl rfl

theorem canonical.addCheckpoint {die : Nat} (h : canonical s) : canonical (s.addCheckpoint die) := .setDie (.hwBytes h)

theorem canonical.logAt {die who : Nat} {gond : Bool} {code : Nat} {acting other : Dom} {a0 a1 a2 : Word} (h : canonical s) :
    canonical (s.logAt die who gond code acting other a0 a1 a2) :=
  h.withMem (logAt_wf die who gond code acting other a0 a1 a2 h.1)
    (congrArg State.ctxs (logAt_stands s die who gond code acting other a0 a1 a2) :)
    (congrArg State.cur (logAt_stands s die who gond code acting other a0 a1 a2) :)

theorem canonical.logRec {die : Nat} {r : LogRec} (h : canonical s) : canonical (s.logRec die r) := .logAt h

theorem canonical.logLater {die : Nat} {r : LogRec} (h : canonical s) : canonical (s.logLater die r) := .ite h (.logRec h)

theorem canonical.logsOn {die : Nat} {l : List LogRec} (h : canonical s) : canonical (s.logsOn die l) := by
  induction l generalizing s with
  | nil => exact h
  | cons r l ih =>
    have hempty : canonical (s.setDie die { s.die die with log := { (s.die die).log with waiting := [] } }) := h
    exact .ite h (ih (hempty.logRec (die := die) (r := r)))

theorem canonical.log {code : Nat} {acting other : Dom} {a0 a1 a2 : Word} (h : canonical s) :
    canonical (s.log code acting other a0 a1 a2) := .logAt h

theorem canonical.noteError {c : Cause} {key : Nat} (h : canonical s) : canonical (s.noteError c key) := .ite h h

theorem canonical.logMacAt {die who : Nat} {gond : Bool} {acting : Dom} {c : Cause} {key : Nat} {owner : Dom} (h : canonical s) :
    canonical (s.logMacAt die who gond acting c key owner) := .ite (.logAt (.noteError h)) (.noteError h)

theorem canonical.hwMac {die who : Nat} {gond : Bool} {acting : Dom} {c : Cause} {key : Nat} {owner : Dom} (h : canonical s) :
    canonical (s.hwMac die who gond acting c key owner) := .ite (.logLater (.noteError h)) (.noteError h)

theorem canonical.noteTable {die who : Nat} {acting : Dom} {pa : Nat} (h : canonical s) :
    canonical (s.noteTable die who acting pa) := by
  unfold State.noteTable
  split
  · exact h
  · exact .hwMac h

theorem canonical.logMacOf {k : Nat} {acting : Dom} {c : Cause} {key : Nat} {owner : Dom} (h : canonical s) :
    canonical (s.logMacOf k acting c key owner) := .logMacAt h

theorem canonical.logMac {c : Cause} {key : Nat} {owner : Dom} (h : canonical s) : canonical (s.logMac c key owner) := .logMacOf h

theorem canonical.charge {d : Dom} {c n : Nat} (h : canonical s) : canonical (s.charge d c n) :=
  h.of_eq (charge_mem ..) (charge_ctxs ..) (charge_cur ..)

theorem canonical.chargeAll {l : List (Dom × Nat × Nat)} (h : canonical s) : canonical (s.chargeAll l) :=
  h.of_eq (chargeAll_mem ..) (chargeAll_ctxs ..) (chargeAll_cur ..)

theorem optCanonical.linkOut {l : List Where} {vc : BitVec 2} {n : Nat} (h : canonical s) : optCanonical (s.linkOut l vc n) :=
  fun t ht => by
    obtain ⟨hs, -⟩ := linkOut_stands ht
    exact h.of_eq (congrArg State.mem hs :) (congrArg State.ctxs hs :) (congrArg State.cur hs :)

theorem canonical.respond {chip : BitVec 18} (h : canonical s) : canonical (s.respond chip) := by
  unfold State.respond
  split
  · exact h
  · exact h

end Log

/-! ### Accesses of the issuing context (R138 to R141) -/

/-- Every state that an access comes to is canonical. -/
def memCanonical {α : Type} : Mem α → Prop
  | .ok _ s | .trap _ _ s | .park _ s | .fatal _ _ s | .wait _ s => canonical s

section Accesses
variable {s t : State} {α : Type}

theorem memCanonical.of_eq {m n : Mem α} (h : memCanonical m) (e : m = n) : memCanonical n := e ▸ h

theorem memCanonical.ite {c : Prop} [Decidable c] {m n : Mem α} (hm : memCanonical m) (hn : memCanonical n) :
    memCanonical (if c then m else n) := by
  split
  · exact hm
  · exact hn

theorem memCanonical.egressGate {ea : Word} {l : List (Dom × Nat × Nat)} {k : State → Mem α} (h : canonical s)
    (hk : ∀ t, canonical t → memCanonical (k t)) : memCanonical (s.egressGate ea l k) := by
  unfold State.egressGate
  split
  · split
    · exact h
    · exact .ite h (.log h)
  · exact .ite h (.ite h (.log h))
  · exact hk _ (.chargeAll h)

theorem memCanonical.overLink {l : List Where} {vc : BitVec 2} {k : State → Mem α} (h : canonical s) (h0 : canonical t)
    (hk : ∀ t, canonical t → memCanonical (k t)) : memCanonical (s.overLink t l vc k) := by
  unfold State.overLink
  split
  · exact hk _ (optCanonical.linkOut h _ ‹_›)
  · exact h0

theorem memCanonical.badMem {c : Cause} {k : Nat} {o : Dom} {ea : Word} (h : canonical s) (h1 : canonical t) :
    memCanonical (s.badMem t c k o ea : Mem α) := .ite h (.logMac h1)

theorem memCanonical.refused {c : Cause} {a : Word} (h : canonical s) : memCanonical (s.refused c a : Mem α) := by
  unfold State.refused
  split
  · exact h
  · split
    · exact .badMem h h
    · exact h

theorem memCanonical.load {ea : Word} {n : Nat} (h : canonical s) : memCanonical (s.load ea n) := by
  unfold State.load
  split
  · exact h
  · split
    · exact .refused h
    · refine .ite h (.egressGate h fun t ht => .overLink ht h fun u hu => ?_)
      split
      · exact .badMem h hu
      · exact .keepTlbs hu

theorem memCanonical.storeAt {ea : Word} {l : List Where} {b : List Byte} (h : canonical s) (h0 : canonical t) :
    memCanonical (s.storeAt t ea l b) := by
  unfold State.storeAt
  dsimp only
  split
  · exact .badMem h0 h
  · exact .keepTlbs (.pokes (.ite (.sealLines h) h))

theorem memCanonical.store {ea : Word} {b : List Byte} (h : canonical s) : memCanonical (s.store ea b) := by
  unfold State.store
  split
  · exact h
  · split
    · exact .ite h (.refused h)
    · exact .ite h (.egressGate h fun t ht => .overLink ht h fun u hu => .storeAt hu h)

theorem memCanonical.rmw {ea : Word} {n : Nat} {f : List Byte → Option (List Byte)} (h : canonical s) :
    memCanonical (s.rmw ea n f) := by
  unfold State.rmw
  split
  · exact h
  · split
    · exact .refused h
    · refine .ite h (.ite h ?_)
      dsimp only
      split
      · refine .egressGate h fun t ht => .overLink ht h fun u hu => ?_
        split
        · exact .badMem h hu
        · exact .keepTlbs hu
      · refine .egressGate h fun t ht => .overLink ht h fun u hu => ?_
        split <;> rename_i e <;> exact (memCanonical.storeAt hu h).of_eq e

theorem canonical.chain {before : List (Nat × List Rel)} {l : List Where} {r : Option Rel} (h : canonical s) :
    canonical (s.chain before l r) := .ite h h

theorem canonical.acquire {before : List (Nat × List Rel)} {ea : Word} {n : Nat} {scope : BitVec 3} (h : canonical s) :
    canonical (s.acquire before ea n scope) := .ite h h

end Accesses

/-! ### Launches, tasks and their ends (R31, R37, R257, R273) -/

section Tasks
variable {s : State}

theorem canonical.endLaunch {n : Nat} {e : EndStatus} {code : Nat} (h : canonical s) : canonical (s.endLaunch n e code) :=
  .onLaunch h

/-- A wake leaves every context at its key. -/
theorem canonical.wakeCore {core : Nat} {p : Nat → Ctx → Bool} (h : canonical s) : canonical (s.wakeCore core p) := by
  refine h.withCtxs h.1 ?_ rfl
  unfold State.wakeCore
  dsimp only
  rw [List.map_map]
  refine List.map_congr_left fun q _ => ?_
  dsimp only [Function.comp]
  split <;> rfl

theorem canonical.noteWoke {n f : Nat} (h : canonical s) : canonical (s.noteWoke n f) := .onLaunch h

theorem canonical.putMem {m : List Host.Cell} {n : Nat} (h : canonical s) (hm : Memory.wf m = true) :
    canonical { s with mem := m, freeCount := n } := h.withMem hm rfl rfl

/-- The workspace of a new task is cleared, and its entry and psw are written (R33, R35). -/
theorem canonical.startTask {k : Nat} {entry p1 p2 p3 p4 : Word} {dom : Dom} {lrec : Word} {t : Task} {psw : BitVec 19}
    (h : canonical s) : canonical (s.startTask k entry p1 p2 p3 p4 dom lrec t psw) := by
  unfold State.startTask
  dsimp only
  exact .shareRegs (.setCtx (.setCore (.forgetRels (.putMem h
    (Memory.wf_setWord _ _ _ (Memory.wf_setWord _ _ _ (Memory.wf_clear _ _ _ h.1)))))))

theorem canonical.enqueue {core : Nat} {e : Entry} (h : canonical s) : canonical (s.enqueue core e) := .wakeCore (.onCore h)

theorem canonical.unbox {lead : Nat} (h : canonical s) : canonical (s.unbox lead) := by
  unfold State.unbox
  split
  · exact h
  · exact .foldl (fun _ _ h => h) h

theorem canonical.clearMem {lo n : Nat} (h : canonical s) : canonical { s with mem := Memory.clear s.mem lo n } :=
  h.withMem (Memory.wf_clear _ _ _ h.1) rfl rfl

theorem canonical.writeMem {k : Nat} {b : List Byte} (h : canonical s) : canonical { s with mem := Memory.setBytes s.mem k b } :=
  h.withMem (Memory.wf_setBytes _ _ _ h.1) rfl rfl

theorem canonical.freePoolWs {k : Nat} (h : canonical s) : canonical (s.freePoolWs k) := by
  unfold State.freePoolWs
  dsimp only
  split
  · exact h
  · exact .ite h (.onCore (.forgetRels (.clearMem h)))

theorem canonical.clearRecord {key : Nat} (h : canonical s) : canonical (s.clearRecord key) :=
  .forgetRels (h.withMem (Memory.wf_set _ _ _ h.1) rfl rfl)

theorem canonical.dropParked {k serial : Nat} (h : canonical s) : canonical (s.dropParked k serial) :=
  .ite h (.onCore (.foldl (fun _ _ h => .clearRecord h) h))

theorem canonical.withMsgs {l : List Entry} (h : canonical s) : canonical { s with msgs := l } := h

theorem canonical.joinDec {who : Who} {a : Word} {e : Entry} {r : Rel} (h : canonical s) : canonical (s.joinDec who a e r) := by
  unfold State.joinDec
  split
  · split
    · exact .endLaunch (.hwMac h)
    · exact .endLaunch h
  · refine .ite (.endLaunch h) ?_
    split
    · exact .endLaunch (.hwMac h)
    · dsimp only
      split
      · exact .stamp (.withMsgs (.chain (.pokes (.getD (.chargeAll h) (.linkOut (.chargeAll h))))))
      · exact .chain (.pokes (.getD (.chargeAll h) (.linkOut (.chargeAll h))))

theorem canonical.flipAt {core : Nat} (h : canonical s) : canonical (s.flipAt core) := .ite h h

theorem canonical.removeTask {k : Nat} (h : canonical s) : canonical (s.removeTask k) := by
  have hfree : canonical ((((if (s.ctx k).c.bx then s.unbox (coreOf k) else s).freePoolWs k).dropParked k (s.ctx k).c.serial)) :=
    .dropParked (.freePoolWs (.ite (.unbox h) h))
  have hwake := hfree.wakeCore (core := homeOf k (s.ctx k)) (p := fun _ x => x.live && x.c.serial == (s.ctx k).t.starter)
  exact .ite (.setCtx (.ite hwake hfree)) (.flipAt (.setCtx (.ite hwake hfree)))

theorem canonical.taskEnded {k : Nat} (h : canonical s) : canonical (s.taskEnded k) := by
  unfold State.taskEnded
  dsimp only
  split
  · exact .removeTask (.joinDec h)
  · exact .removeTask h

theorem canonical.endTask {k : Nat} (h : canonical s) : canonical (s.endTask k) := .ite (.taskEnded h) (.setCtx h)

end Tasks

/-! ### Traps and handlers (R451 to R458) -/

section Traps
variable {s : State}

theorem canonical.request {r : Request} (h : canonical s) : canonical (s.request r) := h

theorem canonical.writeRecord {key : Nat} {b : List Byte} {r : Rel} (h : canonical s) : canonical (s.writeRecord key b r) :=
  h.withMem (Memory.wf_setBytes _ _ _ h.1) rfl rfl

theorem canonical.disposeEnd {t : TrapRef} (h : canonical s) : canonical (s.disposeEnd t) := by
  cases t with
  | ctx k serial no => exact .ite (.endTask (.dropParked (.clearRecord h))) h
  | replay core e no =>
    unfold State.disposeEnd
    dsimp only
    split
    · exact h
    · have hgone {k serial key : Nat} := canonical.dropParked (k := k) (serial := serial) (h.clearRecord (key := key))
      exact .ite (.endTask hgone) hgone

theorem canonical.supervisorFault {k : Nat} (h : canonical s) : canonical (s.supervisorFault k) := by
  unfold State.supervisorFault
  dsimp only
  split
  · exact .disposeEnd (.removeTask (.logAt h))
  · exact .removeTask (.logAt h)

theorem canonical.keepPrefix (h : canonical s) : canonical s.keepPrefix := by
  unfold State.keepPrefix
  split
  · exact h
  · exact .hwBytes h

theorem canonical.withMe {c : Ctx} (h : canonical s) : canonical { s with me := c } := h

theorem canonical.takeTrap {c : Cause} {tval xpc resume : Word} {bits code : Nat} (h : canonical s) :
    canonical (s.takeTrap c tval xpc resume bits code) :=
  .ite (.ite h (.supervisorFault h)) (.request (.writeRecord (.withMe (.ite (.keepPrefix h) h))))

theorem canonical.imprecise {k : Nat} {c : Cause} {tval : Word} (h : canonical s) : canonical (s.imprecise k c tval) := by
  have hs : canonical (if (s.ctx k).st == .held then s.clearRecord (s.recordKey k) else s) := .ite (.clearRecord h) h
  exact .ite (.supervisorFault hs) (.setCtx hs)

theorem canonical.spaceFault {k part : Nat} {d : Dom} (h : canonical s) : canonical (s.spaceFault k part d) := by
  unfold State.spaceFault
  dsimp only
  split
  · exact h
  · exact .imprecise (.hwMac h)

theorem canonical.beginTask {k : Nat} {entry p1 p2 p3 p4 : Word} {dom : Dom} {lrec : Word} {t : Task} {psw : BitVec 19}
    (h : canonical s) : canonical (s.beginTask k entry p1 p2 p3 p4 dom lrec t psw) := .spaceFault (.startTask h)

end Traps

/-! ### Retirement and the frame of a meaning (R45 to R47, R58, R461) -/

/-- Every state that the body of a meaning comes to is canonical. -/
def resCanonical : Res → Prop
  | .done s | .goto _ s | .trap _ _ s | .wait _ s | .fatal _ _ s | .whole s => canonical s
  | .code _ _ => True

/-- The state that an instruction or an event comes to, if it comes to one, is canonical. -/
def outCanonical : Out → Prop
  | .next s => canonical s
  | _ => True

section Frame
variable {s : State} {i : Instr}

theorem canonical.countRetired (h : canonical s) : canonical s.countRetired := .ite h (.onLaunch h)

theorem canonical.retired {k : Bool} (h : canonical s) : canonical (s.retired k) :=
  .withMe (.countRetired (.ite (.noteWoke h) h))

theorem canonical.retireQuiet {k : Bool} {jump : Option Word} {n : Nat} (h : canonical s) :
    canonical (s.retireQuiet k jump n) := .withMe (.retired h)

theorem canonical.traced (h : canonical s) : canonical s.traced := .ite (.takeTrap h) h

theorem canonical.retire {k : Bool} {jump : Option Word} {n : Nat} (h : canonical s) : canonical (s.retire k jump n) :=
  .traced (.retireQuiet h)

theorem canonical.trapAt {c : Cause} {tval : Word} {code : Nat} (h : canonical s) : canonical (s.trapAt i c tval code) :=
  .takeTrap (.ite (.noteWoke h) h)

theorem canonical.blocked {w : Wait} (h : canonical s) : canonical (s.blocked i w) := .ite (.retireQuiet (.withMe h)) h

theorem canonical.raise {c : Cause} {tval : Word} {code : Nat} (h : canonical s) : canonical (s.raise i c tval code) := by
  unfold State.raise
  split
  · exact .trapAt h
  · exact .blocked h

theorem resCanonical.of_eq {q r : Res} (h : resCanonical q) (e : q = r) : resCanonical r := e ▸ h

theorem resCanonical.ite {c : Prop} [Decidable c] {q r : Res} (hq : resCanonical q) (hr : resCanonical r) :
    resCanonical (if c then q else r) := by
  split
  · exact hq
  · exact hr

theorem outCanonical.of_eq {q r : Out} (h : outCanonical q) (e : q = r) : outCanonical r := e ▸ h

theorem outCanonical.ite {c : Prop} [Decidable c] {q r : Out} (hq : outCanonical q) (hr : outCanonical r) :
    outCanonical (if c then q else r) := by
  split
  · exact hq
  · exact hr

theorem outCanonical.finish {r : Res} (h : canonical s) (hr : resCanonical r) : outCanonical (s.finish i r) := by
  cases r with
  | done t => exact canonical.retire hr
  | goto pc t => exact canonical.retire hr
  | trap c a t => exact canonical.raise hr
  | code c n => exact canonical.raise h
  | wait w t => exact canonical.blocked hr
  | fatal c a t => exact canonical.imprecise hr
  | whole t => exact hr

theorem outCanonical.issue {body : State → Res} (h : canonical s) (hb : resCanonical (body s)) :
    outCanonical (issue i s body) := by
  unfold Machine.issue
  split
  · exact canonical.raise h
  · exact .ite h (.ite (canonical.blocked h) (.finish h hb))

theorem resCanonical.then {α : Type} {m : Mem α} {k : α → State → Res} (hm : memCanonical m)
    (hk : ∀ a t, canonical t → resCanonical (k a t)) : resCanonical (m.then k) := by
  cases m with
  | ok a t => exact hk a t hm
  | trap c a t => exact hm
  | park a t => exact hm
  | fatal c a t => exact hm
  | wait w t => exact hm

theorem optCanonical.parkIn {k : Nat} {w : Who} {fail : Word} {vec : Bool} {parts : List (Word × List (Nat × Byte))} {bits : Nat}
    {xpc : Word} {payer : Option Dom} (h : canonical s) :
    optCanonical (s.parkIn k w fail vec parts bits xpc payer) := by
  unfold State.parkIn
  dsimp only
  split
  · exact .none
  · exact .some (.request (.writeRecord h))

theorem resCanonical.parkStore {fail : Word} {vec : Bool} {parts : List (Word × List (Nat × Byte))} (h : canonical s) :
    resCanonical (s.parkStore i fail vec parts) := by
  unfold State.parkStore
  refine .ite h ?_
  split
  · exact h
  · exact optCanonical.parkIn h _ ‹_›

end Frame

end Sys2Proof.Safety
end
end

section
/-!
PROOFS. The canonical form (O4): scalar and vector instructions, tile slots and reel engines, lofts and launches keep it.
-/
noncomputable section
namespace Sys2Proof.Safety
open Sys2Proof.Machine

/-! ### Scalar instructions (R124 to R159) -/

section Scalar
variable {s : State} {i : Instr}

theorem optCanonical.fetchSent {n : Nat} (h : canonical s) : optCanonical (s.fetchSent n) := by
  unfold State.fetchSent
  split
  · exact .linkOut h
  · exact .linkOut h
  · exact .some h

theorem canonical.pop {a : Opnd} (h : canonical s) : canonical (s.pop a) := h
theorem canonical.pop2 {a b : Opnd} (h : canonical s) : canonical (s.pop2 a b) := h
theorem canonical.result {d : Opnd} {x : Word} (h : canonical s) : canonical (s.result d x) := h
theorem canonical.resultW {d : WReg} {x : Word} (h : canonical s) : canonical (s.resultW d x) := h
theorem canonical.vectored {l : List Opnd} (h : canonical s) : canonical (s.vectored l) := h
theorem canonical.vectoredWith {p : Option (Bool × Word)} {c : Option LoftCmd} {l : List Opnd} (h : canonical s) :
    canonical (s.vectoredWith p c l) := h

theorem outCanonical.alu2 {d a b : Opnd} {f : Word → Word → Word} (h : canonical s) : outCanonical (alu2 i d a b s f) := by
  refine .issue h ?_
  split
  · exact h
  · exact .ite h h

theorem outCanonical.alu1 {d a : Opnd} {f : Word → Word} (h : canonical s) : outCanonical (alu1 i d a s f) := by
  refine .issue h ?_
  split
  · exact h
  · exact .ite h h

theorem outCanonical.alu0 {d : Opnd} {f : State → Word} (h : canonical s) : outCanonical (alu0 i d s f) := .issue h (.ite h h)

theorem outCanonical.fop2 {f : Fmt} {d a b : Opnd} {r : RSel} {g : Val → Val → Mode → Exact} (h : canonical s) :
    outCanonical (fop2 i f d a b r s g) := by
  refine .issue h ?_
  split
  · exact h
  · exact .ite h h

theorem outCanonical.fop1 {f : Fmt} {d a : Opnd} {r : RSel} {g : Val → Exact} (h : canonical s) :
    outCanonical (fop1 i f d a r s g) := by
  refine .issue h ?_
  split
  · exact h
  · exact .ite h h

theorem outCanonical.fbits2 {f : Fmt} {d a b : Opnd} {g : Nat → Nat → Nat × Flags} (h : canonical s) :
    outCanonical (fbits2 i f d a b s g) := by
  refine .issue h ?_
  split
  · exact h
  · exact .ite h h

theorem outCanonical.fma {f : Fmt} {op : Nat} {d a b : Opnd} {r : RSel} (h : canonical s) :
    outCanonical (fma i f op d a b r s) := by
  unfold Machine.fma
  exact .fop2 h

theorem outCanonical.execFcvt {d a : Opnd} {r : RSel} {f t : Cvt} (h : canonical s) : outCanonical (execFcvt d a r f t s) := by
  refine .issue h ?_
  split
  · exact h
  · exact .ite h h

theorem outCanonical.execJr {d a : Opnd} {o : BitVec 12} (h : canonical s) : outCanonical (execJr d a o s) := by
  refine .issue h ?_
  split
  · exact h
  · exact .ite h (.ite h h)

theorem outCanonical.branch {a b : Opnd} {o : BitVec 12} {c : Word → Word → Bool} (h : canonical s) :
    outCanonical (branch i a b o s c) := by
  refine .issue h ?_
  split
  · exact h
  · exact .ite h h

end Scalar

/-! ### Loads, stores and atomic accesses (R138 to R155, R316 to R323) -/

section LoadStore
variable {s : State} {i : Instr} {pops : State → State}

theorem resCanonical.loadTo {d : Opnd} {ea : Word} {n : Nat} {f : Nat → Word} (h : canonical s)
    (hpops : ∀ t, canonical t → canonical (pops t)) : resCanonical (s.loadTo d pops ea n f) :=
  .ite (.then (.load h) fun _ _ ht => canonical.result (hpops _ ht)) h

theorem resCanonical.storeFrom {ea : Word} {n : Nat} {x : Word} (h : canonical s)
    (hpops : ∀ t, canonical t → canonical (pops t)) : resCanonical (s.storeFrom i pops ea n x) := by
  have hstore := memCanonical.store (ea := ea) (b := natLe n x.toNat) h
  unfold State.storeFrom
  split <;> rename_i e <;> replace e := hstore.of_eq e
  · exact hpops _ e
  · split <;> rename_i e'
    · exact hpops _ ((resCanonical.parkStore e).of_eq e')
    · exact .parkStore e
  · exact e
  · exact e
  · exact e

theorem outCanonical.loadS {d b : Opnd} {o : BitVec 12} {n : Nat} {signed : Bool} (h : canonical s) :
    outCanonical (loadS i d b o n signed s) := .issue h (.loadTo h fun _ ht => ht)

theorem outCanonical.storeS {d b : Opnd} {o : BitVec 12} {n : Nat} (h : canonical s) : outCanonical (storeS i d b o n s) := by
  refine .issue h ?_
  split
  · exact h
  · exact .storeFrom h fun _ ht => ht

theorem outCanonical.loadX {d a b : Opnd} {z k : BitVec 2} {signed : Bool} (h : canonical s) :
    outCanonical (loadX i d a b z k signed s) := by
  refine .issue h ?_
  split
  · exact h
  · exact .loadTo h fun _ ht => ht

theorem outCanonical.execStx {d a b : Opnd} {z k : BitVec 2} (h : canonical s) : outCanonical (execStx d a b z k s) := by
  refine .issue h ?_
  split
  · exact h
  · split
    · exact h
    · exact .storeFrom h fun _ ht => ht

theorem outCanonical.execLdaq {d a : WReg} {z : BitVec 2} {c : BitVec 3} (h : canonical s) :
    outCanonical (execLdaq d a z c s) :=
  .issue h (.ite h (.then (.load h) fun _ _ ht => canonical.resultW (.acquire ht)))

theorem outCanonical.execStrl {d a : WReg} {z : BitVec 2} {c : BitVec 3} (h : canonical s) :
    outCanonical (execStrl d a z c s) :=
  .issue h (.ite h (.ite h (.then (.store h) fun _ _ ht => canonical.chain ht)))

theorem outCanonical.amo {d a b : WReg} {o : BitVec 2} {c : BitVec 3} {n : Nat} {signed : Bool} {f : AmoOp} (h : canonical s) :
    outCanonical (amo i d a b o c n signed s f) :=
  .issue h (.ite h (.ite h (.then (.rmw h) fun _ _ ht =>
    canonical.resultW (.onCsr (.ite (.acquire (.chain ht)) (.chain ht))))))

theorem outCanonical.compareSwap {d a b : WReg} {o : BitVec 2} {c : BitVec 3} {n : Nat} {signed : Bool} (h : canonical s) :
    outCanonical (compareSwap i d a b o c n signed s) :=
  .issue h (.ite h (.ite h (.then (.rmw h) fun _ _ ht =>
    canonical.resultW (.ite (.acquire (.ite (.chain ht) ht)) (.ite (.chain ht) ht)))))

theorem outCanonical.execFence {f : BitVec 4} {k : BitVec 2} {c : BitVec 3} (h : canonical s) :
    outCanonical (execFence f k c s) :=
  .issue h (.ite (.ite h (.ite h (.ite h (canonical.ite h h)))) h)

theorem outCanonical.execWaitm {d a b : WReg} {k : BitVec 4} {o : BitVec 2} {c : BitVec 3} (h : canonical s) :
    outCanonical (execWaitm d a b k o c s) :=
  .issue h (.ite h (.then (.load h) fun _ _ ht => .ite (canonical.resultW (.ite (.acquire ht) ht)) ht))

theorem canonical.paused {n len : Nat} (h : canonical s) : canonical (s.paused n len) := by
  have ht : canonical (s.retire false none len) := .retire h
  unfold State.paused
  dsimp only
  split
  · exact .withMe ht
  · exact ht

end LoadStore

/-! ### Vector instructions (R160 to R178, R247 to R251) -/

section Vector
variable {s : State} {i : Instr}

theorem canonical.vresult {d : VReg} {bits : Nat} {l : List Nat} {a : Acc} {pops : List Opnd} (h : canonical s) :
    canonical (s.vresult d bits l a pops) := h

theorem outCanonical.vlanes {d a b : VReg} {m : MReg} {z : Sz} {op : LaneOp} (h : canonical s) :
    outCanonical (vlanes i d a b m z s op) := .issue h (canonical.vresult h)

theorem outCanonical.execVsel {d a b : VReg} {m : MReg} {z : Sz} (h : canonical s) : outCanonical (execVsel d a b m z s) :=
  .issue h (canonical.vresult h)

theorem outCanonical.vfused {op : Nat} {d a b : VReg} {m : MReg} {z : Sz} {r : RSel} (h : canonical s) :
    outCanonical (vfused i op d a b m z r s) := .issue h (canonical.vresult h)

theorem outCanonical.execVcmp {n : MReg} {a b : VReg} {m : MReg} {z : Sz} {c : BitVec 6} (h : canonical s) :
    outCanonical (execVcmp n a b m z c s) := .issue h (canonical.vectored h)

theorem outCanonical.vreduce {d a : VReg} {m : MReg} {z : Sz} {g : Fmt → RmCode → (Nat → Bool) → List Nat → Acc → Nat × Acc}
    (h : canonical s) : outCanonical (vreduce i d a m z s g) := .issue h (canonical.vresult h)

theorem outCanonical.execVbcast {d : VReg} {a : Opnd} {z : Sz} (h : canonical s) : outCanonical (execVbcast d a z s) := by
  refine .issue h ?_
  split
  · exact h
  · exact canonical.vresult h

theorem outCanonical.execVins {d : VReg} {a b : Opnd} {z : Sz} (h : canonical s) : outCanonical (execVins d a b z s) := by
  refine .issue h ?_
  split
  · exact h
  · exact canonical.vresult h

theorem outCanonical.execVextr {d : VReg} {q b : Opnd} {z : Sz} (h : canonical s) : outCanonical (execVextr d q b z s) := by
  refine .issue h ?_
  split
  · exact h
  · exact canonical.vectoredWith h

theorem outCanonical.vpermute {d a b : VReg} {z : Sz} {g : Nat → (Nat → Nat) → (Nat → Nat) → Nat → Nat} (h : canonical s) :
    outCanonical (vpermute i d a b z s g) := .issue h (canonical.vresult h)

theorem outCanonical.vconvert {d : VReg} {u t : Sz} {src : Nat → State → List Nat} (h : canonical s) :
    outCanonical (vconvert i d u t s src) := .issue h (canonical.vresult h)

theorem outCanonical.prefixed {d : VReg} {ok : Prefix → Bool} {bits : Prefix → Nat} {f : Prefix → State → List Nat × Acc}
    (h : canonical s) : outCanonical (prefixed i d s ok bits f) := .issue h (.ite (canonical.vresult h) h)

theorem canonical.keepPieces {k : Kind} {l : List Piece} (h : canonical s) : canonical (s.keepPieces k l) :=
  .foldl (fun _ _ h => .keepTlbs h) h

theorem memCanonical.loadPieces {n : Nat} {l : List Piece} (h : canonical s) : memCanonical (s.loadPieces n l) := by
  unfold State.loadPieces
  refine .ite h ?_
  split
  · exact .refused h
  · refine .egressGate h fun t ht => .overLink ht h fun u hu => ?_
    split
    · exact .badMem h hu
    · exact canonical.keepPieces hu

theorem memCanonical.storePieces {n : Nat} {l : List Piece} {b : List Byte} (h : canonical s) :
    memCanonical (s.storePieces n l b) := by
  unfold State.storePieces
  refine .ite h ?_
  split
  · exact .ite h (.refused h)
  · refine .egressGate h fun t ht => .overLink ht h fun u hu => ?_
    dsimp only
    split
    · exact .badMem h hu
    · exact canonical.keepPieces (.pokes (.ite (.sealLines hu) hu))

theorem resCanonical.storeVec {n : Nat} {l : List Piece} {b : List Byte} {pops : List Opnd} (h : canonical s) :
    resCanonical (s.storeVec i n l b pops) := by
  have hstore := memCanonical.storePieces (n := n) (l := l) (b := b) h
  unfold State.storeVec
  dsimp only
  split <;> rename_i e <;> replace e := hstore.of_eq e
  · exact canonical.vectored e
  · split <;> rename_i e'
    · exact canonical.vectored ((resCanonical.parkStore e).of_eq e')
    · exact .parkStore e
  · exact e
  · exact e
  · exact e

theorem resCanonical.loadElems {d : VReg} {n : Nat} {l : List Piece} {pops : List Opnd} (h : canonical s) :
    resCanonical (loadElems s d n l pops) := .then (.loadPieces h) fun _ _ ht => canonical.vresult ht

theorem outCanonical.execVld {d : VReg} {b : Opnd} {o : BitVec 11} {m : MReg} (h : canonical s) :
    outCanonical (execVld d b o m s) := .issue h (.then (.loadPieces h) fun _ _ ht => canonical.vectored ht)

theorem outCanonical.execVst {d : VReg} {b : Opnd} {o : BitVec 11} {m : MReg} (h : canonical s) :
    outCanonical (execVst d b o m s) := .issue h (.storeVec h)

theorem outCanonical.execVlds {d : VReg} {b k : Opnd} {z : Sz} {m : MReg} (h : canonical s) :
    outCanonical (execVlds d b k z m s) := by
  refine .issue h ?_
  split
  · exact h
  · exact .loadElems h

theorem outCanonical.execVsts {d : VReg} {b k : Opnd} {z : Sz} {m : MReg} (h : canonical s) :
    outCanonical (execVsts d b k z m s) := by
  refine .issue h ?_
  split
  · exact h
  · exact .storeVec h

theorem outCanonical.execVgath {d : VReg} {b : Opnd} {x : VReg} {z : Sz} {m : MReg} (h : canonical s) :
    outCanonical (execVgath d b x z m s) := .issue h (.loadElems h)

theorem outCanonical.execVscat {d : VReg} {b : Opnd} {x : VReg} {z : Sz} {m : MReg} (h : canonical s) :
    outCanonical (execVscat d b x z m s) := .issue h (.storeVec h)

theorem outCanonical.execRep {n : BitVec 4} {c : Opnd} {k f : BitVec 5} (h : canonical s) :
    outCanonical (execRep n c k f s) := by
  refine .issue h ?_
  split
  · exact h
  · dsimp only
    split
    · exact h
    · exact .ite h (canonical.logMac h)
    · exact .ite h h
    · exact h
    · exact .ite h (.ite h (canonical.withMe (.retire (.vectored h))))

theorem outCanonical.execFmt {a b c : BitVec 4} {r : BitVec 3} {t : Bool} {k : BitVec 3} {n : BitVec 2} (h : canonical s) :
    outCanonical (execFmt a b c r t k n s) := .issue h (canonical.retire h)

theorem outCanonical.execCbld {n : BitVec 2} {b : Opnd} {o : BitVec 12} (h : canonical s) : outCanonical (execCbld n b o s) := by
  refine .issue h ?_
  split
  · exact h
  · exact .ite h (.then (.load h) fun _ _ ht => canonical.onRegs ht)

theorem outCanonical.execScset {n : BitVec 3} {a : Opnd} (h : canonical s) : outCanonical (execScset n a s) := by
  refine .issue h ?_
  split
  · exact h
  · exact canonical.onRegs (.pop h)

end Vector

/-! ### Tile slots and reel engines (R182 to R210) -/

section Engines
variable {s t : State} {i : Instr}

theorem canonical.setSlot {core : Nat} {n : Slot} {x : TileSlot} (h : canonical s) : canonical (s.setSlot core n x) :=
  .ite h (.wakeCore (.onCore h))

theorem canonical.redeclare {core : Nat} (h : canonical s) : canonical (s.redeclare core) := h

theorem canonical.restSlot {core : Nat} {n : Slot} (h : canonical s) : canonical (s.restSlot core n) := .ite (.setSlot h) h

theorem canonical.setLoftq {core : Nat} {q : List LoftCmd} (h : canonical s) : canonical (s.setLoftq core q) := h

theorem canonical.removeLoft {core : Nat} {p : LoftCmd → Bool} (h : canonical s) : canonical (s.removeLoft core p) :=
  .redeclare (.setLoftq (.ite (.setLoft h) h))

theorem outCanonical.execTset {n : Slot} {a b : Opnd} (h : canonical s) : outCanonical (execTset n a b s) := by
  refine .issue h (.ite h ?_)
  split
  · exact h
  · refine .ite h ?_
    split
    · exact h
    · exact canonical.setSlot h

theorem outCanonical.execTstate {d : Opnd} {n : Slot} {k : Bool} (h : canonical s) : outCanonical (execTstate d n k s) :=
  .issue h (.ite h (.ite (canonical.result h) h))

theorem outCanonical.execTdrain {d : Opnd} {n : Slot} (h : canonical s) : outCanonical (execTdrain d n s) := by
  refine .issue h (.ite h (.ite h (.ite (.ite h ?_) (.ite h (canonical.result h)))))
  split
  · exact .ite h (canonical.result (.setSlot (.onCore h)))
  · split
    · exact .ite h (canonical.result (.setSlot (.removeLoft h)))
    · exact h

theorem outCanonical.execTfree {n : Slot} (h : canonical s) : outCanonical (execTfree n s) :=
  .issue h (.ite h (.ite h (canonical.setSlot h)))

theorem outCanonical.execTwait {n : Slot} (h : canonical s) : outCanonical (execTwait n s) := .issue h (.ite h (.ite h h))

theorem outCanonical.execVldt {d : VReg} {n : Slot} {r c : BitVec 6} (h : canonical s) : outCanonical (execVldt d n r c s) := by
  refine .issue h ?_
  split
  · exact h
  · exact h
  · exact .then (.load h) fun _ _ ht => canonical.vectored ht

theorem outCanonical.execVstt {d : VReg} {n : Slot} {r c : BitVec 6} (h : canonical s) : outCanonical (execVstt d n r c s) := by
  refine .issue h (.ite h ?_)
  split
  · exact h
  · exact h
  · exact .then (.store h) fun _ _ ht => canonical.vectored ht

theorem canonical.kick {op : EngOp} {n : Slot} {a b : Word} (h : canonical s) : canonical (s.kick op n a b) := h

theorem outCanonical.slotCommand {op : EngOp} {fill : Bool} {n : Slot} {a b : Opnd} {conv : Word → Word} (h : canonical s) :
    outCanonical (slotCommand i op fill n a b s conv) := by
  refine .issue h (.ite h ?_)
  split
  · exact h
  · exact .ite h (.ite h (.ite h (canonical.setSlot (.kick h))))

theorem outCanonical.descCommand {op : EngOp} {d a : Opnd} (h : canonical s) : outCanonical (descCommand i op d a s) := by
  refine .issue h ?_
  split
  · exact h
  · exact .ite h (.ite h (.ite h (canonical.result (.kick h))))

theorem outCanonical.execRctx {d a b : Opnd} (h : canonical s) : outCanonical (execRctx d a b s) := by
  refine .issue h ?_
  split
  · exact h
  · exact .ite h (.ite (canonical.result h) (canonical.result (.onCore h)))

/-! ### Beats (R198, R205 to R209) -/

/-- Every state that a beat comes to is canonical, and what it logs keeps the form. -/
def beatCanonical {α : Type} : Beat α → Prop
  | .ok _ s => canonical s
  | .stall log | .fail _ log => ∀ s, canonical s → canonical (log s)
  | .hold => True

variable {α β : Type}

theorem beatCanonical.of_eq {b c : Beat α} (h : beatCanonical b) (e : b = c) : beatCanonical c := e ▸ h

theorem beatCanonical.ite {c : Prop} [Decidable c] {b d : Beat α} (hb : beatCanonical b) (hd : beatCanonical d) :
    beatCanonical (if c then b else d) := by
  split
  · exact hb
  · exact hd

theorem beatCanonical.stall_id : beatCanonical (.stall id : Beat α) := fun _ h => h
theorem beatCanonical.fail_id {f : EngFail} : beatCanonical (.fail f id : Beat α) := fun _ h => h

theorem beatCanonical.then {b : Beat α} {k : α → State → Beat β} (hb : beatCanonical b)
    (hk : ∀ a t, canonical t → beatCanonical (k a t)) : beatCanonical (b.then k) := by
  cases b with
  | ok a t => exact hk a t hb
  | stall log => exact hb
  | hold => trivial
  | fail f log => exact hb

theorem beatCanonical.engEgress {core : Nat} {a : Word} {l : List (Dom × Nat × Nat)} {k : State → Beat α} (h : canonical s)
    (hk : ∀ t, canonical t → beatCanonical (k t)) : beatCanonical (s.engEgress t core a l k) := by
  unfold State.engEgress
  split
  · exact .ite .stall_id (.ite (fun _ hu => canonical.logAt hu) fun _ hu => canonical.logAt hu)
  · exact hk _ (.chargeAll h)

theorem beatCanonical.engBad {core : Nat} {d : Dom} {e : Cause} {k : Nat} {o : Dom} :
    beatCanonical (s.engBad core d e k o : Beat α) := .ite .stall_id fun _ hu => canonical.logMacAt hu

theorem beatCanonical.engRefused {core : Nat} {c : EngCmd} {w : Who} {e : Cause} {x : Word} :
    beatCanonical (s.engRefused core c w e x : Beat α) := by
  unfold State.engRefused
  split
  · exact .engBad
  · exact .fail_id

theorem beatCanonical.engLink {c : EngCmd} {l : List Where} {vc : BitVec 2} {k : State → Beat α} (h : canonical s)
    (hk : ∀ t, canonical t → beatCanonical (k t)) : beatCanonical (s.engLink c l vc k) := by
  unfold State.engLink
  split
  · exact hk _ (optCanonical.linkOut h _ ‹_›)
  · trivial

theorem beatCanonical.engLoad {core : Nat} {c : EngCmd} {a : Word} {n : Nat} {atomic : Bool} (h : canonical s) :
    beatCanonical (s.engLoad t core c a n atomic) := by
  unfold State.engLoad
  dsimp only
  split
  · exact .engRefused
  · refine .ite .fail_id ?_
    split
    · exact .engBad
    · exact .engEgress h fun _ hu => .engLink hu fun _ hv => canonical.keepTlbs hv

theorem canonical.chainEach {before : List (Nat × List Rel)} {l : List Where} {n : Nat} (h : canonical s) :
    canonical (s.chainEach before l n) := .foldl (fun _ _ h => .chain h) h

theorem beatCanonical.engStore {core : Nat} {c : EngCmd} {a : Word} {b : List Byte} {elem : Nat} (h : canonical s) :
    beatCanonical (s.engStore t core c a b elem) := by
  unfold State.engStore
  dsimp only
  split
  · exact .engRefused
  · split
    · exact .engBad
    · exact .engEgress h fun _ hu => .engLink hu fun _ hv =>
        canonical.keepTlbs (.chainEach (.pokes (.ite (.sealLines hv) hv)))

theorem beatCanonical.engRow {core : Nat} {c : EngCmd} {x : TileSlot} {n : Nat} (h : canonical s) :
    beatCanonical (s.engRow t core c x n) := by
  unfold State.engRow
  split
  · exact .then (.engLoad h) fun _ _ hu => hu
  · exact .then (.engLoad h) fun _ _ hu => hu
  · exact h

theorem beatCanonical.slotBeat {core : Nat} {c : EngCmd} (h : canonical s) : beatCanonical (s.slotBeat core c) := by
  unfold State.slotBeat
  refine .then ?_ fun _ _ ht => .then (.engLoad ht) fun _ _ hu => .then (.engStore hu) fun _ _ hv => hv
  split
  · exact h
  · exact .engRow h

theorem beatCanonical.castBeat {core : Nat} {c : EngCmd} {off : Word} {b : List Byte} {n m : Nat} (h : canonical s) :
    beatCanonical (s.castBeat t core c off b n m) := by
  induction m generalizing s n with
  | zero => exact h
  | succ m ih => exact .then (.engStore h) fun _ _ hu => ih hu

theorem beatCanonical.descBeat {core : Nat} {c : EngCmd} (h : canonical s) : beatCanonical (s.descBeat core c) := by
  unfold State.descBeat
  refine .then (.engLoad h) fun _ _ ht => .then ?_ fun _ _ hu => hu
  split
  · exact .then (.engLoad ht) fun _ _ hu => .engStore hu
  · exact .castBeat ht
  · exact .engStore ht

theorem beatCanonical.begin {core : Nat} {c : EngCmd} (h : canonical s) : beatCanonical (s.begin core c) :=
  .ite h (.ite (.ite .fail_id (.then (.engLoad h) fun _ _ ht => .ite .fail_id ht)) (.ite .fail_id h))

theorem beatCanonical.beat {core : Nat} {c : EngCmd} (h : canonical s) : beatCanonical (s.beat core c) :=
  .then (.begin h) fun _ _ ht => .ite ht (.ite (.descBeat ht) (.slotBeat ht))

theorem beatCanonical.mailbox {core : Nat} {c : EngCmd} (h : canonical s) : beatCanonical (s.mailbox core c) := by
  refine .ite (.then (.engStore h) fun _ _ ht => ?_) h
  split
  · exact canonical.chain ht
  · exact ht

/-! ### Turns and completions of the engines (R198, R203) -/

theorem canonical.setCmd {core : Nat} {c : EngCmd} (h : canonical s) : canonical (s.setCmd core c) := h

theorem canonical.blame {ctx task launch : Nat} {c : Cause} {tval : Word} (h : canonical s) :
    canonical (s.blame ctx task launch c tval) := .ite (.imprecise (.endLaunch h)) (.endLaunch h)

theorem canonical.engFail {core : Nat} {c : EngCmd} {f : EngFail} (h : canonical s) : canonical (s.engFail core c f) :=
  .blame (.onCore h)

theorem canonical.parkWith {core : Nat} {log : State → State} (h : canonical s) (hlog : ∀ t, canonical t → canonical (log t)) :
    canonical (s.parkWith core log) := .ite h (.onCore (hlog _ h))

/-- The state that an operation gives along with something else. -/
theorem canonical.snd {p : α × State} {a : α} (hp : canonical p.2) (e : p = (a, t)) : canonical t := by
  subst e
  exact hp

theorem canonical.tryBeat {core : Nat} (h : canonical s) : canonical (s.tryBeat core).2 := by
  unfold State.tryBeat
  split
  · exact h
  · split <;> rename_i e <;> replace e := (beatCanonical.beat h).of_eq e
    · exact .setCmd e
    · exact .parkWith h e
    · exact h
    · exact .engFail (e _ h)

theorem canonical.nextTurn {base turn n : Nat} (h : canonical s) : canonical (s.nextTurn base turn n).2 := by
  induction n generalizing s turn with
  | zero => exact h
  | succ n ih =>
    unfold State.nextTurn
    dsimp only
    split
    · split <;> rename_i e <;> have ht := (canonical.tryBeat h).snd e
      · exact ht
      · exact ih ht
    · exact ih h

theorem canonical.setTurn {flight engine turn left : Nat} (h : canonical s) : canonical (s.setTurn flight engine turn left) := h

theorem outCanonical.execEngineBeat {flight engine : Nat} (h : canonical s) : outCanonical (execEngineBeat flight engine s) := by
  unfold Machine.execEngineBeat
  dsimp only
  refine .ite h (.ite ?_ ?_)
  · split <;> rename_i e <;> have ht := (canonical.tryBeat h).snd e
    · exact canonical.ite (.setTurn ht) (.setTurn ht)
    · split <;> rename_i e' <;> have hu := (canonical.nextTurn ht).snd e'
      · exact canonical.ite (.setTurn hu) (.setTurn hu)
      · exact hu
  · split <;> rename_i e <;> have ht := (canonical.nextTurn h).snd e
    · exact canonical.ite (.setTurn ht) (.setTurn ht)
    · exact ht

theorem canonical.engPop {core : Nat} (h : canonical s) : canonical (s.engPop core) := h

theorem canonical.release {core : Nat} {c : EngCmd} (h : canonical s) : canonical (s.release core c) := .ite h h

theorem outCanonical.execEngineCommandCompletion {core : Nat} (h : canonical s) :
    outCanonical (execEngineCommandCompletion core s) := by
  refine .ite ?_ h
  split
  · exact h
  · have ht {c : EngCmd} : canonical (s.release core c) := .release h
    refine .ite (canonical.restSlot (.engPop ht)) ?_
    split <;> rename_i e <;> replace e := (beatCanonical.mailbox ht).of_eq e
    · exact canonical.engPop e
    · exact canonical.parkWith ht e
    · exact ht
    · exact canonical.engFail (e _ ht)

end Engines

/-! ### The loft (R211 to R245) -/

section Loft
variable {s : State} {i : Instr}

theorem canonical.skipDraws {rm : RmCode} {n : Nat} (h : canonical s) : canonical (s.skipDraws rm n) := .ite h h

theorem canonical.enterAt {core : Nat} {c : LoftCmd} (h : canonical s) : canonical (s.enterAt core c) := h

theorem canonical.enter {c : LoftCmd} (h : canonical s) : canonical (s.enter c) := .enterAt h

theorem canonical.join {c : LoftCmd} (h : canonical s) : canonical (s.join c) := .ite (.vectored (.enter h)) (.vectoredWith h)

theorem canonical.streamOn {k n : Nat} (h : canonical s) : canonical (s.streamOn k n) := by
  induction n generalizing s with
  | zero => exact h
  | succ n ih =>
    unfold State.streamOn
    dsimp only
    split
    · exact .ite h (.setCtx h)
    · split
      · exact .ite h (.setCtx h)
      · exact .ite (ih (.setCtx (.enterAt (.ite h (.setCtx h))))) (.ite h (.setCtx h))

theorem outCanonical.loftSlot {n : Slot} {k : TileSlot → State → Option State} (h : canonical s)
    (hk : ∀ x, optCanonical (k x s)) : outCanonical (loftSlot i n s k) := by
  refine .issue h (.ite h (.ite h (.ite h ?_)))
  split
  · exact h
  · exact canonical.vectored (hk _ _ ‹_›)

theorem optCanonical.ite {c : Prop} [Decidable c] {o p : Option State} (ho : optCanonical o) (hp : optCanonical p) :
    optCanonical (if c then o else p) := by
  split
  · exact ho
  · exact hp

theorem outCanonical.execLbld {n : Slot} {tr : Bool} (h : canonical s) : outCanonical (execLbld n tr s) :=
  .loftSlot h fun _ => .ite (.some (.skipDraws (.enter h))) .none

theorem outCanonical.execLmm {r : BitVec 4} {e : BitVec 2} {n : Slot} {acc : Bool} (h : canonical s) :
    outCanonical (execLmm r e n acc s) := by
  refine .loftSlot h fun _ => .ite .none ?_
  split
  · exact .none
  · exact .ite .none (.some (.skipDraws (.enter h)))

theorem outCanonical.execLdrn {r : BitVec 4} {n : Slot} (h : canonical s) : outCanonical (execLdrn r n s) :=
  .loftSlot h fun _ => .ite .none (.some (.setSlot (.skipDraws (.enter h))))

theorem outCanonical.execLzero {r m : BitVec 4} (h : canonical s) : outCanonical (execLzero r m s) :=
  .issue h (.ite h (canonical.join h))

theorem outCanonical.execLfence (h : canonical s) : outCanonical (execLfence s) := .issue h (.ite h (canonical.vectored h))

/-! ### Passes and commands of the array (R226 to R236) -/

theorem canonical.passRows {core : Nat} {c : LoftCmd} {n : Nat} (h : canonical s) : canonical (s.passRows core c n).1 := by
  induction n generalizing s c with
  | zero => exact h
  | succ n ih =>
    unfold State.passRows
    split
    · exact h
    · exact ih h

theorem canonical.accrueTo {ctx task depth : Nat} {fl : Flags} (h : canonical s) : canonical (s.accrueTo ctx task depth fl) :=
  .ite h (.ite (.setCtx h) (.setCtx h))

theorem canonical.lmmDone {core : Nat} {c : LoftCmd} (h : canonical s) : canonical (s.lmmDone core c) :=
  .ite (.setCtx (.accrueTo (.ite h h))) (.accrueTo (.ite h h))

theorem canonical.endPass {octet : Nat} (h : canonical s) : canonical (s.endPass octet) := by
  unfold State.endPass
  dsimp only
  split
  · exact h
  · split
    · exact h
    · exact .ite (.lmmDone (.setLoftq (.setLoft (.passRows h)))) (.setLoftq (.setLoft (.passRows h)))

theorem canonical.startPass {octet : Nat} (h : canonical s) : canonical (s.startPass octet) := by
  unfold State.startPass
  split
  · exact h
  · split
    · exact h
    · exact .setLoftq (.setLoft h)

theorem outCanonical.execKStepBoundary {octet : Nat} (h : canonical s) : outCanonical (execKStepBoundary octet s) :=
  .ite (canonical.startPass (.ite (.endPass h) h)) h

theorem canonical.putLoft {core : Nat} {c d : LoftCmd} (h : canonical s) : canonical (s.putLoft core c d) := h

theorem canonical.endLoft {core : Nat} {c : LoftCmd} (h : canonical s) : canonical (s.endLoft core c) := .accrueTo (.setLoftq h)

theorem canonical.ageless {o : Nat} (h : canonical s) : canonical (s.ageless o) :=
  .foldl (fun _ _ h => .ite h h) (.setLoft h)

theorem outCanonical.execLbldStart {core : Nat} (h : canonical s) : outCanonical (execLbldStart core s) := by
  unfold Machine.execLbldStart
  split
  · split
    · exact canonical.putLoft (.ite (.ageless (.setLoft h)) h)
    · exact h
  · exact h

/-- The number of a bank's cells is held abstract here, so that no check of a type runs `fillCells` over all of them. -/
theorem outCanonical.execLbldCompletion {core : Nat} (h : canonical s) : outCanonical (execLbldCompletion core s) := by
  obtain ⟨n, hn⟩ : ∃ n, n = 8192 := ⟨_, rfl⟩
  unfold Machine.execLbldCompletion
  rw [← hn]
  split
  · exact h
  · exact canonical.accrueTo (.setLoft (.endLoft h))

theorem canonical.writeRow {core : Nat} {x : TileSlot} {n row : Nat} (h : canonical s) : canonical (s.writeRow core x n row) :=
  .foldl (fun _ _ h => .poke h) h

theorem canonical.drainTo {core : Nat} {c : LoftCmd} {n : Nat} (h : canonical s) : canonical (s.drainTo core c n) :=
  .foldl (fun _ _ h => .writeRow h) h

theorem outCanonical.execLdrnStart {core : Nat} (h : canonical s) : outCanonical (execLdrnStart core s) := by
  unfold Machine.execLdrnStart
  split
  · split
    · exact canonical.putLoft h
    · exact h
  · exact h

theorem outCanonical.execLdrnCompletion {core : Nat} (h : canonical s) : outCanonical (execLdrnCompletion core s) := by
  unfold Machine.execLdrnCompletion
  split
  · exact h
  · exact canonical.restSlot (.endLoft (.drainTo h))

theorem outCanonical.execLzeroStart {core : Nat} (h : canonical s) : outCanonical (execLzeroStart core s) := by
  unfold Machine.execLzeroStart
  split
  · split
    · exact canonical.endLoft (.onCore h)
    · exact h
  · exact h

theorem outCanonical.execLswapExchange {core : Nat} (h : canonical s) : outCanonical (execLswapExchange core s) := by
  unfold Machine.execLswapExchange
  split
  · split
    · exact canonical.endLoft (.setLoft h)
    · exact h
  · exact h

theorem outCanonical.execLstatStart {core : Nat} (h : canonical s) : outCanonical (execLstatStart core s) := by
  unfold Machine.execLstatStart
  split
  · split
    · exact .ite (canonical.setCtx (.endLoft h)) (canonical.endLoft h)
    · exact h
  · exact h

/-! ### Diverted and scrubbed commands (R236, R273, R354) -/

theorem canonical.divertLoft {ctx task depth core : Nat} (h : canonical s) : canonical (s.divertLoft ctx task depth core) := by
  have hgone {l : List LoftCmd} {p : LoftCmd → Bool} : canonical ((l.foldl (fun (t : State) c =>
      match c.op with
      | .ldrn _ => t.restSlot core c.slot
      | _ => t) s).removeLoft core p) := by
    refine .removeLoft (.foldl (fun t c ht => ?_) h)
    split
    · exact .restSlot ht
    · exact ht
  unfold State.divertLoft
  dsimp only
  split
  · exact .ite (.ite (.setLoftq hgone) (.lmmDone (.setLoftq (.ite (.setLoft hgone) hgone)))) hgone
  · exact hgone

theorem canonical.stopDrain {core : Nat} {c : LoftCmd} (h : canonical s) : canonical (s.stopDrain core c) := by
  unfold State.stopDrain
  split
  · exact .ite (.drainTo h) h
  · exact h

theorem canonical.scrubLoft {cmd : LoftCmd → Bool} {bank : Bank → Bool} {row : Row → Bool} (h : canonical s) :
    canonical (s.scrubLoft cmd bank row) :=
  .foldl (fun _ _ h => .ageless h) (.foldl (fun _ _ h => .setLoft h) (.foldl (fun _ _ h => .redeclare (.onCore h))
    (.foldl (fun _ _ h => .ite (.removeLoft h) h) (.foldl (fun _ _ h => .foldl (fun _ _ h => .stopDrain h) h) h))))

end Loft

/-! ### Hardware's accesses; launches and their traces (R264 to R290) -/

section Launches
variable {s : State}

theorem canonical.decided (h : canonical s) : canonical s.decided := h

theorem canonical.hwSent {d : Dom} {l : List Where} (h : canonical s) : canonical (s.hwSent d l) :=
  .getD (.chargeAll h) (.linkOut (.chargeAll h))

theorem optCanonical.hwStore {w : Who} {a : Word} {b : List Byte} (h : canonical s) : optCanonical (s.hwStore w a b) := by
  unfold State.hwStore
  split
  · exact .none
  · split
    · exact .none
    · exact .some (.chain (.pokes (.hwSent h)))

theorem canonical.hwBad {w : Who} {k : Kind} {a : Word} {n : Nat} (h : canonical s) : canonical (s.hwBad w k a n) := by
  unfold State.hwBad
  dsimp only
  split
  · exact h
  · exact .hwMac h

theorem canonical.hwRead {w : Who} {a : Word} {n : Nat} (h : canonical s) : canonical (s.hwRead w a n) := by
  unfold State.hwRead
  split
  · exact .hwBad h
  · exact .ite (.hwBad h) (.getD h (.linkOut h))

theorem canonical.result8 {l : Launch} {off : Nat} {f : Nat → Nat} (h : canonical s) : canonical (s.result8 l off f) := by
  refine .ite h ?_
  dsimp only
  split
  · exact .hwBad h
  · exact .getD h (.hwStore h)

theorem canonical.countDiscarded {n k : Nat} (h : canonical s) : canonical (s.countDiscarded n k) := by
  refine .ite h ?_
  split
  · exact h
  · exact .ite (.result8 (.setLaunch h)) (.setLaunch h)

theorem canonical.announce {w : Who} {tl inc : Word} {e : EndStatus} {cause : Nat} (h : canonical s) :
    canonical (s.announce w tl inc e cause).2 := by
  unfold State.announce
  split
  · exact h
  · split
    · exact .hwBad h
    · split
      · exact .hwBad h
      · exact .chain (.pokes (.hwSent h))

theorem canonical.stopEngines {p : EngCmd → Bool} (h : canonical s) : canonical (s.stopEngines p) := h

theorem canonical.dropErrorsOf {core : Nat} {d : Dom} (h : canonical s) : canonical (s.dropErrorsOf core d) := h

theorem canonical.dropErrors {d : Dom} (h : canonical s) : canonical (s.dropErrors d) := h

theorem canonical.dropPassesOf {k : Nat} {d : Dom} (h : canonical s) : canonical (s.dropPassesOf k d) := .setCtx h

/-- Contexts that change at their keys. -/
theorem canonical.mapCtxs {t : State} {f : Nat × Ctx → Ctx} (h : canonical s) (hctxs : t.ctxs = s.ctxs.map fun p => (p.1, f p))
    (hmem : Memory.wf t.mem = true) (hcur : t.cur = s.cur) : canonical t :=
  h.withCtxs hmem (by rw [hctxs, List.map_map]; rfl) hcur

theorem canonical.dropPasses {d : Dom} (h : canonical s) : canonical (s.dropPasses d) := h.mapCtxs rfl h.1 rfl

theorem canonical.onSaved {f : Core → Core} {g : Machine.Loft → Machine.Loft} {c : Ctx → Ctx} (h : canonical s) :
    canonical (s.onSaved f g c) := h

theorem canonical.freeSlots {p : TileSlot → Bool} (h : canonical s) : canonical (s.freeSlots p) :=
  .foldl (fun _ _ h => .foldl (fun _ _ h => .ite (.setSlot h) h) h) h

theorem canonical.received {core : Nat} {e : Entry} (h : canonical s) : canonical (s.received core e) := .ite h h

theorem canonical.receivedSaved {core part : Nat} {e : Entry} (h : canonical s) : canonical (s.receivedSaved core part e) := h

theorem canonical.dropEntries {n : Nat} (h : canonical s) : canonical (s.dropEntries n) := by
  have hs : canonical ((s.msgs.filter (·.launch == n)).foldl (fun (s : State) e => s.received (s.countAt e) e) s) :=
    .foldl (fun _ _ h => .received h) h
  exact hs

theorem canonical.scrubLaunch {n : Nat} (h : canonical s) : canonical (s.scrubLaunch n) := by
  have hs : canonical ((s.scrubLoft (·.launch == n) (·.launch == n) (·.launch == n)).freeSlots (·.launch == n)) :=
    .freeSlots (.scrubLoft h)
  exact hs

theorem canonical.retag {core g : Nat} {t : Tag} (h : canonical s) : canonical (s.retag core g t) :=
  .ite h (.onCore (.forgetRels (.clearMem h)))

theorem canonical.wipe {core g : Nat} {d : Dom} (h : canonical s) : canonical (s.wipe core g d) :=
  .onCore (.forgetRels (.clearMem h))

end Launches

end Sys2Proof.Safety
end
end

section
/-!
PROOFS. The canonical form (O4): frames and gates, traps disposed of, messages, moves, boxes and the control registers keep it.
-/
noncomputable section
namespace Sys2Proof.Safety
open Sys2Proof.Machine

/-! ### Frames, the window and the unwind (R337 to R343, R362 to R365) -/

section Frames
variable {s : State}

theorem canonical.pushFrame {f : Frame} {entry : Word} {window : List Byte} (h : canonical s) :
    canonical (s.pushFrame f entry window) := by
  refine .withMe (.writeMem (.wipe ?_))
  split
  · exact .writeMem h
  · exact h

theorem canonical.popFrame {k : Nat} (h : canonical s) : canonical (s.popFrame k) := by
  unfold State.popFrame
  dsimp only
  split
  · exact h
  · exact .setCtx (.dropPassesOf (.dropErrorsOf (.wipe (.scrubLoft (.stopEngines h)))))

theorem canonical.deliver {k : Nat} {f : Frame} {status : Word} (h : canonical s) : canonical (s.deliver k f status) := .setCtx h

/-- The state that a stored word of a window comes to is canonical. -/
def wordCanonical : WordStore → Prop
  | .ok s => canonical s
  | _ => True

theorem wordCanonical.ite {c : Prop} [Decidable c] {q r : WordStore} (hq : wordCanonical q) (hr : wordCanonical r) :
    wordCanonical (if c then q else r) := by
  split
  · exact hq
  · exact hr

theorem wordCanonical.of_eq {q r : WordStore} (h : wordCanonical q) (e : q = r) : wordCanonical r := e ▸ h

theorem wordCanonical.windowWord {k : Nat} {who : Who} {a : Word} {b : List Byte} {bits : Nat} {pc : Word} {payer : Option Dom}
    (h : canonical s) : wordCanonical (s.windowWord k who a b bits pc payer) := by
  unfold State.windowWord
  refine .ite trivial ?_
  split
  · refine .ite ?_ (.ite trivial ?_)
    · split
      · exact optCanonical.parkIn h _ ‹_›
      · trivial
    · split <;> trivial
  · split
    · trivial
    · dsimp only
      split
      · trivial
      · split
        · trivial
        · exact canonical.keepTlbs (.pokes (optCanonical.linkOut (.chargeAll h) _ ‹_›))

theorem canonical.zeroStep {k n : Nat} (h : canonical s) : canonical (s.zeroStep k n) := by
  induction n generalizing s with
  | zero => exact h
  | succ n ih =>
    unfold State.zeroStep
    dsimp only
    split
    · exact h
    · split <;> rename_i e
      · exact ih (.setCtx ((wordCanonical.windowWord h).of_eq e))
      · exact ih (.setCtx h)
      · exact h
      · exact h
      · exact .ite h (.imprecise (.logMacOf (.setCtx h)))

theorem canonical.refuseCall {k : Nat} {f : Frame} {status : Word} (h : canonical s) : canonical (s.refuseCall k f status) :=
  .zeroStep (.setCtx (.deliver (.popFrame h)))

theorem canonical.leftWait {k : Nat} (h : canonical s) : canonical (s.leftWait k) := by
  have hwoke : canonical (if (s.ctx k).wasAsleep then s.noteWoke (s.ctx k).t.launch (ctxFlight k) else s) := .ite (.noteWoke h) h
  unfold State.leftWait
  dsimp only
  split
  · exact .setCtx hwoke
  · exact .setCtx hwoke
  · exact hwoke

theorem canonical.leaveTrap {k : Nat} (h : canonical s) : canonical (s.leaveTrap k) := by
  unfold State.leaveTrap
  dsimp only
  split
  · exact .clearRecord (.leftWait h)
  · exact .leftWait h

theorem canonical.startCleanup {k : Nat} {f : Frame} {rest : List Frame} {status : Word} (h : canonical s) :
    canonical (s.startCleanup k f rest status) := .setCtx (.forgetRels (.clearMem (.leaveTrap h)))

theorem canonical.startWrapup {k : Nat} {f : Frame} {rest : List Frame} (h : canonical s) : canonical (s.startWrapup k f rest) :=
  .setCtx (.divertLoft (.leaveTrap h))

theorem canonical.divertTask {k : Nat} (h : canonical s) : canonical (s.divertTask k) := by
  unfold State.divertTask
  dsimp only
  split
  · exact h
  · exact .setCtx (.onLaunch (.divertLoft (.leftWait h)))

theorem canonical.divertEmpty {k : Nat} (h : canonical s) : canonical (s.divertEmpty k) := .ite (.setCtx h) (.divertTask h)

theorem canonical.runUnwind {k n : Nat} (h : canonical s) : canonical (s.runUnwind k n) := by
  induction n generalizing s with
  | zero => exact h
  | succ n ih =>
    unfold State.runUnwind
    refine .ite h ?_
    dsimp only
    split
    · exact .divertEmpty h
    · exact ih (.setCtx h)
    · exact .ite (.taskEnded (.setCtx h)) (.ite (.divertEmpty (.setCtx h)) (ih (.setCtx h)))
    · have hout {f : Frame} {status : Word} {c : Prop} [Decidable c] :
          canonical (if c then (s.leaveTrap k).refuseCall k f status else (s.leaveTrap k).popFrame k) :=
        .ite (.refuseCall (.leaveTrap h)) (.popFrame (.leaveTrap h))
      exact .ite (ih (.setCtx h)) (.ite (ih (.ite (.setCtx hout) hout)) (.ite (.startWrapup h) (.startCleanup h)))

theorem canonical.respaced {t : State} {k : Nat} (h : canonical s) : canonical (s.respaced t k) := .ite (.spaceFault h) h

theorem canonical.unwound {k : Nat} (h : canonical s) : canonical (s.unwound k) := .ite h (.respaced (.runUnwind h))

theorem canonical.revokeIn {k : Nat} {d : Dom} (h : canonical s) : canonical (s.revokeIn k d).2 := by
  unfold State.revokeIn
  dsimp only
  split
  · exact h
  · exact .unwound (.setCtx h)

theorem canonical.budgetIn {k depth : Nat} (h : canonical s) : canonical (s.budgetIn k depth) := .unwound (.setCtx h)

theorem canonical.stopTask {k : Nat} (h : canonical s) : canonical (s.stopTask k) := by
  unfold State.stopTask
  dsimp only
  split
  · exact .removeTask (.leaveTrap h)
  · exact .ite h (.respaced (.runUnwind (.setCtx h)))

theorem canonical.divert {k : Nat} (h : canonical s) : canonical (s.divert k) :=
  .ite (.setCtx h) (.ite (.setCtx (.setCtx h)) (.ite (.divertEmpty (.setCtx h)) (.unwound (.setCtx (.setCtx h)))))

end Frames

/-! ### Calls and returns (R337, R338, R362, R390, R391) -/

section Calls
variable {s : State}

theorem outCanonical.execGcall {d a b : WReg} (h : canonical s) : outCanonical (execGcall d a b s) := by
  refine .issue h (.ite h (.ite h (.ite h ?_)))
  dsimp only
  split
  · exact h
  · refine .ite h (.ite h ?_)
    split
    · exact .then (.refused h) fun _ _ ht => ht
    · split
      · exact h
      · exact .ite h (.then (.load h) fun _ _ ht => canonical.traced (.respaced (.pushFrame (.retired (.log ht)))))

theorem canonical.copyBack {who : Who} {f : Frame} {bits i : Nat} {refused : Option Word} {n : Nat} (h : canonical s) :
    canonical (s.copyBack who f bits i refused n).s := by
  induction n generalizing s i refused with
  | zero => exact h
  | succ n ih =>
    unfold State.copyBack
    dsimp only
    split <;> rename_i e
    · exact ih ((wordCanonical.windowWord h).of_eq e)
    · exact ih h
    · exact h
    · exact h
    · exact h

theorem canonical.onFrame {g : Frame → Frame} (h : canonical s) : canonical (s.onFrame g) := by
  unfold State.onFrame
  split
  · exact h
  · exact h

theorem canonical.cleanupReturn {f : Frame} {depth : Nat} (h : canonical s) : canonical (s.cleanupReturn f depth) := by
  unfold State.cleanupReturn
  dsimp only
  split
  · exact .ite (.unwound (.respaced (.setCtx (.refuseCall h)))) (.unwound (.respaced (.popFrame h)))
  · exact .respaced (.refuseCall h)

theorem canonical.normalReturn {f : Frame} {status : Word} {refused : Option Word} {bits : Nat} (h : canonical s) :
    canonical (s.normalReturn f status refused bits) := by
  have hpop {status : Word} : canonical (((s.popFrame s.cur).deliver s.cur f status).respaced s s.cur) :=
    .respaced (.deliver (.popFrame h))
  refine .unwound ?_
  split
  · exact .ite hpop (.takeTrap hpop)
  · exact hpop

theorem resCanonical.gretCopy {f : Frame} {status : Word} {bits : Nat} (h : canonical s) :
    resCanonical (s.gretCopy f status bits) := by
  have hback {who : Who} {i n : Nat} {refused : Option Word} :
      canonical (s.copyBack who f bits i refused n).s := .copyBack h
  unfold State.gretCopy
  dsimp only
  split
  · exact .ite (canonical.onFrame hback) (canonical.logMacOf hback)
  · exact .ite (canonical.onFrame hback) (.ite (canonical.onFrame hback) (canonical.log (.onFrame hback)))
  · exact canonical.onFrame hback
  · exact canonical.traced (.normalReturn (.retired hback))

theorem outCanonical.execGret {a : WReg} (h : canonical s) : outCanonical (execGret a s) := by
  refine .issue h ?_
  split
  · exact h
  · exact .ite h (.ite h (.ite h (.ite (canonical.traced (.cleanupReturn (.retired h))) (.gretCopy h))))

end Calls

/-! ### Publishing, revoking and killing (R336, R341, R392, R393) -/

section Revocation
variable {s : State}

theorem outCanonical.execGpub {d a : WReg} (h : canonical s) : outCanonical (execGpub d a s) :=
  .issue h (.ite h (.then (.load h) fun _ _ ht => canonical.resultW (.ite ht ht)))

theorem canonical.dropTlbs {p : TlbEntry → Bool} (h : canonical s) : canonical (s.dropTlbs p) := h

theorem canonical.scrubEngines {d : Dom} (h : canonical s) : canonical (s.scrubEngines d) := .onSaved (.dropErrors (.stopEngines h))

theorem canonical.scrubLofts {d : Dom} (h : canonical s) : canonical (s.scrubLofts d) := .onSaved (.dropPasses (.scrubLoft h))

theorem canonical.scrubDomain {d : Dom} (h : canonical s) : canonical (s.scrubDomain d) :=
  .onSaved (.freeSlots (.scrubLofts (.scrubEngines (.dropTlbs h))))

theorem canonical.revokeAll {d : Dom} {l : List Nat} (h : canonical s) : canonical (s.revokeAll d l).2 := by
  induction l generalizing s with
  | nil => exact h
  | cons k l ih => exact ih (.revokeIn h)

theorem canonical.withGates {l : List (Nat × Gate)} (h : canonical s) : canonical { s with gates := l } := h

theorem canonical.revoke {d : Dom} (h : canonical s) : canonical (s.revoke d).2.2 := by
  unfold State.revoke
  dsimp only
  exact .scrubDomain (.revokeAll (.withGates h))

theorem canonical.scrubPerf {d : Dom} (h : canonical s) : canonical (s.scrubPerf d) := h

theorem canonical.scrubErrors {d : Dom} (h : canonical s) : canonical (s.scrubErrors d) := h

theorem canonical.freeGranules {d : Dom} (h : canonical s) : canonical (s.freeGranules d) := by
  have himages : canonical { s with images := s.images.map fun (i : Image) => i.freeGranules d } := h
  exact .foldl (fun _ _ h => .foldl (fun _ _ h => .ite (.retag h) h) h) himages

theorem canonical.deactivate {d : Dom} (h : canonical s) : canonical (s.deactivate d) := by
  have hkeys : canonical { s with
      keys := s.keys.filter (fun p => p.2.dom != d),
      pot := s.pot.map fun (p, e) => (p, if potValid e && potOwner e == d then setBit e 16 false else e) } := h
  exact .freeGranules (.scrubErrors (.scrubPerf (.scrubDomain hkeys)))

theorem canonical.endDomain {d : Dom} (h : canonical s) : canonical (s.endDomain d).2 := .foldl (fun _ _ h => .endLaunch h) h

theorem resCanonical.grevoke {d : WReg} {dom : Dom} (h : canonical s) : resCanonical (s.grevoke d dom) := by
  have hended : canonical ((s.revoke dom).2.2.endDomain dom).2 := .endDomain (.revoke h)
  unfold State.grevoke
  dsimp only
  exact .ite h (canonical.resultW (.log hended))

theorem outCanonical.execGrevoke {d a : WReg} (h : canonical s) : outCanonical (execGrevoke d a s) :=
  .issue h (.ite h (.ite (canonical.resultW h) (.grevoke h)))

theorem canonical.killBegin {d : Dom} (h : canonical s) : canonical (s.killBegin d) := by
  have hended : canonical ((s.revoke d).2.2.endDomain d).2 := .endDomain (.revoke h)
  unfold State.killBegin
  dsimp only
  exact .withMe hended

theorem canonical.killMore {d : Dom} {m n : Nat} (h : canonical s) : canonical (s.killMore d m n) :=
  .withMe (.endDomain (.revokeAll (.withGates h)))

theorem canonical.killEnd {d : WReg} {dom : Dom} (h : canonical s) : canonical (s.killEnd d dom) :=
  .resultW (.withMe (.log (.log (.deactivate h))))

theorem resCanonical.killOn {d : WReg} {dom : Dom} (h : canonical s) : resCanonical (s.killOn d dom) :=
  .ite h (.ite h (canonical.killEnd h))

theorem outCanonical.execGrevokeKill {d a b : WReg} (h : canonical s) : outCanonical (execGrevokeKill d a b s) := by
  have hkill (dom : Dom) : canonical (s.killBegin dom) := .killBegin h
  refine .issue h ?_
  dsimp only
  split
  · exact .killOn (.killMore h)
  · generalize s.killBegin = kill at hkill ⊢
    exact .ite h (.ite (canonical.resultW h) (.ite (.grevoke h) (.ite (canonical.resultW h) (.ite h (.killOn (hkill _))))))

end Revocation

/-! ### Keys, scrubs and meters (R368, R373, R397 to R400) -/

section Keys
variable {s t : State}

theorem outCanonical.execGinfo {d a b : WReg} (h : canonical s) : outCanonical (execGinfo d a b s) :=
  .issue h (canonical.resultW h)

theorem outCanonical.execDomid {d a : WReg} (h : canonical s) : outCanonical (execDomid d a s) := .issue h (canonical.resultW h)

theorem optCanonical.readsSent {n : Nat} {l : List Read} (h : canonical s) : optCanonical (s.readsSent n l) := by
  induction l generalizing s with
  | nil => exact .some h
  | cons p l ih =>
    intro u hu
    obtain ⟨t, ht, htu⟩ := Option.bind_eq_some_iff.mp hu
    exact ih (optCanonical.linkOut h t ht) u htu

theorem memCanonical.readAll {l : List Read} (h : canonical s) : memCanonical (s.readAll l) := by
  unfold State.readAll
  refine .egressGate h fun t ht => ?_
  split
  · exact h
  · exact canonical.foldl (fun _ _ h => .keepTlbs h) (optCanonical.readsSent ht _ ‹_›)

theorem canonical.enterKey {k : BitVec 768} (h : canonical s) : canonical (s.enterKey k).2 := by
  unfold State.enterKey
  split
  · exact h
  · exact h

theorem canonical.activate {slot : Nat} {x : KeySlot} (h : canonical s) : canonical (s.activate slot x) := by
  have hkeys : canonical { s with keys := put s.keys slot x } := h
  exact hkeys.log

theorem resCanonical.kact {d : WReg} {ea : Word} {w : List Word} (h : canonical s) (h1 : canonical t) :
    resCanonical (s.kact t d ea w) := by
  have hrefuse {l : List Read} {n : Nat} :
      resCanonical ((s.readAll l).then fun _ t => .done (t.resultW d (BitVec.ofNat 64 n))) :=
    .then (.readAll h) fun _ _ ht => canonical.resultW ht
  unfold State.kact
  refine .ite (canonical.resultW h1) ?_
  split
  · exact canonical.resultW h1
  · exact .then (.badMem h h1) fun _ _ ht => ht
  · refine .ite hrefuse ?_
    dsimp only
    split
    · exact hrefuse
    · exact hrefuse
    · refine .ite (.ite hrefuse (.ite h (.then (.readAll h) fun _ _ ht => canonical.resultW (.activate (.enterKey ht))))) ?_
      split
      · exact .then (.badMem h (.enterKey h)) fun _ _ ht => ht
      · refine .ite h (.then (.readAll h) fun _ _ ht => .ite (canonical.resultW ht) (canonical.resultW (.activate ?_)))
        exact canonical.enterKey ht

theorem outCanonical.execKact {d a : WReg} (h : canonical s) : outCanonical (execKact d a s) :=
  .issue h (.ite h (.ite h (.then (.load h) fun _ _ ht => .kact h ht)))

theorem outCanonical.execKdeact {d a : WReg} (h : canonical s) : outCanonical (execKdeact d a s) :=
  .issue h (.ite h (.ite (canonical.resultW h) (.ite (canonical.resultW h)
    (.ite h (canonical.resultW (.log (.deactivate h)))))))

theorem canonical.scrubMask {d : Dom} {m : Word} (h : canonical s) : canonical (s.scrubMask d m) := by
  have h0 : canonical (if m.getLsbD 0 then s.dropTlbs (·.dom == d) else s) := .ite (.dropTlbs h) h
  have h1 := h0.scrubLofts (d := d) |>.ite (c := m.getLsbD 1) h0
  have h2 := h1.scrubEngines (d := d) |>.ite (c := m.getLsbD 2) h1
  have h4 := h2.scrubPerf (d := d) |>.ite (c := m.getLsbD 4) h2
  exact .ite (.scrubErrors h4) h4

theorem outCanonical.execScrub {d a b : WReg} (h : canonical s) : outCanonical (execScrub d a b s) :=
  .issue h (.ite h (.ite (canonical.resultW h) (.ite (canonical.resultW h) (.ite (canonical.resultW h)
    (canonical.resultW (.scrubMask h))))))

theorem outCanonical.execEgset {d a b : WReg} (h : canonical s) : outCanonical (execEgset d a b s) :=
  .issue h (.ite h (.ite (canonical.resultW h) (.ite (canonical.resultW h) (.ite (canonical.resultW h) (canonical.resultW h)))))

end Keys

/-! ### Traps disposed of, and the ends of tasks (R31, R148, R309, R424, R438, R456) -/

section Handlers
variable {s : State} {i : Instr}

theorem canonical.divertLate {k : Nat} (h : canonical s) : canonical (s.divertLate k) := by
  refine .ite ?_ h
  dsimp only
  split
  · exact .divert h
  · exact .result8 (.setLaunch (.divert h))

theorem canonical.resumeHeld {k : Nat} (h : canonical s) : canonical (s.resumeHeld k) := .divertLate (.setCtx (.clearRecord h))

theorem canonical.parkAgain {core : Nat} {p : Parked} {c : Cause} {a : Word} (h : canonical s) :
    canonical (s.parkAgain core p c a) := .request (.writeRecord (.onCore h))

theorem canonical.replayHeld {core : Nat} {p : Parked} {stalled : Bool} (h : canonical s) :
    canonical (s.replayHeld core p stalled) := .onCore h

theorem canonical.performParked {core : Nat} {p : Parked} {l : List Where} (h : canonical s) :
    canonical (s.performParked core p l) := by
  unfold State.performParked
  dsimp only
  split
  · exact .ite (.replayHeld h) (.ite (.replayHeld h) (.ite (.parkAgain (.logAt h)) (.replayHeld (.logAt h))))
  · split
    · exact .ite (.replayHeld h) (.blame (.logMacOf (.onCore h)))
    · split
      · exact .replayHeld h
      · rename_i e
        have ht := optCanonical.linkOut (.chargeAll (.onCore h)) _ e
        exact .pokes (.ite (.sealLines ht) ht)

theorem canonical.replayEntry {core : Nat} {p : Parked} (h : canonical s) : canonical (s.replayEntry core p) := by
  have hclear {k : Nat} : canonical (s.clearRecord k) := .clearRecord h
  refine .ite (.parkAgain hclear) ?_
  split
  · exact .performParked hclear
  · refine .ite (.parkAgain hclear) ?_
    split
    · exact .ite (.replayHeld hclear) (.blame (.logMacOf (.onCore hclear)))
    · exact .parkAgain hclear

theorem canonical.replaysOn (h : canonical s) : canonical s.replaysOn :=
  .foldl (fun _ _ h => .foldl (fun _ _ h => .replayEntry h) h) h

theorem canonical.disposeResume {t : TrapRef} (h : canonical s) : canonical (s.disposeResume t) := by
  cases t with
  | ctx k serial no => exact .ite (.resumeHeld h) h
  | replay core e no =>
    unfold State.disposeResume
    dsimp only
    split
    · exact h
    · exact .ite h (.replayEntry h)

theorem canonical.finishTask (h : canonical s) : canonical s.finishTask := by
  refine .taskEnded ?_
  split
  · exact .disposeResume h
  · exact h

theorem resCanonical.endBody (h : canonical s) : resCanonical s.endBody := by
  refine .ite h ?_
  split
  · exact h
  · exact canonical.finishTask (.retired h)

theorem outCanonical.execEret {a : Opnd} (h : canonical s) : outCanonical (execEret a s) := by
  refine .issue h ?_
  split
  · exact h
  · refine .ite h ?_
    split
    · exact h
    · have hret : canonical ((s.pop a).retired false) := .retired (.pop h)
      refine canonical.taskEnded ?_
      split
      · exact hret
      · exact .ite (.disposeResume hret) (.disposeEnd hret)

end Handlers

/-! ### Helpers, messages, forks and joins (R144 to R150, R256, R257, R276 to R280) -/

section Messages
variable {s : State}

theorem outCanonical.execStart {d a : WReg} (h : canonical s) : outCanonical (execStart d a s) := by
  refine .issue h (.ite h (.ite h ?_))
  split
  · exact canonical.resultW h
  · exact canonical.resultW (.flipAt (.beginTask h))

theorem outCanonical.execHwait {a : WReg} (h : canonical s) : outCanonical (execHwait a s) := .issue h (.ite h h)

theorem outCanonical.execSleep {d a : WReg} (h : canonical s) : outCanonical (execSleep d a s) := .issue h (.ite h (.ite h h))

theorem canonical.transmit {n : Nat} {p : Port} {dest : BitVec 18} {vc : BitVec 2} {payload : List Byte} {launch : Nat}
    (h : canonical s) : canonical (s.transmit n p dest vc payload launch) := h

theorem optCanonical.sendFlit {e : Entry} (h : canonical s) : optCanonical (s.sendFlit e) := by
  intro t ht
  obtain ⟨q, -, rfl⟩ := Option.map_eq_some_iff.mp ht
  exact .transmit h

theorem canonical.sendEntry {e : Entry} (h : canonical s) : canonical (s.sendEntry e) := .stamp (.withMsgs h)

theorem canonical.post {a : Word} {chip core : Nat} (h : canonical s) : canonical (s.post a chip core) :=
  .onCore (.sendEntry (.getD h (.ite .none (.sendFlit h))))

theorem resCanonical.sendTo {a b : Word} {chip core : Nat} {k : State → Res} (h : canonical s)
    (hk : ∀ t, canonical t → resCanonical (k t)) : resCanonical (s.sendTo a b chip core k) := by
  refine .ite (.ite (hk _ (.post h)) h) (.ite h ?_)
  split
  · exact h
  · have hgate : memCanonical (s.egressGate b [(s.me.c.dom, 2, 64)] fun t => Mem.ok () t) := .egressGate h fun _ ht => ht
    split <;> rename_i e <;> replace e := hgate.of_eq e
    · exact hk _ (.post e)
    · exact e
    · exact e
    · exact e
    · exact e

theorem outCanonical.execSendMsg {d a b : WReg} (h : canonical s) : outCanonical (execSendMsg d a b s) := by
  refine .issue h (.ite h (.ite h ?_))
  split
  · exact canonical.resultW h
  · exact .sendTo h fun _ ht => canonical.resultW ht

theorem outCanonical.execSenda {a b : WReg} (h : canonical s) : outCanonical (execSenda a b s) := by
  refine .issue h (.ite h (.ite h ?_))
  split
  · exact h
  · exact .sendTo h fun _ ht => ht

theorem memCanonical.naming {α : Type} {m : Mem α} {a : Word} (hm : memCanonical m) : memCanonical (m.naming a) := by
  cases m with
  | trap c x t => exact hm
  | ok x t => exact hm
  | park x t => exact hm
  | fatal c x t => exact hm
  | wait w t => exact hm

theorem canonical.pushFork {a ra : Word} (h : canonical s) : canonical (s.pushFork a ra) :=
  .ite (.countDiscarded h) (.ite (.stamp (.onCore h)) (.enqueue h))

theorem outCanonical.execForkT {a b : WReg} (h : canonical s) : outCanonical (execForkT a b s) :=
  .issue h (.ite h (.ite h (.ite h (.ite h (.then (.naming (.rmw h)) fun _ _ ht => canonical.pushFork (.chain ht))))))

theorem canonical.placeContinuation {a ra : Word} (h : canonical s) : canonical (s.placeContinuation a ra) := .stamp (.withMsgs h)

theorem canonical.withJoins {l : List (Nat × Joiner)} (h : canonical s) : canonical { s with joins := l } := h

theorem outCanonical.execJoinT {a b : WReg} (h : canonical s) : outCanonical (execJoinT a b s) := by
  refine .issue h (.ite h (.ite h ?_))
  split
  · exact h
  · exact .then (.naming (.rmw h)) fun _ _ ht => canonical.finishTask (.retired
      (.ite (.placeContinuation (.withJoins (.chain ht))) (.withJoins (.chain ht))))

theorem resCanonical.arrive {ra : Word} {r : BarrierRec} (h : canonical s) : resCanonical (s.arrive ra r) := by
  unfold State.arrive
  dsimp only
  split
  · exact .ite h (canonical.ite (.onFlight h) (.onCsr (.onFlight h)))
  · refine .ite h ?_
    split
    · exact h
    · exact canonical.ite (.onFlight h) (.onCsr (.onFlight h))

theorem outCanonical.execDoneB {a : WReg} (h : canonical s) : outCanonical (execDoneB a s) := by
  refine .issue h (.ite h (.ite h (.then (.naming (.load h)) fun _ _ ht => ?_)))
  split
  · exact h
  · exact .arrive ht

end Messages

/-! ### Child launches, timelines and moves (R285, R288, R289, R329 to R334) -/

section Moves
variable {s : State} {i : Instr}

theorem canonical.pushChild {c : Child} (h : canonical s) : canonical (s.pushChild c) := .ite (.setGcore h) (.onCore h)

theorem outCanonical.execLaunchI {d a : WReg} (h : canonical s) : outCanonical (execLaunchI d a s) := by
  refine .issue h (.ite h (.ite h (.ite h ?_)))
  split
  · exact canonical.resultW h
  · exact .ite (canonical.resultW h) (.ite (canonical.resultW h) (.ite (canonical.resultW h)
      (canonical.resultW (.stamp (.pushChild (.setLaunch h))))))

theorem outCanonical.execTlsig {a b : WReg} {c : BitVec 3} (h : canonical s) : outCanonical (execTlsig a b c s) :=
  .issue h (.ite h (.ite h (.then (.rmw h) fun _ _ ht => canonical.chain ht)))

theorem outCanonical.execTlwait {d a b : WReg} {c : BitVec 3} (h : canonical s) : outCanonical (execTlwait d a b c s) := by
  refine .issue h (.ite h (.ite ?_ (.then (.load h) fun _ _ ht => .ite ht (.ite (canonical.resultW (.acquire ht)) ht))))
  split
  · exact .ite (canonical.resultW (.acquire (.withMe h))) (canonical.withMe h)
  · exact h

theorem canonical.rename {core old new serial : Nat} (h : canonical s) : canonical (s.rename core old new serial) := by
  have hown {f : Core → Core} {l : Machine.Loft} {c : Prop} [Decidable c] :
      canonical (if c then (s.onCore core f).setLoft (octetOf core) l else s.onCore core f) :=
    .ite (.setLoft (.onCore h)) (.onCore h)
  exact hown

theorem canonical.saveWords {k : Nat} (h : canonical s) : canonical (s.saveWords k) := by
  unfold State.saveWords
  dsimp only
  split
  · exact h
  · exact .hwBytes h

theorem canonical.moveTo {new : Nat} {home : Option Nat} (h : canonical s) : canonical (s.moveTo new home) := by
  have hmoved {m c : Ctx} : canonical
      (State.setCtx { (s.saveWords s.cur).rename s.homeCore s.cur new s.me.c.serial with me := m } new c) :=
    .setCtx (.withMe (.rename (.saveWords h)))
  exact .ite (.flipAt hmoved) hmoved

theorem canonical.tracedAt {k : Nat} (h : canonical s) : canonical (s.tracedAt k) := .ite (.focus (.traced (.focus h))) h

theorem outCanonical.execMigrate {d : WReg} (h : canonical s) : outCanonical (execMigrate d s) := by
  refine .issue h (.ite h (.ite (canonical.resultW h) ?_))
  split
  · exact h
  · exact canonical.tracedAt (.moveTo (.retireQuiet (.resultW h)))

theorem resCanonical.gmathMove (h : canonical s) : resCanonical s.gmathMove := by
  refine .ite h ?_
  split
  · exact h
  · exact canonical.moveTo h

theorem outCanonical.gmath {f : Out} (h : canonical s) (hf : outCanonical f) : outCanonical (gmath i s f) :=
  .ite hf (.issue h (.gmathMove h))

theorem outCanonical.wide {d a b : Opnd} {f : Nat → Nat → Nat} (h : canonical s) : outCanonical (wide i d a b s f) := by
  refine .issue h ?_
  split
  · exact h
  · exact .ite (canonical.result (.onRegs (.pop2 h))) h

end Moves

/-! ### Boxes, control registers, invalidation and ownership (R353, R405 to R410, R430 to R434, R440 to R442, R462) -/

section System
variable {s : State} {i : Instr}

theorem canonical.bindBox {lead k : Nat} (h : canonical s) : canonical (s.bindBox lead k) := .foldl (fun _ _ h => .onCore h) h

theorem outCanonical.execCompose {d a : WReg} (h : canonical s) : outCanonical (execCompose d a s) :=
  .issue h (.ite h (.ite h (.ite (canonical.resultW h) (.ite (canonical.resultW h) (canonical.resultW (.onCsr (.bindBox h)))))))

theorem outCanonical.execDecomp {d : WReg} (h : canonical s) : outCanonical (execDecomp d s) := by
  refine .issue h (.ite (canonical.resultW h) ?_)
  split
  · exact h
  · exact canonical.resultW (.onCsr (.unbox h))

theorem outCanonical.execTimeI {d a : WReg} (h : canonical s) : outCanonical (execTimeI d a s) := .issue h (canonical.resultW h)

theorem outCanonical.execDlread {d a : WReg} (h : canonical s) : outCanonical (execDlread d a s) := by
  refine .issue h ?_
  dsimp only
  split
  · exact canonical.resultW h
  · exact .ite (canonical.resultW h) (.ite (canonical.resultW h) (canonical.resultW h))
  · exact canonical.resultW h
  · exact canonical.resultW h
  · exact canonical.resultW h

theorem outCanonical.execPvalid {a b : WReg} (h : canonical s) : outCanonical (execPvalid a b s) :=
  .issue h (.ite h (.ite h (.then (.rmw h) fun _ _ ht => canonical.chain ht)))

theorem canonical.setWp {x : Word} (h : canonical s) : canonical (s.setWp x) := by
  have hspill {o : Option Nat} {b : List Byte} : Memory.wf (match o with
      | some a => Memory.setBytes s.mem (a + 8) b
      | none => s.mem) = true := by
    split
    · exact Memory.wf_setBytes _ _ _ h.1
    · exact h.1
  unfold State.setWp
  dsimp only
  split
  · exact h.withMem hspill rfl rfl
  · exact h.withMem hspill rfl rfl

theorem canonical.writeCsr {n : BitVec 12} {x : Word} (h : canonical s) : canonical (s.writeCsr n x) := by
  unfold State.writeCsr
  split
  · exact .onCsr h
  · exact .setWp h
  · exact .onCsr h
  · exact .onCsr h
  · exact .setPart h
  · exact .onCsr h
  · exact h

theorem outCanonical.execCsrr {d : Opnd} {n : BitVec 12} (h : canonical s) : outCanonical (execCsrr d n s) := by
  refine .issue h (.ite h (.ite h (.ite ?_ (canonical.result h))))
  split
  · exact h
  · exact canonical.result h

theorem outCanonical.csrWrite {a : Opnd} {n : BitVec 12} {f : Word → Word → Word} (h : canonical s) :
    outCanonical (csrWrite i a n s f) := by
  refine .issue h (.ite h ?_)
  split
  · exact h
  · split
    · exact h
    · exact .ite h (canonical.writeCsr (.pop h))

theorem canonical.post_ {i : Inval} (h : canonical s) : canonical (s.post_ i) := .ite h h

theorem outCanonical.execTlbinv {a b : Opnd} (h : canonical s) : outCanonical (execTlbinv a b s) := by
  refine .issue h ?_
  split
  · exact h
  · exact .ite h (.ite h (canonical.stamp (.post_ (.pop2 h))))

theorem outCanonical.execTlbsync (h : canonical s) : outCanonical (execTlbsync s) := .issue h (.ite h h)

theorem outCanonical.execWfi (h : canonical s) : outCanonical (execWfi s) := .issue h (.ite h h)

theorem canonical.zeroPage {page key : Nat} (h : canonical s) : canonical (s.zeroPage page key) :=
  h.withMem (Memory.wf_clear _ _ _ h.1) rfl rfl

theorem canonical.withPot {l : List (Nat × Word)} (h : canonical s) : canonical { s with pot := l } := h

theorem canonical.potw {a e : Word} (h : canonical s) : canonical (s.potw a e) := by
  refine .log (.withPot (.ite ?_ h))
  split
  · exact .zeroPage h
  · exact h

theorem outCanonical.execPotw {d a b : Opnd} (h : canonical s) : outCanonical (execPotw d a b s) := by
  refine .issue h ?_
  split
  · exact h
  · refine .ite h (.ite h ?_)
    dsimp only
    split
    · exact .then (.badMem h h) fun _ _ ht => ht
    · exact .ite (canonical.result (.pop2 h)) (.ite h (canonical.result (.potw (.pop2 h))))

end System

end Sys2Proof.Safety
end
end

section
/-!
PROOFS. The canonical form (O4): the front ends, saves and restores, expiries, the service cores and the world outside keep it.
-/
noncomputable section
namespace Sys2Proof.Safety
open Sys2Proof.Machine

/-! ### Queues and the admission of a launch (R265, R285, R286, R482 to R485, R503) -/

section FrontEnd
variable {s : State}

theorem canonical.setQueue {k : Nat} {q : SubQ} (h : canonical s) : canonical (s.setQueue k q) := h

theorem canonical.msix {fn vector : Nat} (h : canonical s) : canonical (s.msix fn vector) := .ite h h

theorem canonical.withSeq {n : Nat} (h : canonical s) : canonical { s with seq := n } := h

theorem outCanonical.execSubmissionDoorbell {fn q : Nat} {tail : BitVec 16} (h : canonical s) :
    outCanonical (execSubmissionDoorbell fn q tail s) := .ite h (canonical.withSeq (.setQueue h))

theorem outCanonical.execQueueEnable {fn q : Nat} (h : canonical s) : outCanonical (execQueueEnable fn q s) :=
  .ite h (canonical.setQueue h)

theorem canonical.take {c : Cand} (h : canonical s) : canonical (s.take c) := by
  unfold State.take
  dsimp only
  split
  · exact .setQueue h
  · exact .setGcore h
  · exact .onCore h
  · exact h

theorem canonical.afterEnd {source : Option (Nat × Nat × Nat)} {vector : Option Nat} {parent : Nat} {told : Bool}
    (h : canonical s) : canonical (s.afterEnd source vector parent told) := by
  have hparent {f : Launch → Launch} : canonical (s.onLaunch parent f) := .onLaunch h
  unfold State.afterEnd
  dsimp only
  split
  · exact hparent
  · split
    · exact .msix (.ite hparent (.setQueue hparent))
    · exact .ite hparent (.setQueue hparent)

theorem canonical.refuse {c : Cand} {die : Nat} (h : canonical s) : canonical (s.refuse c die) := by
  refine .afterEnd ?_
  split
  · exact h
  · split
    · exact h
    · exact .announce h

theorem canonical.withNextLaunch {n : Nat} (h : canonical s) : canonical { s with nextLaunch := n } := h

theorem canonical.acceptLaunch {c : Cand} {die : Nat} {b : List Byte} {lv : List Level} {leaves : List Leaf} (h : canonical s) :
    canonical (s.acceptLaunch c die b lv leaves) := by
  have hset {n p : Nat} {l : Launch} {x : Part} :
      canonical (({ s with nextLaunch := s.nextLaunch + 1 }.setLaunch n l).setPart p x) :=
    .setPart (.setLaunch (.withNextLaunch h))
  refine .ite ?_ hset
  split
  · exact hset
  · rename_i e
    have ht := optCanonical.hwStore hset _ e
    exact .getD ht (.hwStore ht)

theorem canonical.tablesRead {w : Who} {a : Word} {l : List Level} (h : canonical s) : canonical (s.tablesRead w a l) := by
  induction l generalizing s a with
  | nil => exact h
  | cons x r ih => exact .ite (ih h) (.ite (.hwRead h) (ih (.hwRead h)))

theorem canonical.recordRead {c : Cand} (h : canonical s) : canonical (s.recordRead c) := by
  unfold State.recordRead
  dsimp only
  split
  · exact .hwRead h
  · split
    · exact .hwRead h
    · exact .tablesRead (.hwRead h)

theorem outCanonical.execLaunchAdmission {die : Nat} (h : canonical s) : outCanonical (execLaunchAdmission die s) := by
  unfold Machine.execLaunchAdmission
  split
  · exact h
  · have ht {c : Cand} {d : Dom} {pa : Nat} : canonical (((s.decided.take c).noteTable die 0 d pa).recordRead c) :=
      .recordRead (.noteTable (.take (.decided h)))
    dsimp only
    split
    · exact canonical.refuse ht
    · exact canonical.decided (.acceptLaunch ht)

end FrontEnd

/-! ### Leaf starts, dispatch, messages and barriers (R51, R258, R259, R270 to R281, R284) -/

section Dispatch
variable {s : State}

theorem canonical.tagCore {core : Nat} {d : Dom} (h : canonical s) : canonical (s.tagCore core d) :=
  .foldl (fun _ _ h => .retag h) h

theorem canonical.startEntry {k : Nat} {e : Entry} {bx : Bool} (h : canonical s) : canonical (s.startEntry k e bx) := by
  unfold State.startEntry
  split
  · exact h
  · have hbegin {c : Prop} [Decidable c] {l : Launch} {entry p1 p2 p3 p4 lrec : Word} {dom : Dom} {t : Task} {psw : BitVec 19} :
        canonical ((if c then s.setLaunch e.launch l else s).beginTask k entry p1 p2 p3 p4 dom lrec t psw) :=
      .beginTask (.ite (.setLaunch h) h)
    exact .ite (.setCtx hbegin) hbegin

theorem canonical.startLeaf {n : Nat} {l : Launch} {f : Leaf} (h : canonical s) : canonical (s.startLeaf n l f) := by
  have htag {l : Launch} {core lead : Nat} {d : Dom} : canonical (((s.setLaunch n l).tagCore core d).tagCore lead d) :=
    .tagCore (.tagCore (.setLaunch h))
  refine .ite (.enqueue htag) (.ite (.flipAt (.startEntry (.bindBox htag))) ?_)
  split
  · exact .flipAt (.startEntry htag)
  · exact .enqueue htag

theorem outCanonical.execLeafStart {launch leaf : Nat} (h : canonical s) : outCanonical (execLeafStart launch leaf s) := by
  unfold Machine.execLeafStart
  split
  · exact h
  · split
    · exact h
    · exact .ite (canonical.startLeaf (.decided h)) h

theorem outCanonical.execTaskDispatch {core : Nat} (h : canonical s) : outCanonical (execTaskDispatch core s) := by
  unfold Machine.execTaskDispatch
  split
  · exact canonical.flipAt (.ite (.startEntry (.bindBox (.decided (.onCore h)))) (.startEntry (.decided (.onCore h))))
  · exact h

theorem canonical.arriveEntry {e : Entry} (h : canonical s) : canonical (s.arriveEntry e) := by
  unfold State.arriveEntry
  dsimp only
  split
  · exact .received (.withMsgs h)
  · refine .ite (.ite (.received (.withMsgs h)) ?_) (.ite (.received (.withMsgs h)) (.ite (.blame (.received (.withMsgs h)))
      (.ite (.countDiscarded (.received (.withMsgs h))) (.ite (.ite (.enqueue (.received (.withMsgs h))) h)
        (.onFlight (.ite (.received (.withMsgs h)) (.receivedSaved (.withMsgs h))))))))
    split
    · exact h
    · exact .charge (optCanonical.sendFlit (.withMsgs h) _ ‹_›)

theorem outCanonical.execMessageArrival {n : Nat} (h : canonical s) : outCanonical (execMessageArrival n s) := by
  unfold Machine.execMessageArrival
  split
  · exact h
  · exact .ite h (canonical.arriveEntry h)

theorem canonical.completion {b : Barrier} {phase : Word} {flight : Nat} (h : canonical s) :
    canonical (s.completion b phase flight) := by
  unfold State.completion
  split
  · exact h
  · exact .sendEntry h

theorem outCanonical.execBarrierPhaseRelease {flight ctr : Nat} (h : canonical s) :
    outCanonical (execBarrierPhaseRelease flight ctr s) := by
  unfold Machine.execBarrierPhaseRelease
  split
  · exact h
  · refine .ite h ?_
    dsimp only
    split
    · split
      · exact canonical.endLaunch (.hwMac (.onFlight h))
      · exact canonical.endLaunch (.onFlight h)
    · split
      · exact canonical.endLaunch (.hwMac (.onFlight h))
      · exact canonical.foldl (fun _ _ h => .wakeCore h)
          (.ite (.completion (.chain (.pokes (.hwSent (.onFlight h))))) (.chain (.pokes (.hwSent (.onFlight h)))))

end Dispatch

/-! ### The end of a launch (R24, R273, R483, R503) -/

section LaunchEnd
variable {s : State}

theorem canonical.withLaunches {l : List (Nat × Launch)} (h : canonical s) : canonical { s with launches := l } := h

theorem canonical.closeLaunch {n : Nat} {l : Launch} {e : EndStatus} {code : Nat} (h : canonical s) :
    canonical (s.closeLaunch n l e code) := .afterEnd (.withLaunches (.announce (.noteTable (.scrubLaunch h))))

theorem canonical.stopLaunch {n : Nat} (h : canonical s) : canonical (s.stopLaunch n) :=
  .foldl (fun _ _ h => .stopTask h) (.scrubLoft (.stopEngines (.dropEntries (.onLaunch h))))

theorem outCanonical.execLaunchEnd {n : Nat} (h : canonical s) : outCanonical (execLaunchEnd n s) := by
  unfold Machine.execLaunchEnd
  split
  · exact h
  · split
    · exact .ite (canonical.closeLaunch h) h
    · refine .ite h (.ite ?_ (canonical.stopLaunch h))
      split
      · exact canonical.closeLaunch (.stopLaunch h)
      · exact canonical.stopLaunch h

end LaunchEnd

/-! ### Pre-emption and the cut (R33, R466 to R471, R485, R486) -/

section Cut
variable {s : State}

theorem canonical.suspend {k : Nat} (h : canonical s) : canonical (s.suspend k) := .setCtx (.saveWords h)

theorem canonical.reload {k : Nat} (h : canonical s) : canonical (s.reload k) := by
  refine .ite h ?_
  dsimp only
  split
  · exact .setCtx h
  · exact .setCtx h

theorem canonical.settleFlight {f : Nat} (h : canonical s) : canonical (s.settleFlight f) := .ite (.setFlight h) h

theorem outCanonical.execTaskSuspension {k : Nat} (h : canonical s) : outCanonical (execTaskSuspension k s) :=
  .ite (canonical.settleFlight (.ite (.flipAt (.suspend h)) (.suspend h))) h

theorem canonical.armWatch {core limit : Nat} (h : canonical s) : canonical (s.armWatch core limit) := h.mapCtxs rfl h.1 rfl

theorem canonical.disarm {core : Nat} (h : canonical s) : canonical (s.disarm core) := h.mapCtxs rfl h.1 rfl

theorem canonical.preempt {f : Nat} (h : canonical s) : canonical (s.preempt f) :=
  .ite h (.foldl (fun _ _ h => .armWatch h) (.setFlight h))

theorem canonical.beginCut {part : Nat} (h : canonical s) : canonical (s.beginCut part) :=
  .foldl (fun _ _ h => .flipAt h) (.withLaunches (.foldl (fun _ _ h => .onFlight h) h))

theorem canonical.stopFlights {part : Nat} {l : List Nat} (h : canonical s) : canonical (s.stopFlights part l) :=
  .ite (.foldl (fun _ _ h => .preempt h) h) (.beginCut (.foldl (fun _ _ h => .preempt h) h))

theorem canonical.killCuts (h : canonical s) : canonical s.killCuts := .foldl (fun _ _ h => .ite (.beginCut h) h) h

theorem canonical.withCores {l : List (Nat × Core)} {m : List (Nat × Launch)} (h : canonical s) :
    canonical { s with cores := l, launches := m } := h

theorem canonical.closeCut {part : Nat} (h : canonical s) : canonical (s.closeCut part) := by
  have hclosed {l : List Nat} {x : Part} {m : List (Nat × Core)} {n : List (Nat × Launch)} {g : Nat → Flight → Flight} : canonical
      (l.foldl (fun (s : State) f => (s.onFlight f (g f)).settleFlight f) { s.setPart part x with cores := m, launches := n }) :=
    .foldl (fun _ _ h => .settleFlight (.onFlight h)) (.withCores (.setPart h))
  exact .ite (.beginCut hclosed) hclosed

theorem outCanonical.execColourCutClose {part : Nat} (h : canonical s) : outCanonical (execColourCutClose part s) :=
  .ite (canonical.closeCut h) h

end Cut

/-! ### Saves and restores (R466, R469 to R476) -/

section Saves
variable {s : State}

theorem canonical.withImages {l : List Image} {m : List (Nat × Nat)} {n : List Nat} (h : canonical s) :
    canonical { s with images := l, lineKey := m, eccLines := n } := h

theorem canonical.putImages {l : List Image} {n : Nat} (h : canonical s) : canonical { s with images := l, freeCount := n } := h

theorem canonical.addImage {i : Image} (h : canonical s) : canonical (s.addImage i) :=
  .putImages (.foldl (fun _ _ h => .forgetRels (.withImages h)) h)

/-- The memory of a core that is emptied goes, and every context keeps its key. -/
theorem canonical.emptyCore {core : Nat} {zero : Bool} (h : canonical s) : canonical (s.emptyCore core zero) :=
  .wakeCore (.setCore (h.mapCtxs rfl (Memory.wf_filter _ _ h.1) rfl))

theorem canonical.failDoms {l : List Dom} (h : canonical s) : canonical (s.failDoms l) := .foldl (fun _ _ h => .endLaunch h) h

/-- The memory of a core that is restored is that of the image over what stays. -/
theorem canonical.restoreCore {i : Image} {src dst : Nat} {mode : CoreMode} {into : List (Nat × Nat)} (h : canonical s) :
    canonical (s.restoreCore i src dst mode into) :=
  .foldl (fun _ _ h => .reload (.setCtx h))
    (.wakeCore (.setCore (h.withMem (Memory.wf_foldl_set _ _ _ _ (Memory.wf_filter _ _ h.1)) rfl rfl)))

theorem canonical.restoreFlight {i : Image} {f : Nat} (h : canonical s) : canonical (s.restoreFlight i f) :=
  .onFlight (.foldl (fun _ _ h => .setLoft h) h)

theorem canonical.fstIte {β : Type} {c : Prop} [Decidable c] {p q : State × β} (hp : canonical p.1) (hq : canonical q.1) :
    canonical (if c then p else q).1 := by
  split
  · exact hp
  · exact hq

theorem canonical.fstFoldl {α β : Type} {f : State × β → α → State × β} {l : List α} {p : State × β}
    (hf : ∀ p x, canonical p.1 → canonical (f p x).1) (h : canonical p.1) : canonical (l.foldl f p).1 := by
  induction l generalizing p with
  | nil => exact h
  | cons x r ih => exact ih (hf p x h)

theorem canonical.enterAll {l : List Entry} (h : canonical s) : canonical (s.enterAll l) :=
  .withMsgs (.fstFoldl (fun _ _ h => .fstIte (.enqueue h) (.onCore h)) h)

theorem canonical.sift {l : List Entry} (h : canonical s) : canonical (s.sift l).1 := by
  induction l generalizing s with
  | nil => exact h
  | cons e r ih =>
    unfold State.sift
    split
    · exact ih h
    · exact .fstIte (ih h) (.fstIte (ih (.blame h)) (.fstIte (ih (.countDiscarded h)) (ih h)))

theorem canonical.divertAll {l : List Nat} (h : canonical s) : canonical (s.divertAll l) := by
  induction l generalizing s with
  | nil => exact h
  | cons k l ih => exact ih (.ite (.divert h) h)

theorem canonical.spend {i : Image} (h : canonical s) : canonical (s.spend i) := h

theorem canonical.follow {i : Image} {src dst : Nat} {into : List (Nat × Nat)} (h : canonical s) :
    canonical (s.follow i src dst into) := .ite h h

end Saves

/-! ### The events of the saves and the slices (R466 to R470, R474 to R476, R485, R486) -/

section SaveEvents
variable {s : State}

theorem canonical.setMem {m : List Host.Cell} (h : canonical s) (hm : Memory.wf m = true) : canonical { s with mem := m } :=
  h.withMem hm rfl rfl

/-- Byte lists written one after another keep memory well formed. -/
theorem Memory.wf_foldl_setBytes {α : Type} {f : α → Nat} {b : List Byte} {l : List α} {m : List Host.Cell}
    (h : Memory.wf m = true) : Memory.wf (l.foldl (fun m x => Memory.setBytes m (f x) b) m) = true := by
  induction l generalizing m with
  | nil => exact h
  | cons x r ih => exact ih (Memory.wf_setBytes _ _ _ h)

theorem outCanonical.execFlightSaveComplete {flight : Nat} (h : canonical s) : outCanonical (execFlightSaveComplete flight s) := by
  unfold Machine.execFlightSaveComplete
  dsimp only
  split
  · exact h
  · exact canonical.setFlight (.foldl (fun _ _ h => .setLoft h) (.foldl (fun _ _ h => .emptyCore h)
      (.setMem (.addImage h) (Memory.wf_foldl_setBytes (canonical.addImage h).1))))

theorem outCanonical.execFlightRestoreComplete {flight : Nat} (h : canonical s) :
    outCanonical (execFlightRestoreComplete flight s) := by
  unfold Machine.execFlightRestoreComplete
  dsimp only
  split
  · exact h
  · refine .ite h ?_
    split
    · exact h
    · exact canonical.divertAll (.enterAll (.sift (.onFlight (.spend (.restoreFlight
        (.foldl (fun _ _ h => .follow (.restoreCore h)) (.failDoms h)))))))

theorem canonical.giveFlight {p f : Nat} (h : canonical s) : canonical (s.giveFlight p f) := .setFlight h

theorem outCanonical.execTimeSliceStart {part : Nat} (h : canonical s) : outCanonical (execTimeSliceStart part s) :=
  .ite (canonical.setPart (.foldl (fun _ _ h => .giveFlight h) h)) h

theorem outCanonical.execTimeSliceEnd {part : Nat} (h : canonical s) : outCanonical (execTimeSliceEnd part s) :=
  .ite (canonical.stopFlights (.setPart h)) h

theorem outCanonical.execPartitionEnable {part : Nat} (h : canonical s) : outCanonical (execPartitionEnable part s) :=
  .ite h (.ite h h)

theorem outCanonical.execPartitionDisable {part : Nat} (h : canonical s) : outCanonical (execPartitionDisable part s) :=
  .ite h (.ite h (canonical.stopFlights (.setPart h)))

theorem canonical.unsave {core : Nat} (h : canonical s) : canonical (s.unsave core) :=
  .ite (.onCore (.disarm h)) (.foldl (fun _ _ h => .reload h) (.onCore (.disarm h)))

theorem canonical.saveCore {core : Nat} {segs : List (Nat × Nat × Nat)} (h : canonical s) : canonical (s.saveCore core segs) :=
  .onCore (.writeMem (.emptyCore (.addImage h)))

theorem outCanonical.execCtxsave {d a b : Opnd} (h : canonical s) : outCanonical (execCtxsave d a b s) := by
  refine .issue h ?_
  split
  · exact h
  · refine .ite h (.ite h (.ite (.ite h ?_) (.ite (canonical.result (.pop2 h)) (.ite (canonical.armWatch (.onCore h)) ?_))))
    · split
      · exact canonical.result (.unsave (.pop2 h))
      · exact canonical.result (.saveCore (.pop2 h))
    · split
      · exact canonical.result (.unsave (.pop2 (.armWatch (.onCore h))))
      · exact canonical.result (.saveCore (.pop2 (.armWatch (.onCore h))))

theorem canonical.abandonSave {core : Nat} (h : canonical s) : canonical (s.abandonSave core) := by
  unfold State.abandonSave
  split
  · exact .ite h (.unsave h)
  · exact h

theorem canonical.remap {src dst n : Nat} (h : canonical s) : canonical (s.remap src dst n) := by
  have hmoved {f : Launch → Launch} : canonical (s.onLaunch n f) := .onLaunch h
  exact hmoved

theorem canonical.loadCore {i : Image} {dst : Nat} {into : List (Nat × Nat)} (h : canonical s) :
    canonical (s.loadCore i dst into) := by
  have hloaded {t : State} (ht : canonical t) {mode : CoreMode} : canonical (i.launches.foldl (fun s n => s.remap i.source dst n)
      (((t.restoreCore i i.source dst mode into).follow i i.source dst into).spend i)) :=
    .foldl (fun _ _ h => .remap h) (.spend (.follow (.restoreCore ht)))
  exact .divertAll (.enterAll (.ite (hloaded (.failDoms h)) (.onCore (hloaded (.failDoms h)))))

theorem outCanonical.execCtxload {d a b : Opnd} (h : canonical s) : outCanonical (execCtxload d a b s) := by
  refine .issue h ?_
  split
  · exact h
  · refine .ite h (.ite h (.ite (canonical.result (.pop2 h)) (.ite (canonical.result (.pop2 h)) ?_)))
    split
    · exact canonical.result (.pop2 h)
    · split
      · exact h
      · exact canonical.result (.loadCore (.pop2 h))

theorem outCanonical.execAwaitLoadTimeout {core : Nat} (h : canonical s) : outCanonical (execAwaitLoadTimeout core s) := by
  unfold Machine.execAwaitLoadTimeout
  split
  · refine .ite h ?_
    split
    · exact canonical.onCore h
    · exact canonical.foldl (fun _ _ h => .endLaunch h) (.spend (.onCore h))
  · exact h

theorem outCanonical.execSendForwardingExpiry {core : Nat} (h : canonical s) : outCanonical (execSendForwardingExpiry core s) := by
  unfold Machine.execSendForwardingExpiry
  split
  · exact .ite (canonical.onCore h) h
  · exact h

theorem outCanonical.execWatchdogExpiry {k : Nat} (h : canonical s) : outCanonical (execWatchdogExpiry k s) :=
  .ite (canonical.imprecise (.leaveTrap (.setCtx h))) h

end SaveEvents

/-! ### Expiries and imprecise faults (R149, R323, R343, R361, R364, R402 to R404, R422 to R426, R457, R477) -/

section Deadlines
variable {s : State}

theorem canonical.expire {n : Nat} {l : Launch} (h : canonical s) : canonical (s.expire n l) := by
  have hcut {m : List (Nat × Core)} {i : List Image} {l : Launch} :
      canonical (State.setLaunch { s with cores := m, images := i } n l) := h
  exact .foldl (fun _ _ h => .divert h) (.ite hcut (.getD (.hwBad hcut) (.hwStore hcut)))

theorem outCanonical.execDeadlineExpiry {n : Nat} (h : canonical s) : outCanonical (execDeadlineExpiry n s) := by
  unfold Machine.execDeadlineExpiry
  split
  · exact h
  · exact .ite (canonical.expire h) h

theorem outCanonical.execWrapUpBudgetOverrun {k : Nat} (h : canonical s) : outCanonical (execWrapUpBudgetOverrun k s) :=
  .ite (canonical.imprecise (.leaveTrap (.setCtx h))) h

theorem outCanonical.execGateBudgetOverrun {k depth : Nat} (h : canonical s) : outCanonical (execGateBudgetOverrun k depth s) :=
  .ite (canonical.budgetIn (.leftWait h)) h

theorem canonical.endOverrun {k : Nat} {p : Frame → Bool} (h : canonical s) : canonical (s.endOverrun k p) :=
  .ite (.unwound (.setCtx (.leftWait h))) h

theorem outCanonical.execSleepTimeLimit {k : Nat} (h : canonical s) : outCanonical (execSleepTimeLimit k s) := by
  unfold Machine.execSleepTimeLimit
  dsimp only
  split
  · exact .ite (canonical.setCtx h) h
  · exact h

theorem outCanonical.execPauseExpiry {k : Nat} (h : canonical s) : outCanonical (execPauseExpiry k s) := by
  unfold Machine.execPauseExpiry
  dsimp only
  split
  · exact .ite (canonical.setCtx h) h
  · exact h

theorem outCanonical.execAllasleepTrap {n : Nat} (h : canonical s) : outCanonical (execAllasleepTrap n s) := by
  unfold Machine.execAllasleepTrap
  split
  · exact h
  · exact .ite (canonical.endLaunch (.foldl (fun _ _ h => .imprecise h) h)) h

theorem outCanonical.execImpreciseFaultStop {k : Nat} (h : canonical s) : outCanonical (execImpreciseFaultStop k s) := by
  unfold Machine.execImpreciseFaultStop
  dsimp only
  split
  · exact .ite (canonical.ite h (.supervisorFault h)) (.ite (canonical.endLaunch (.setCtx h)) (canonical.endTask (.setCtx h)))
  · exact h

end Deadlines

/-! ### Handlers, acknowledgements and the links (R289, R377, R379, R384, R385, R437, R442, R450, R453 to R455, R487, R495) -/

section Service
variable {s t : State}

theorem canonical.handlersRead {flight : Nat} {r : Request} (h : canonical s) : canonical (s.handlersRead flight r) :=
  .foldl (fun _ _ h => .noteTable h) h

theorem canonical.refill {flight : Nat} {l : List Request} (h : canonical s) : canonical (s.refill flight l) := by
  induction l generalizing s with
  | nil => exact h
  | cons r l ih => exact ih (.ite (.setFlight h) h)

theorem canonical.unmatched {r : Request} (h : canonical s) : canonical (s.unmatched r) :=
  .ite h (.ite (.ite (.endLaunch h) (.endLaunch h)) (.disposeEnd h))

theorem canonical.startHandler {core : Nat} {r : Request} {entry : Word} (h : canonical s) :
    canonical (s.startHandler core r entry) := .beginTask h

theorem outCanonical.execHandlerStart {flight : Nat} (h : canonical s) : outCanonical (execHandlerStart flight s) := by
  unfold Machine.execHandlerStart
  dsimp only
  split
  · exact h
  · split
    · exact canonical.unmatched (.handlersRead (.refill (.setFlight h)))
    · exact canonical.startHandler (.handlersRead (.refill (.setFlight h)))

theorem canonical.removeHeld {a : InvAgent} {i : Inval} (h : canonical s) : canonical (s.removeHeld a i) := by
  cases a with
  | core n => exact .onCore h
  | flight n => exact .onFlight h
  | gondola n => exact .setGcore h
  | engine n => exact h

theorem canonical.withInvals {l : List Inval} (h : canonical s) : canonical { s with invals := l } := h

theorem canonical.closeInvals (h : canonical s) : canonical s.closeInvals := h

theorem outCanonical.execInvalidationAcknowledge {a : InvAgent} (h : canonical s) :
    outCanonical (execInvalidationAcknowledge a s) :=
  .ite h (canonical.closeInvals (.withInvals (.foldl (fun _ _ h => .removeHeld h) h)))

theorem outCanonical.execAtsInvalidationCompletion (h : canonical s) : outCanonical (execAtsInvalidationCompletion s) := .ite h h

theorem outCanonical.execTimelineWake {k : Nat} {value status : Word} (h : canonical s) :
    outCanonical (execTimelineWake k value status s) := .ite (canonical.setCtx h) h

theorem canonical.again {i : Instr} (h : canonical s) : canonical (s.again i) := h

theorem canonical.withStalls {l : List Instr} (h : canonical s) : canonical { s with stalls := l } := h

theorem canonical.stall {i : Instr} {d : Dom} {cls : Nat} {addr : Word} {l : List Where} (h : canonical s) :
    canonical (s.stall i d cls addr l) := .ite (.again h) (.again (.logAt (.withStalls h)))

theorem canonical.unstall {i : Instr} (h : canonical s) : canonical (s.unstall i) := .ite h h

theorem canonical.answerTo {i : Instr} {chip : BitVec 18} {addr n : Nat} {l : List Where} (h : canonical s) (h1 : canonical t) :
    canonical (s.answerTo i chip addr n l t) := .ite (.stall h) (.ite (.again h) (.respond (.charge (.unstall h1))))

/-- It is unfolded as a function, so that no check of a type computes the number of the page. -/
theorem canonical.notePot {addr : Nat} (h : canonical s) : canonical (s.notePot addr) := by
  obtain ⟨f, hf⟩ : ∃ f, f = State.notePot := ⟨_, rfl⟩
  rw [← hf]
  delta State.notePot at hf
  subst hf
  dsimp only
  split
  · exact h
  · exact .hwMac h

theorem canonical.remoteUpdate {chip : BitVec 18} {op : RemoteOp} {value : Word} {l : List Where} (h : canonical s) :
    canonical (s.remoteUpdate chip op value l) := by
  unfold State.remoteUpdate
  split
  · exact h
  · exact .chain (.pokes h)

theorem outCanonical.execRemoteAtomic {chip : BitVec 18} {addr : Nat} {op : RemoteOp} {value : Word} (h : canonical s) :
    outCanonical (execRemoteAtomic chip addr op value s) := by
  refine .ite h ?_
  split
  · exact canonical.notePot h
  · split
    · exact canonical.hwMac h
    · split
      · exact .ite (canonical.answerTo h h) h
      · exact canonical.remoteUpdate h
      · exact canonical.answerTo h (.remoteUpdate h)
      · exact canonical.answerTo h (.remoteUpdate h)

theorem canonical.remoteWakes (h : canonical s) : canonical s.remoteWakes := .ite h h

theorem outCanonical.execRemoteAccess {chip : BitVec 18} {addr : Nat} {acc : RemoteAcc} (h : canonical s) :
    outCanonical (execRemoteAccess chip addr acc s) := by
  refine .ite h ?_
  split
  · split
    · exact canonical.notePot h
    · exact canonical.answerTo h h
  · split
    · exact canonical.notePot h
    · dsimp only
      split
      · exact h
      · exact canonical.chain (.pokes (.ite (.sealLines h) h))

theorem outCanonical.execEgressBucketRefill {d : Dom} {cls : BitVec 2} {n : Nat} (h : canonical s) :
    outCanonical (execEgressBucketRefill d cls n s) := by
  unfold Machine.execEgressBucketRefill
  dsimp only
  split
  · exact h
  · exact .ite h h

theorem outCanonical.execLogCheckpointRequest {die : Nat} (h : canonical s) : outCanonical (execLogCheckpointRequest die s) :=
  .ite (canonical.addCheckpoint h) h

theorem outCanonical.execDebugAttach {port : Nat} {target : Dom} (h : canonical s) : outCanonical (execDebugAttach port target s) :=
  .ite h (.ite (canonical.again h) (canonical.logAt h))

theorem outCanonical.execAttestationRequest {d : Dom} {nonce : Vec} (h : canonical s) :
    outCanonical (execAttestationRequest d nonce s) := .ite h (canonical.foldl (fun _ _ h => .poke h) h)

end Service

/-! ### The world outside (R421, R480, R481, R486 to R500) -/

section Outside
variable {s : State}

theorem canonical.answer {r : Reply} (h : canonical s) : canonical (s.answer r) := h

theorem canonical.abort (h : canonical s) : canonical s.abort := .answer h

theorem canonical.hostBad {fn : Nat} {i : Instr} {bad : Option (Cause × Nat × Dom)} (h : canonical s) :
    canonical (s.hostBad fn i bad) := by
  unfold State.hostBad
  split
  · exact .abort h
  · exact .ite (.again h) (.abort (.logMacAt h))

theorem canonical.hostGate {i : Instr} {addr : Word} {charges : List (Dom × Nat × Nat)} {l : List Where} {vc : BitVec 2}
    {k : State → State} (h : canonical s) (hk : ∀ t, canonical t → canonical (k t)) :
    canonical (s.hostGate i addr charges l vc k) := by
  unfold State.hostGate
  split
  · exact .stall h
  · split
    · exact .again h
    · exact hk _ (optCanonical.linkOut (.chargeAll (.unstall h)) _ ‹_›)

theorem outCanonical.execApertureAccess {fn : Nat} {addr : Word} {acc : HostAccess} (h : canonical s) :
    outCanonical (execApertureAccess fn addr acc s) := by
  refine .ite h ?_
  dsimp only
  split
  · split
    · exact canonical.hostBad h
    · exact .ite (canonical.hostBad h) (canonical.hostGate h fun _ ht => .answer ht)
  · split
    · exact canonical.hostBad h
    · exact .ite (canonical.hostBad h) (canonical.hostGate h fun _ ht => .answer (.pokes (.sealLines ht)))

theorem outCanonical.execApertureAtomicop {fn : Nat} {addr : Word} {op : HostAtomic} (h : canonical s) :
    outCanonical (execApertureAtomicop fn addr op s) := by
  refine .ite h (.ite (canonical.abort h) ?_)
  dsimp only
  split
  · exact .ite (canonical.abort h) (.ite (canonical.hostBad h) (canonical.hostGate h fun _ ht => .answer (.chain (.pokes ht))))
  · exact canonical.hostBad h
  · exact canonical.hostBad h

theorem outCanonical.execApertureDomainWrite {fn : Nat} {value : Word} (h : canonical s) :
    outCanonical (execApertureDomainWrite fn value s) := .ite h h

theorem outCanonical.execRegisterWrite {fn offset : Nat} {value : Word} (h : canonical s) :
    outCanonical (execRegisterWrite fn offset value s) :=
  .ite h (.ite (canonical.setQueue h) (.ite (.ite h (canonical.setPart h)) (.ite h h)))

theorem canonical.setMove {m : Move} (h : canonical s) : canonical (s.setMove m) := h

theorem outCanonical.execMoveOffer {block pair : Word} (h : canonical s) : outCanonical (execMoveOffer block pair s) :=
  .ite h (.ite (canonical.setMove h) (.ite (canonical.setMove (.ite (.msix h) h)) (canonical.msix (.setMove (.ite (.msix h) h)))))

theorem outCanonical.execMoveCancel (h : canonical s) : outCanonical (execMoveCancel s) := .ite (canonical.msix (.setMove h)) h

/-- The pages of a block are held abstract here, so that no check of a type lists all of them. -/
theorem outCanonical.execRemovalAcknowledge {fn : Nat} (h : canonical s) : outCanonical (execRemovalAcknowledge fn s) := by
  obtain ⟨pages, hpages⟩ : ∃ f, f = State.movePages := ⟨_, rfl⟩
  unfold Machine.execRemovalAcknowledge State.keylessPage
  rw [← hpages]
  exact .ite (.ite (canonical.msix (.setMove h)) (canonical.msix (.setMove (.dropTlbs (.withPot h))))) h

theorem canonical.giveBlock {m : Move} {key : Nat} (h : canonical s) : canonical (s.giveBlock m key) :=
  .foldl (fun _ _ h => .logAt h) (h.withMem (Memory.wf_clear _ _ _ h.1) rfl rfl)

theorem outCanonical.execScrubbingComplete (h : canonical s) : outCanonical (execScrubbingComplete s) := by
  refine .ite h ?_
  split
  · exact h
  · exact canonical.msix (.setMove (.giveBlock h))

theorem canonical.failHostWrites (h : canonical s) : canonical s.failHostWrites := by
  refine .foldl (fun t p ht => ?_) h
  split
  · exact ht
  · exact .engFail ht

theorem canonical.resetHost {x : HostIf} {l : List Inval} (h : canonical s) : canonical { s with host := x, invals := l } := h

theorem outCanonical.execHotReset (h : canonical s) : outCanonical (execHotReset s) :=
  .ite h (canonical.closeInvals (.failHostWrites (.resetHost h)))

/-- After a reset nothing stands in memory, and no context has one but the issuing one. -/
theorem canonical.afterReset : canonical s.afterReset := ⟨reset_mem_wf, .nil, fun _ hp => nomatch hp⟩

theorem outCanonical.execPackageReset (h : canonical s) : outCanonical (execPackageReset s) := .ite h canonical.afterReset

theorem canonical.booted {b : BootInput} (h : canonical s) : canonical (s.booted b) := h

theorem canonical.boot {b : BootInput} (h : canonical s) : canonical (s.boot b) := by
  unfold State.boot
  dsimp only
  split
  · exact h
  · exact .booted h

theorem outCanonical.execPowerOnBoot {b : BootInput} (h : canonical s) : outCanonical (execPowerOnBoot b s) :=
  canonical.boot (.ite .afterReset h)

theorem outCanonical.execPtpSynchronisation {die time : Nat} {offset : Int} (h : canonical s) :
    outCanonical (execPtpSynchronisation die time offset s) :=
  .ite h (.ite (canonical.setDie h) (.ite (canonical.setDie h) (canonical.setDie h)))

theorem canonical.withPorts {l : List (Nat × Port)} (h : canonical s) : canonical { s with ports := l } := h

theorem canonical.rechannel {port : Nat} {dest : BitVec 18} {vc : BitVec 2} (h : canonical s) :
    canonical (s.rechannel port dest vc) := by
  unfold State.rechannel
  dsimp only
  split
  · exact h
  · exact .ite h (.foldl (fun _ _ h => .transmit h) (.withPorts h))

theorem canonical.reroute {port : Nat} {l : List Flit} (h : canonical s) : canonical (s.reroute port l) :=
  .foldl (fun _ _ h => .rechannel h) h

theorem canonical.portsOn (h : canonical s) : canonical s.portsOn := .foldl (fun _ _ h => .ite h (.reroute h)) h

theorem outCanonical.execFlitReceive {port : Nat} {f : Flit} {room : Bool} (h : canonical s) :
    outCanonical (execFlitReceive port f room s) := by
  unfold Machine.execFlitReceive
  split
  · exact h
  · exact .ite (canonical.withPorts h) h

theorem outCanonical.execNegativeAcknowledge {port : Nat} {n : BitVec 12} (h : canonical s) :
    outCanonical (execNegativeAcknowledge port n s) := by
  unfold Machine.execNegativeAcknowledge
  split
  · exact h
  · exact .ite (canonical.withPorts h) h

theorem outCanonical.execPortRetrain {port : Nat} {w : LaneWidth} (h : canonical s) : outCanonical (execPortRetrain port w s) := by
  unfold Machine.execPortRetrain
  split
  · exact h
  · cases w with
    | lanes8 => exact canonical.withPorts h
    | lanes4 => exact canonical.withPorts h
    | lanes2 => exact canonical.withPorts h
    | none => exact canonical.reroute (.withPorts h)

end Outside

end Sys2Proof.Safety
end
end

section
/-!
PROOFS. The canonical form (O4): every instruction and event keeps it, and so every turn, the end of a cycle and the step.
-/
noncomputable section
namespace Sys2Proof.Safety
open Sys2Proof.Machine

/-! ### Every instruction and event -/

section Exec
variable {s : State}

theorem outCanonical.vunpack {i : Instr} {d a : VReg} {n : Nat} (h : canonical s) : outCanonical (vunpack i d a n s) := .prefixed h

/-- The cases are grouped by the shape of the meaning, or name the lemma of their own. -/
theorem outCanonical.exec {i : Instr} (h : canonical s) : outCanonical (Machine.exec i s) := by
  unfold Machine.exec
  cases i with
  | illh | j | jr16 | nop | jmp | ill => exact .issue h h
  | mov16 | addi16 | shli16 | shri16 | srai16 | clz | ctz | popc | sextB | sextH | sextW | zextB | zextH | zextW | brev
  | bswap | bext | bins | addi | andImm | orImm | xorImm | slti | sltiu | shli | shri | srai | rori | addiW | fclassD
  | fclassS => exact .alu1 h
  | add16 | sub16 | and16 | or16 | xor16 | add | sub | andI | orI | xorI | andn | shl | shr | sra | rol | ror | slt | sltu
  | minI | maxI | minu | maxu | mul | mulh | mulhu | divI | divu | remI | remu | sel | addW | subW | shlW | shrW | sraW
  | mulW => exact .alu2 h
  | li16 | li | lis | lpc | scget | rstat => exact .alu0 h
  | ld16 | lds16 => exact .issue h (.loadTo h fun _ ht => ht)
  | st16 | sts16 => exact .issue h (.storeFrom h fun _ ht => ht)
  | beqz | bnez => exact .issue h (.ite h h)
  | end16 | endTask | wrapdone => exact .issue h (.endBody h)
  | pause16 | pause => exact .issue h (canonical.paused h)
  | break16 | trapI | breakI => exact .issue h trivial
  | call | selfId => exact .issue h (canonical.resultW h)
  | jr => exact .execJr h
  | bEq | bNe | bLt | bGe | bLtu | bGeu | bBs | bBc => exact .branch h
  | ldB | ldH | ldW | ldD | ldBu | ldHu | ldWu => exact .loadS h
  | stB | stH | stW | stD => exact .storeS h
  | ldx | ldxu => exact .loadX h
  | stx => exact .execStx h
  | ldaq => exact .execLdaq h
  | strl => exact .execStrl h
  | amoAdd | amoAnd | amoOr | amoXor | amoMin | amoMax | amoMinu | amoMaxu | amoSwap | amoFadd | amoFmax | amoFmin | amoFamax
  | amoWAdd | amoWAnd | amoWOr | amoWXor | amoWMin | amoWMax | amoWMinu | amoWMaxu | amoWSwap | amoWFadd | amoWFmax
  | amoWFmin | amoWFamax => exact .amo h
  | cas | casW => exact .compareSwap h
  | fence => exact .execFence h
  | waitm => exact .execWaitm h
  | faddD | fsubD | fmulD | faddS | fsubS | fmulS => exact .fop2 h
  | fminD | fmaxD | fcmpeqD | fcmpltD | fcmpleD | fsgnjD | fsgnjnD | fsgnjxD | fminS | fmaxS | fcmpeqS | fcmpltS | fcmpleS
  | fsgnjS | fsgnjnS | fsgnjxS => exact .fbits2 h
  | frcpD | frsqD | frcpS | frsqS => exact .fop1 h
  | fmaD | fmsD | fnmaD | fnmsD | fmaS | fmsS | fnmaS | fnmsS => exact .fma h
  | fcvt => exact .execFcvt h
  | fmt => exact .execFmt h
  | cbld => exact .execCbld h
  | scset => exact .execScset h
  | vadd | vsub | vmul | vmin | vmax | vand | vor | vxor | vandn | vshl | vshr | vsra | vabs | vneg | vmov | vmulh | vadds
  | vsubs | vrcp | vrsq | vexp2 | vlog2 => exact .vlanes h
  | vsel => exact .execVsel h
  | vfma | vfms | vfnma | vfnms => exact .vfused h
  | vcmp => exact .execVcmp h
  | vredadd | vredmin | vredmax | vredamax | vredor | vredand => exact .vreduce h
  | vbcast => exact .execVbcast h
  | vins => exact .execVins h
  | vextr => exact .execVextr h
  | vperm | vslideup | vslidedn | vzip | vunzip | viota => exact .vpermute h
  | vcvt | vcvtLo | vcvtHi | vcvtNarrow => exact .vconvert h
  | vpack | vdeq | vscale | vqnt => exact .prefixed h
  | vunpkLo | vunpkHi => exact .vunpack h
  | vld => exact .execVld h
  | vst => exact .execVst h
  | vlds => exact .execVlds h
  | vsts => exact .execVsts h
  | vgath => exact .execVgath h
  | vscat => exact .execVscat h
  | vldt => exact .execVldt h
  | vstt => exact .execVstt h
  | rep => exact .execRep h
  | tset => exact .execTset h
  | tstate => exact .execTstate h
  | tdrain => exact .execTdrain h
  | tfree => exact .execTfree h
  | twait => exact .execTwait h
  | rget | rput | rgath | rscat => exact .slotCommand h
  | rcopy | rred | rmcast => exact .descCommand h
  | rctx => exact .execRctx h
  | lbld => exact .execLbld h
  | lswap | lstat => exact .issue h (canonical.join h)
  | lmm => exact .execLmm h
  | lzero => exact .execLzero h
  | ldrn => exact .execLdrn h
  | lpri => exact .issue h (canonical.vectored (.onTask h))
  | lfence => exact .execLfence h
  | start => exact .execStart h
  | hwait => exact .execHwait h
  | sleep => exact .execSleep h
  | sendMsg => exact .execSendMsg h
  | senda => exact .execSenda h
  | forkT => exact .execForkT h
  | joinT => exact .execJoinT h
  | doneB => exact .execDoneB h
  | launchI => exact .execLaunchI h
  | tlwait => exact .execTlwait h
  | tlsig => exact .execTlsig h
  | migrate => exact .execMigrate h
  | gcall => exact .execGcall h
  | gret => exact .execGret h
  | gpub => exact .execGpub h
  | grevoke => exact .execGrevoke h
  | grevokeKill => exact .execGrevokeKill h
  | ginfo => exact .execGinfo h
  | domid => exact .execDomid h
  | kact => exact .execKact h
  | kdeact => exact .execKdeact h
  | scrub => exact .execScrub h
  | egset => exact .execEgset h
  | compose => exact .execCompose h
  | decomp => exact .execDecomp h
  | timeI => exact .execTimeI h
  | dlread => exact .execDlread h
  | pvalid => exact .execPvalid h
  | eret => exact .execEret h
  | csrr => exact .execCsrr h
  | csrw | csrs | csrc => exact .csrWrite h
  | tlbinv => exact .execTlbinv h
  | tlbsync => exact .execTlbsync h
  | wfi => exact .execWfi h
  | potw => exact .execPotw h
  | ctxsave => exact .execCtxsave h
  | ctxload => exact .execCtxload h
  | fdivD | fdivS => exact .gmath h (.fop2 h)
  | fsqrtD | fsqrtS => exact .gmath h (.fop1 h)
  | mul128 | clmul => exact .gmath h (.wide h)
  | submissionDoorbell => exact .execSubmissionDoorbell h
  | launchAdmission => exact .execLaunchAdmission h
  | leafStart => exact .execLeafStart h
  | taskDispatch => exact .execTaskDispatch h
  | messageArrival => exact .execMessageArrival h
  | barrierPhaseRelease => exact .execBarrierPhaseRelease h
  | launchEnd => exact .execLaunchEnd h
  | engineBeat => exact .execEngineBeat h
  | engineCommandCompletion => exact .execEngineCommandCompletion h
  | kStepBoundary => exact .execKStepBoundary h
  | lbldStart => exact .execLbldStart h
  | lbldCompletion => exact .execLbldCompletion h
  | ldrnCompletion => exact .execLdrnCompletion h
  | ldrnStart => exact .execLdrnStart h
  | lzeroStart => exact .execLzeroStart h
  | lswapExchange => exact .execLswapExchange h
  | lstatStart => exact .execLstatStart h
  | deadlineExpiry => exact .execDeadlineExpiry h
  | wrapUpBudgetOverrun => exact .execWrapUpBudgetOverrun h
  | gateBudgetOverrun => exact .execGateBudgetOverrun h
  | cleanupBudgetOverrun | gateWrapUpOverrun => exact canonical.endOverrun h
  | watchdogExpiry => exact .execWatchdogExpiry h
  | allasleepTrap => exact .execAllasleepTrap h
  | sleepTimeLimit => exact .execSleepTimeLimit h
  | pauseExpiry => exact .execPauseExpiry h
  | handlerStart => exact .execHandlerStart h
  | impreciseFaultStop => exact .execImpreciseFaultStop h
  | taskSuspension => exact .execTaskSuspension h
  | colourCutClose => exact .execColourCutClose h
  | flightSaveComplete => exact .execFlightSaveComplete h
  | flightRestoreComplete => exact .execFlightRestoreComplete h
  | timeSliceStart => exact .execTimeSliceStart h
  | timeSliceEnd => exact .execTimeSliceEnd h
  | awaitLoadTimeout => exact .execAwaitLoadTimeout h
  | sendForwardingExpiry => exact .execSendForwardingExpiry h
  | invalidationAcknowledge => exact .execInvalidationAcknowledge h
  | atsInvalidationCompletion => exact .execAtsInvalidationCompletion h
  | timelineWake => exact .execTimelineWake h
  | remoteAtomic => exact .execRemoteAtomic h
  | apertureAccess => exact .execApertureAccess h
  | apertureAtomicop => exact .execApertureAtomicop h
  | apertureDomainWrite => exact .execApertureDomainWrite h
  | partitionEnable => exact .execPartitionEnable h
  | partitionDisable => exact .execPartitionDisable h
  | moveOffer => exact .execMoveOffer h
  | moveCancel => exact .execMoveCancel h
  | removalAcknowledge => exact .execRemovalAcknowledge h
  | scrubbingComplete => exact .execScrubbingComplete h
  | registerWrite => exact .execRegisterWrite h
  | hotReset => exact .execHotReset h
  | packageReset => exact .execPackageReset h
  | powerOnBoot => exact .execPowerOnBoot h
  | firmwareUpdate => exact .ite h h
  | thermalTrip | throttleStep => exact h
  | ptpSynchronisation => exact .execPtpSynchronisation h
  | holdover => exact .ite h (canonical.setDie h)
  | flitReceive => exact .execFlitReceive h
  | negativeAcknowledge => exact .execNegativeAcknowledge h
  | portRetrain => exact .execPortRetrain h
  | attestationRequest => exact .execAttestationRequest h
  | egressBucketRefill => exact .execEgressBucketRefill h
  | queueEnable => exact .execQueueEnable h
  | debugAttach => exact .execDebugAttach h
  | logCheckpointRequest => exact .execLogCheckpointRequest h
  | remoteAccess => exact .execRemoteAccess h

end Exec

/-! ### The vector stream, the turn of a context and the end of a cycle (R28, R41, R46, R334; log 2) -/

section Schedule
variable {s t : State}

theorem canonical.recount {n k : Nat} (h : canonical t) : canonical (t.recount s n k) := by
  unfold State.recount
  split
  · exact h
  · exact .onLaunch h

theorem canonical.execLater {k : Nat} {v : Behind} {l : Later} {rest : List Behind} (h : canonical s) :
    canonical (s.execLater k v l rest) := by
  have hexec {c : Ctx} : outCanonical (exec l.ins { s.focus k with me := c }) := .exec (.withMe (.focus h))
  unfold State.execLater
  dsimp only
  split
  · rename_i u e
    have ht : canonical (u.focus s.cur) := .focus (hexec.of_eq e)
    refine .ite ht (.ite ?_ (.setCtx (.recount ht)))
    split
    · exact .setCtx (.withLaunches ht)
    · exact .ite (.setCtx (.recount ht)) (.setCtx (.recount ht))
  · exact h

theorem canonical.vectorOn {k n : Nat} (h : canonical s) : canonical (s.vectorOn k n) := by
  induction n generalizing s with
  | zero => exact h
  | succ n ih =>
    have hstream {m : Nat} : canonical (s.streamOn k m) := .streamOn h
    unfold State.vectorOn
    dsimp only
    split
    · exact hstream
    · split
      · exact hstream
      · exact .ite (ih (.execLater hstream)) (.execLater hstream)

theorem canonical.vectorsOn (h : canonical s) : canonical s.vectorsOn := .foldl (fun _ _ h => .regsOut (.vectorOn h)) h

theorem outCanonical.map {o : Out} {f : State → State} (ho : outCanonical o) (hf : ∀ t, canonical t → canonical (f t)) :
    outCanonical (Out.map o f) := by
  cases o with
  | next t => exact hf t ho
  | fault e => trivial
  | refused r => trivial

theorem canonical.turned {k rank : Nat} {before : Ctx} (h : canonical s) : canonical (State.turned k rank before s) := by
  have hout {n : Nat} : canonical { s.regsOut k with rot := n } := canonical.regsOut h
  exact .ite hout (.ite (.setGcore hout) (.onCore hout))

theorem canonical.raiseBits {c : Cause} {tval : Word} {bits : Nat} (h : canonical s) : canonical (s.raiseBits c tval bits) := by
  unfold State.raiseBits
  split
  · exact .waiting h
  · exact .takeTrap (.ite (.noteWoke h) h)

theorem canonical.fetchFatal {c : Cause} {tval : Word} {key : Nat} {owner : Dom} (h : canonical s) :
    canonical (s.fetchFatal c tval key owner) := .ite (.waiting h) (.imprecise (.logMac h))

theorem outCanonical.execDecoded {w : Nat} {d : Decoded} (h : canonical s) : outCanonical (s.execDecoded w d) := by
  cases d with
  | ok i => exact .exec h
  | enc g => exact canonical.raiseBits h

theorem outCanonical.issueNext (h : canonical s) : outCanonical s.issueNext := by
  unfold State.issueNext
  split
  · exact canonical.raiseBits h
  · exact canonical.fetchFatal h
  · split
    · exact canonical.waiting h
    · exact .execDecoded (.keepTlbs (optCanonical.fetchSent h _ ‹_›))

/-- What comes before an instruction, if anything does, comes to a canonical state. -/
def beforeCanonical (o : Option Out) : Prop := ∀ r, o = some r → outCanonical r

theorem beforeCanonical.some {r : Out} (h : outCanonical r) : beforeCanonical (some r) := fun _ e => Option.some.inj e ▸ h
theorem beforeCanonical.none : beforeCanonical none := fun _ e => nomatch e

theorem beforeCanonical.ite {c : Prop} [Decidable c] {o p : Option Out} (ho : beforeCanonical o) (hp : beforeCanonical p) :
    beforeCanonical (if c then o else p) := by
  split
  · exact ho
  · exact hp

theorem canonical.withRot {n : Nat} (h : canonical s) : canonical { s with rot := n } := h

theorem beforeCanonical.before (h : canonical s) : beforeCanonical s.before := by
  unfold State.before
  refine .ite (.some (.execDeadlineExpiry h)) (.ite (.some h) (.ite (.some (canonical.divertLate h))
    (.ite (.some (canonical.runUnwind h)) (.ite (.some h) (.ite (.some (canonical.ite (.zeroStep h) (.withRot (.zeroStep h))))
      (.ite (.some (.execWrapUpBudgetOverrun h)) ?_))))))
  split
  · exact .some (.execGateBudgetOverrun h)
  · exact .ite (.some (canonical.endOverrun h)) (.ite (.some (canonical.endOverrun h)) (.ite (.some h) .none))

theorem outCanonical.turn {rank : Nat} (h : canonical s) : outCanonical (s.turn rank) := by
  unfold State.turn
  split
  · exact beforeCanonical.before h _ ‹_›
  · exact .map (.issueNext h) fun _ ht => .turned ht

theorem canonical.swept (h : canonical s) : canonical s.swept := .ite (.withLaunches h) h

theorem canonical.advance (h : canonical s) : canonical s.advance := h.mapCtxs rfl h.1 rfl

theorem canonical.allLogsOn (h : canonical s) : canonical s.allLogsOn := .foldl (fun _ _ h => .logsOn h) h

theorem canonical.noteConsumers (h : canonical s) : canonical s.noteConsumers := by
  refine .foldl (fun t p ht => ?_) h
  split
  · exact .ite ht (.hwMac ht)
  · exact ht

theorem canonical.settle (h : canonical s) : canonical s.settle :=
  .foldl (fun _ _ h => .abandonSave h) (.remoteWakes (.portsOn (.allLogsOn (.noteConsumers (.replaysOn (.vectorsOn
    (.foldl (fun _ _ h => .ite (.settleFlight h) h) (.killCuts h))))))))

theorem canonical.withAgenda {l : List Instr} (h : canonical s) : canonical { s with agenda := l } := h

theorem canonical.withAgendaInputs {l : List Instr} {m : List (Nat × Instr)} (h : canonical s) :
    canonical { s with agenda := l, inputs := m } := h

theorem canonical.tick (h : canonical s) : canonical s.tick := .withAgendaInputs (.swept (.settle (.advance h)))

theorem outCanonical.step (h : canonical s) : outCanonical (Machine.step s) := by
  unfold Machine.step
  split
  · trivial
  · split
    · exact .ite (.exec (.withAgenda h)) h
    · split
      · exact .turn (.focus h)
      · exact canonical.tick h

end Schedule

/-- Settles O4: every instruction, event and turn, and the end of a cycle, keeps the form, so a step does. -/
theorem stepKeepsCanonicalForm : Obligations.StepKeepsCanonicalForm := by
  intro s t h hstep
  have hout : outCanonical (step s) := .step h
  rwa [hstep] at hout

end Sys2Proof.Safety
end
end
